-- ==== Sys2Proof/Word.lean ====
section
/-! DEFINITION. Word types of the KVT-9640 model: what the manual treats as bits. -/

namespace Sys2Proof

/-- A digit is always 4 bits (00_scope, "Units, numbers and addresses"). -/
abbrev Digit := BitVec 4
/-- A byte is always 8 bits. -/
abbrev Byte := BitVec 8
/-- Word n of a host-visible structure: the 32-bit unit at byte offset 4n (R6). -/
abbrev Word32 := BitVec 32
/-- A register of the internal region, 64 bits (R7). -/
abbrev Word64 := BitVec 64
/-- The 36-bit Uliar word (R403). -/
abbrev UWord := BitVec 36
/-- The 72-bit Uliar double, one F register (R403). -/
abbrev UDouble := BitVec 72
/-- A byte string, lowest address first. -/
abbrev Bytes := List Byte
/-- A digit string, most significant digit first. -/
abbrev Digits := List Digit

end Sys2Proof
end

