-- ==== Sys2Proof/Machine/Map.lean ====
section
/-! DEFINITION. Sparse maps as lists of key and value pairs with strictly rising keys: the one canonical form
used for register files, queues, contexts and tables. -/

namespace Sys2Proof.Machine

/-- A sparse map: keys strictly rising, one pair a key. -/
abbrev Map (α : Type) := List (Nat × α)

/-- The value at key `k`, if any. -/
def mget {α : Type} (k : Nat) : Map α → Option α
  | [] => none
  | (j, v) :: m => if j = k then some v else mget k m

/-- Put `v` at key `k`, in key order. -/
def mput {α : Type} (k : Nat) (v : α) : Map α → Map α
  | [] => [(k, v)]
  | (j, w) :: m =>
    if k < j then (k, v) :: (j, w) :: m
    else if k = j then (k, v) :: m
    else (j, w) :: mput k v m

/-- Remove key `k`. -/
def mdel {α : Type} (k : Nat) : Map α → Map α
  | [] => []
  | (j, w) :: m => if j = k then mdel k m else (j, w) :: mdel k m

/-- Put a value, or remove the key when the value is what an unlisted key reads as. -/
def mputD {α : Type} [DecidableEq α] (dflt : α) (k : Nat) (v : α) (m : Map α) : Map α :=
  if v = dflt then mdel k m else mput k v m

/-- The value at key `k`, or the default. -/
def mgetD {α : Type} (dflt : α) (k : Nat) (m : Map α) : α := (mget k m).getD dflt

/-- Apply a function to the value at key `k`; nothing happens where the key is unlisted. -/
def mmod {α : Type} (k : Nat) (f : α → α) : Map α → Map α
  | [] => []
  | (j, w) :: m => if j = k then (j, f w) :: m else (j, w) :: mmod k f m

/-- The values in key order. -/
def mvals {α : Type} (m : Map α) : List α := m.map (·.2)

/-- Apply a function to every value. -/
def mmap {α : Type} (f : Nat → α → α) (m : Map α) : Map α := m.map (fun p => (p.1, f p.1 p.2))

/-- Is the key listed? -/
def mhas {α : Type} (k : Nat) (m : Map α) : Bool := (mget k m).isSome

/-- The canonical form: keys strictly rising, all above `lo`. -/
def mwfFrom {α : Type} : Nat → Map α → Bool
  | _, [] => true
  | lo, (j, _) :: m => decide (lo ≤ j) && mwfFrom (j + 1) m

/-- The canonical form of a sparse map. -/
def mwf {α : Type} (m : Map α) : Bool := mwfFrom 0 m

/-- The lowest number below `n` that is not a key. -/
def mfree {α : Type} (m : Map α) (start n : Nat) : Option Nat :=
  ((List.range n).map (· + start)).find? (fun k => !mhas k m)

/-- Replace the element at position `i` of a list. -/
def lset {α : Type} : List α → Nat → α → List α
  | [], _, _ => []
  | _ :: l, 0, v => v :: l
  | x :: l, i + 1, v => x :: lset l i v

/-- The little-endian number of a byte string. -/
def leNat : Bytes → Nat
  | [] => 0
  | b :: l => b.toNat + 256 * leNat l

/-- `n` little-endian bytes of a number. -/
def leBytes : Nat → Nat → Bytes
  | 0, _ => []
  | n + 1, v => BitVec.ofNat 8 v :: leBytes n (v / 256)

/-- `n` big-endian bytes of a number. -/
def beBytes (n v : Nat) : Bytes := (leBytes n v).reverse

/-- The big-endian number of a byte string. -/
def beNat (b : Bytes) : Nat := leNat b.reverse

/-- Bytes [off, off+n) of a string, zero-padded. -/
def bslice (b : Bytes) (off n : Nat) : Bytes :=
  let t := (b.drop off).take n
  t ++ List.replicate (n - t.length) 0

/-- 32-bit word n of a host-visible structure: at byte offset 4n (R6). -/
def word32 (b : Bytes) (n : Nat) : Nat := leNat (bslice b (4 * n) 4)

/-- The 64-bit unit at 32-bit word n. -/
def word64 (b : Bytes) (n : Nat) : Nat := leNat (bslice b (4 * n) 8)

/-- Bits [lo + w - 1 : lo] of a number. -/
def bits (v lo w : Nat) : Nat := v / 2 ^ lo % 2 ^ w

/-- Are bits [lo + w - 1 : lo] of a number zero (an RZ field, R11)? -/
def rz (v lo w : Nat) : Bool := bits v lo w == 0

/-- Saturating addition at `2 ^ w - 1`. -/
def satAdd (w a b : Nat) : Nat := min (a + b) (2 ^ w - 1)

/-- Bytes as hexadecimal-order digits, less significant digit first (R5). -/
def bytesDigits : Bytes → List Digit
  | [] => []
  | b :: l => BitVec.ofNat 4 b.toNat :: BitVec.ofNat 4 (b.toNat / 16) :: bytesDigits l

/-- Two's complement reading of a `w`-bit number. -/
def sInt (w v : Nat) : Int := if v % 2 ^ w < 2 ^ (w - 1) then (v % 2 ^ w : Nat) else (v % 2 ^ w : Nat) - (2 ^ w : Nat)

/-- The `w`-bit two's complement code of an integer. -/
def ofInt (w : Nat) (i : Int) : Nat := (i % (2 ^ w : Nat)).toNat

end Sys2Proof.Machine
end

