-- ==== Sys2Proof/Machine/TypesValue.lean ====
section
/-! DEFINITION. Column values and batches: types, stored digit forms, and the columns that travel between operators. -/

namespace Sys2Proof.Machine

/-- A column type: its code of Table 02-4, precision (the width of a KEY) and scale. -/
structure ColType where
  code : Nat
  prec : Nat
  scale : Nat
  deriving DecidableEq, Repr

/-- One value of a column: null; the digits of its stored form, most significant first (R36); or a string by its length,
its first 16 bytes (zero-padded), and the DA of its heap record (0 for 16 bytes or fewer, R41). -/
inductive ColVal where
  | null
  | dig (d : Digits)
  | str (len : Nat) (pre : Bytes) (heap : Nat)
  deriving DecidableEq, Repr

/-- A constant or a bound parameter (R219, R224): null, the digits of its stored form, or the bytes of a string. -/
inductive Lit where
  | null
  | dig (d : Digits)
  | str (b : Bytes)
  deriving DecidableEq, Repr

/-- A column of a batch: its type and one value a row; `scan` names a column of the SCAN whose values have not been needed yet. -/
structure Column where
  ty : ColType
  scan : Option Nat
  vals : List ColVal
  deriving DecidableEq, Repr

/-- A batch (R84, R155, R228): its sequence number, row count, columns, selection vector and carried origins (none: the rows' own). -/
structure Batch where
  seq : Nat
  rows : Nat
  cols : List Column
  sel : List Bool
  origin : List (Nat × Nat)
  deriving DecidableEq, Repr

/-- The three arithmetic exceptions as ARU_EXCLOG codes them (R107). -/
inductive ArithExc where
  | overflow | divideByZero | invalidCast
  deriving DecidableEq, Repr

end Sys2Proof.Machine
end

