-- ==== Sys2Proof/Machine/TypesBlock.lean ====
section
/-! DEFINITION. Column block headers, tables and batch lists (Digit Planes and Column Formats; Plans, Pipelines and Services). -/

namespace Sys2Proof.Machine

/-- A block header that has passed its checks (Table 02-2). `ty.prec` of a KEY is its natural width. -/
structure Hdr where
  ty : ColType
  stored : Nat
  enc : Nat
  rows : Nat
  nulls : Nat
  validity : Bool
  heap : Bool
  zoneValid : Bool
  zoneTrunc : Bool
  runs : Nat
  length : Nat
  dict : Nat
  heapBase : Nat
  forBase : Nat
  zmin : Digits
  zmax : Digits
  tableCrc : Nat
  deriving DecidableEq, Repr

/-- What the manual leaves to the device when it writes a block: where the block and its heap lie, the FOR base and width (or the
DICT code width), whether a validity plane is present without nulls, and the RLE run ends (R28, R40, R42, R47, R48). -/
structure BlockChoice where
  da : Nat
  heapDa : Nat
  forBase : Nat
  width : Nat
  validity : Bool
  runs : List Nat
  deriving DecidableEq, Repr

/-- Where a dictionary lies, the cluster that builds its code map, and whether the device marks it sorted: its descriptor and its entry blocks with their heaps (Table 02-6). -/
structure DictChoice where
  da : Nat
  home : Nat
  sorted : Bool
  blocks : List BlockChoice
  deriving DecidableEq, Repr

/-- What the manual leaves to the device when it writes a table's new batches: for each batch the layout of its columns' blocks, for each DICT column its
dictionary, and the DA of the new batch list. -/
structure TableChoice where
  blocks : List (List BlockChoice)
  dicts : List DictChoice
  list : Nat
  deriving DecidableEq, Repr

/-- A column of a table's schema (R54, R233): type, timezone string and the name its stream gave. -/
structure ColSchema where
  ty : ColType
  tz : Bytes
  name : Bytes
  deriving DecidableEq, Repr

/-- Memory that a batch's blocks, heaps or dictionaries occupy: its DA and its size in bytes. -/
structure Extent where
  da : Nat
  bytes : Nat
  deriving DecidableEq, Repr

/-- A batch list entry (Table 08-13) and the memory that its blocks occupy. -/
structure BatchEntry where
  rows : Nat
  blocks : List Nat
  own : List Extent
  deriving DecidableEq, Repr

/-- A device-resident table (R233): its schema, its batch list and the DA of that list, and whether the list was found poisoned (Table 10-9). -/
structure Table where
  camp : Nat
  cols : List ColSchema
  batches : List BatchEntry
  da : Nat
  damaged : Bool
  deriving DecidableEq, Repr

/-- A slot of handles: its current generation and what it holds (R208). -/
structure TableSlot where
  gen : Nat
  tab : Option Table
  deriving DecidableEq, Repr

/-- A field of an Arrow schema: the device type its Arrow type maps to (none: a type Table 02-4 does not take), its timezone string and name,
and, for a dictionary-encoded field, the dictionary's id, the bytes of an index, whether indices are signed and whether their type is accepted (R53). -/
structure ArrowField where
  ty : Option ColType
  tz : Bytes
  name : Bytes
  dict : Option Nat
  indexBytes : Nat
  indexSigned : Bool
  indexOk : Bool
  deriving DecidableEq, Repr

/-- The content of a message of the host's Arrow stream, its metadata decoded (R51 to R54). -/
inductive ArrowKind where
  /-- Schema: endianness and fields. -/
  | schema (little : Bool) (fields : List ArrowField)
  /-- Dictionary batch: id, delta, length, compressed, buffers (offset, length). -/
  | dictionary (id : Nat) (delta : Bool) (rows : Nat) (compressed : Bool) (buffers : List (Nat × Nat))
  /-- Record batch: rows, compressed, per field its null count, and the buffers in order. -/
  | record (rows : Nat) (compressed : Bool) (nulls : List Nat) (buffers : List (Nat × Nat))
  /-- A message of another header type. -/
  | other
  /-- The end-of-stream marker. -/
  | eos
  deriving DecidableEq, Repr

/-- One message of an Arrow stream: whether it has its continuation marker and its metadata parses, whether the metadata version is V5, the bytes
of marker, length and metadata, the declared length of the body, the body, and the content. -/
structure ArrowMsg where
  framed : Bool
  v5 : Bool
  metaLen : Nat
  bodyLen : Nat
  body : Bytes
  kind : ArrowKind
  deriving DecidableEq, Repr

end Sys2Proof.Machine
end

