-- ==== Sys2Proof/Machine/TypesMem.lean ====
section
/-! DEFINITION. Memory-side state: cluster caches, translation caches, DMA channels, Event Router extras and the
error log. -/

namespace Sys2Proof.Machine

/-- A cluster cache line (R303): line number L, dirty, cache class (0 Stream, 1 State, 2 Control), for a dirty
State-class line the execution that last wrote it, and its 128 bytes. -/
structure Line where
  num : Nat
  dirty : Bool
  cls : Nat
  exec : Nat
  data : Bytes
  poison : Bool
  deriving DecidableEq, Repr

/-- A line in the eviction buffer (Table 10-6, Table 10-7). -/
structure EvbEntry where
  num : Nat
  exec : Nat
  data : Bytes
  poison : Bool
  deriving DecidableEq, Repr

/-- A fill in flight: the line, its class, the Camp and execution that asked, the way it takes, the writes to merge
in order (offset and bytes), and the line of a Control-class
victim whose write to memory it waits for. -/
structure Fill where
  num : Nat
  way : Nat
  cls : Nat
  camp : Nat
  exec : Nat
  merge : List (Nat × Bytes)
  waitCtl : Option Nat
  deriving DecidableEq, Repr

/-- Maintenance operations (R307). -/
inductive MaintOp where
  | flush | invalidate | flushInval
  deriving DecidableEq, Repr

/-- One maintenance operation by address: first line, number of lines (0: every line). -/
structure Maint where
  op : MaintOp
  line : Nat
  lines : Nat
  deriving DecidableEq, Repr

/-- One cluster's cache: lines by set * 16 + way, tree pseudo-LRU bits by set, the eviction buffer, fills in flight,
Control-class victims being written to memory, maintenance waiting for a race to end (R308), line operations recorded
while Frozen-retained (R307) and the hits and misses not yet making up 1,024 (Table 10-19). -/
structure ClusterCache where
  lines : Map Line
  plru : Map Nat
  evb : List EvbEntry
  fills : List Fill
  ctlWrites : List EvbEntry
  maint : List Maint
  recorded : List Maint
  recordAll : Bool
  hitRem : Nat
  missRem : Nat
  deriving DecidableEq, Repr

/-- An empty cluster cache. -/
def ClusterCache.empty : ClusterCache := ⟨[], [], [], [], [], [], [], false, 0, 0⟩

/-- What a parity check of a cache line finds on an access (Table 10-8). -/
inductive Parity where
  | ok | data | tag | stateField
  deriving DecidableEq, Repr

/-- What the memory's ECC finds on an access (R310, R311). -/
inductive Ecc where
  | ok | corrected | uncorrectable
  deriving DecidableEq, Repr

/-- What an access asks for (R299). -/
inductive Acc where
  | read | write | fetch
  deriving DecidableEq, Repr

/-- Who walks: a tile, another requester of a cluster, or the DMA engine (R300). -/
inductive XReq where
  | tile (t : Nat)
  | cluster (c : Nat)
  | dma
  deriving DecidableEq, Repr

/-- A translation: Camp, first view DA and size of the page, frame, tier, class and permissions (R299). -/
structure Xlt where
  camp : Nat
  view : Nat
  size : Nat
  pa : Nat
  tier : Nat
  cls : Nat
  r : Bool
  w : Bool
  x : Bool
  deriving DecidableEq, Repr

/-- Device memory and what caches it. `mem` is keyed by byte address (DA / 2); `poison` holds the poisoned ECC units by
granule number (32 bytes); tile, cluster and DMA translation caches, newest first. -/
structure MemState where
  mem : List Host.Cell
  poison : List Nat
  caches : Map ClusterCache
  tileXlt : Map (List Xlt)
  clusterXlt : Map (List Xlt)
  dmaXlt : List Xlt
  scratchCamp : Map Nat
  deriving DecidableEq, Repr

/-- A DMA descriptor in progress (R382 to R384): slot, lap, posted word 0, source, destination, cookie, bytes read so
far, staged bytes, bytes written and acknowledged, whether the write side runs, the tick a byte last entered, the
command it serves, and where it stands. -/
structure DmaActive where
  slot : Nat
  word0 : Nat
  len : Nat
  src : Nat
  dst : Nat
  cookie : Nat
  readOff : Nat
  staged : Bytes
  written : Nat
  acked : Nat
  draining : Bool
  lastIn : Nat
  status : Nat
  completing : Bool
  uid : Option Nat
  deriving DecidableEq, Repr

/-- A committed request to a core in vectored mode (R393, R395). -/
structure CoreReq where
  source : Nat
  priority : Nat
  handler : Nat
  commitTick : Nat
  deriving DecidableEq, Repr

/-- An event token on its way to a matching store (R398). -/
structure EventToken where
  source : Nat
  die : Nat
  tag : Nat
  epoch : Nat
  camp : Nat
  deriving DecidableEq, Repr

/-- DMA channels and the Event Router: descriptors in progress by channel, the commands that posted and not yet taken entries
serve (by fetch number) by channel, hold-off expiry ticks by group, committed requests by core, open mask windows (R396) by source, event
tokens in flight. -/
structure IoState where
  dma : Map DmaActive
  serves : Map (List (Option Nat))
  holdUntil : Map Nat
  reqs : Map CoreReq
  windows : Map Nat
  tokens : List EventToken
  deriving DecidableEq, Repr

/-- One entry of the error log (Table 16-5). -/
structure ErrEntry where
  cls : Nat
  unit : Nat
  status : Nat
  detail : Nat
  camp : Nat
  devtime : BitVec 64
  addr : Nat
  seq : Nat
  inst : Nat
  deriving DecidableEq, Repr

/-- The AON error log (R493), in ascending seq, and the next entry number. -/
structure ErrLog where
  entries : List ErrEntry
  next : Nat
  deriving DecidableEq, Repr

/-- Levels of the board's pins and latches of the AON domain (R507, R515, R516, R522): the three reset inputs as
filtered, the tick of the last rising edge among them, PERST_N, REFCLK good, PROCHOT_N, GPIO levels, the straps as
sampled, the thermal-trip latch (THERMTRIP_N) and FAULT_N. -/
structure Pins where
  resetHigh : Bool
  aonGood : Bool
  mainGood : Bool
  lastEdge : Nat
  perstHigh : Bool
  refclkOk : Bool
  prochot : Bool
  gpio : BitVec 8
  strapBoot : Nat
  strapDbg : Bool
  thermTrip : Bool
  fault : Bool
  deriving DecidableEq, Repr

end Sys2Proof.Machine
end

