-- ==== Sys2Proof/Machine/TypesHost.lean ====
section
/-! DEFINITION. The host side of the block: operating modes, PCIe function state, queue pairs, result rings, fetched
commands, retained completions, drains, and what the block sends outward. -/

namespace Sys2Proof.Machine

/-- The six operating modes (R487, Table 01-9). -/
inductive Mode where
  | reset | boot | service | detached | maintenance | halted
  deriving DecidableEq, Repr

/-- HIF_STATUS.mode (Table 11-14). In RESET nothing answers; the code 0 stands for it. -/
def Mode.code : Mode → Nat
  | .reset => 0 | .boot => 1 | .service => 2 | .detached => 3 | .maintenance => 4 | .halted => 5

/-- A completion entry without its phase bit (Table 11-5). -/
structure Cqe where
  result : Nat
  dropped : Nat
  sqHead : Nat
  sqId : Nat
  cid : Nat
  ret : Bool
  status : Nat
  deriving DecidableEq, Repr

/-- A submission queue (R325): `tail` is the latest doorbell value, `head` the next entry to fetch. -/
structure Sq where
  camp : Nat
  cq : Nat
  depth : Nat
  base : Nat
  tail : Nat
  head : Nat
  deriving DecidableEq, Repr

/-- A completion queue (R325, R328): `tail` is the next slot written, `phase` the phase bit of the current lap,
`head` the latest head doorbell, `unacked` the entries written that no head doorbell covers yet, each with its Camp. -/
structure Cq where
  camp : Nat
  depth : Nat
  base : Nat
  tail : Nat
  phase : Bool
  head : Nat
  vector : Nat
  count : Nat
  timeUs : Nat
  since : Nat
  oldest : Nat
  unacked : List (Nat × Cqe)
  deriving DecidableEq, Repr

/-- A completion handed over to the CQ write engine and not yet written (R329). -/
structure Waiting where
  fn : Nat
  cq : Nat
  camp : Nat
  e : Cqe
  deriving DecidableEq, Repr

/-- A posted buffer of a result ring (Table 11-7). -/
structure PostedBuf where
  slot : Nat
  phase : Bool
  len : Nat
  addr : Nat
  cookie : Nat
  deriving DecidableEq, Repr

/-- A buffer that a command is filling (R338). -/
structure OpenBuf where
  buf : PostedBuf
  sq : Nat
  cid : Nat
  bytes : Nat
  rows : Nat
  batches : Nat
  first : Bool
  lastTick : Nat
  deriving DecidableEq, Repr

/-- A result ring (R337): `next` and `phase` are the server's index and lap phase, `free` the posted buffers not yet
taken, `opens` the buffers being filled. -/
structure Ring where
  camp : Nat
  depth : Nat
  base : Nat
  next : Nat
  phase : Bool
  vector : Nat
  count : Nat
  timeUs : Nat
  since : Nat
  oldest : Nat
  free : List PostedBuf
  opens : List OpenBuf
  deriving DecidableEq, Repr

/-- One message of a result stream: its bytes, the rows of a record batch, and whether it is one (R55, R338). -/
structure Msg where
  bytes : Bytes
  rows : Nat
  batch : Bool
  deriving DecidableEq, Repr

/-- A command's result stream (R338): the messages not yet placed in buffers (the first may be partly placed), whether bytes have
been placed, whether a completed buffer began with the schema, and, once the stream has ended, its status. -/
structure Stream where
  uid : Nat
  fn : Nat
  ring : Nat
  sq : Nat
  cid : Nat
  camp : Nat
  msgs : List Msg
  placed : Bool
  ended : Option Nat
  deriving DecidableEq, Repr

/-- One MSI-X table entry and its pending bit (R335). -/
structure MsixVec where
  addr : Nat
  data : Nat
  masked : Bool
  pending : Bool
  deriving DecidableEq, Repr

/-- The name of a fetched command: function, submission queue, command ID. -/
structure CmdRef where
  fn : Nat
  sq : Nat
  cid : Nat
  deriving DecidableEq, Repr

/-- What a started command waits for before its commit point. -/
inductive Wait where
  /-- Fetched; its own step has not run. -/
  | fetched
  /-- An ABORT that caught a command waits for that command's hand-over (R357). -/
  | after (uid : Nat)
  /-- FLUSH waits for the commands fetched earlier from its SQ (R358). -/
  | flush
  /-- SQ_DELETE waits for the commands of its SQ (R359). -/
  | sqGone (q : Nat)
  /-- CAMP_DESTROY waits until the Camp is FREE (R363). -/
  | teardown (camp : Nat)
  /-- ACTIVATE or MAINT_ENTER waits for its drain (R360). -/
  | drain
  /-- EXECUTE waits for its execution. -/
  | exec (id : Nat)
  /-- EXT_CALL waits for its thread. -/
  | thread (core slot : Nat)
  /-- RESULT_FETCH waits until its stream is in completed buffers. -/
  | stream
  /-- DIGEST waits for its context of the root engine. -/
  | digest (ctx : Nat)
  deriving DecidableEq, Repr

/-- A fetched command that has not reached its commit point (R356). `uid` numbers fetches; `cdw` holds the 16 words of
its entry; `avail` is min(declared, supplied); `short` marks a shortfall and `long` an excess of the scatter list (R354);
`gone` says that its queues have ended at a detach (Table 11-9); `failed` is the first failing status (R352). -/
structure Cmd where
  uid : Nat
  ref : CmdRef
  cq : Nat
  camp : Nat
  op : Nat
  strict : Bool
  cdw : List Nat
  avail : Nat
  short : Bool
  long : Bool
  gone : Bool
  wait : Wait
  dropped : Nat
  failed : Option Nat
  result : Nat
  deriving DecidableEq, Repr

/-- The completion detail kept for a CID until it is reused (log 0x05 of Table 12-6). -/
structure Kept where
  dropped : Nat
  status : Nat
  result : Nat
  deriving DecidableEq, Repr

/-- An ATTACH challenge in force (R342). -/
structure Challenge where
  fn : Nat
  bytes : Bytes
  expiry : Nat
  deriving DecidableEq, Repr

/-- A drain in progress (R360). -/
structure Drain where
  uid : Nat
  maint : Bool
  deadline : Option Nat
  deriving DecidableEq, Repr

/-- The fetch arbiter (R332): next function for admin fetches, the function and queue whose turn it is among the
I/O queues with what is left of its turn, and each function's own round-robin pointer. -/
structure Arb where
  admin : Nat
  fn : Nat
  sq : Nat
  left : Nat
  ptr : Map Nat
  deriving DecidableEq, Repr

/-- A selective IDE stream (R473): the key set in use, and the keys programmed, by 8 * set + 2 * sub-stream + direction. -/
structure IdeStream where
  id : Nat
  secure : Bool
  keySet : Nat
  keys : Map Bytes
  deriving DecidableEq, Repr

/-- State of the link itself (R316 to R319). -/
structure LinkState where
  up : Bool
  readyAt : Nat
  vfReadyAt : Nat
  vfs : Nat
  ide : List IdeStream
  deriving DecidableEq, Repr

/-- Everything host-facing that a detach or a function reset ends (R320), and what of it is kept per Camp. -/
structure HostState where
  link : LinkState
  cfg : Map Nat
  sqs : Map Sq
  cqs : Map Cq
  rings : Map Ring
  engine : List Waiting
  msix : Map MsixVec
  cmds : List Cmd
  kept : Map Kept
  arb : Arb
  retained : Map (List Cqe)
  repost : Map Nat
  challenges : Map Challenge
  lockout : Map Nat
  drain : Option Drain
  uid : Nat
  streams : List Stream
  deriving DecidableEq, Repr

/-- Key of queue or ring `q` of function `f`. -/
def fq (f q : Nat) : Nat := f * 65536 + q

/-- Key of a command for the completion detail. -/
def CmdRef.key (r : CmdRef) : Nat := (r.fn * 65536 + r.sq) * 65536 + r.cid

/-- The standard PCIe configuration fields the block answers for (R3, R316; their layout is the PCIe standard's). -/
inductive CfgReg where
  | vendorDevice | classRevision | subsystem | command | bar0 | bar2 | msixControl | deviceControl | deviceControl2
  | linkStatus | sriovControl | atsControl | ptmControl | pmControl | vcControl | aerMask | capability (id : Nat)
  deriving DecidableEq, Repr

/-- A configuration request: a read, or a write of a value. -/
structure CfgReq where
  reg : CfgReg
  write : Option Nat
  deriving DecidableEq, Repr

/-- The answer to a configuration request (R319). -/
inductive CfgResp where
  | retry | value (v : Nat) | unsupported | written
  deriving DecidableEq, Repr

/-- The AER reports of Table 16-10. -/
inductive AerError where
  | uncorrectableInternal | completionTimeout | unsupportedRequest | completerAbort | poisonedTlp | ideCheckFailed
  | malformedTlp | ecrcFailed | unexpectedCompletion | receiverOverflow | linkError
  deriving DecidableEq, Repr

/-- How a host or Camp 0 names a register access: a register-window DA, or an offset of a function's BAR. -/
inductive RegPath where
  | window (da : Nat)
  | bar (fn barNo off size : Nat)
  deriving DecidableEq, Repr

/-- The transport an SPDM request came by (R470). -/
inductive SpdmPath where
  | doe | command
  deriving DecidableEq, Repr

/-- What the block sends outward, in order: writes to host memory, messages, answers. -/
inductive Out where
  /-- One write request to host memory by function `fn` (requester ID), lowest address first. -/
  | hostWrite (fn addr : Nat) (data : Bytes)
  /-- One read request to host memory. -/
  | hostRead (fn addr len : Nat)
  /-- An MSI-X message of vector `v` of function `fn` (R335). -/
  | msix (fn v : Nat)
  /-- An AER report of the PF (R505). -/
  | aer (e : AerError)
  /-- The answer to a host read of a BAR. -/
  | mmio (fn v : Nat)
  /-- The value a Camp 0 register-window read returned. -/
  | window (v : Nat)
  /-- The answer to a configuration request. -/
  | cfg (fn : Nat) (r : CfgResp)
  /-- A DOE answer (R316). -/
  | doe (data : Bytes)
  /-- An SPDM message sent back on the transport it came by. -/
  | spdm (path : SpdmPath) (data : Bytes)
  /-- A vendor sideband response (Table 16-9): command, status word and data. -/
  | sideband (cmd status : Nat) (data : Bytes)
  /-- A PLDM or MCTP response: completion code and data (R501). -/
  | pldm (code : Nat) (data : Bytes)
  /-- An AVSBus Voltage write on a port, in mV (R510). -/
  | avs (port mv : Nat)
  /-- The result words the Match Unit returns to the core that asked (Table 07-2, Table 07-16). -/
  | matchWords (w : List Nat)
  /-- The entries a dictionary operation returns: keys as numbers, and payloads; none is a miss (R196). -/
  | dictEntries (l : List (Nat × Nat))
  deriving DecidableEq, Repr

end Sys2Proof.Machine
end

