-- ==== Sys2Proof/Machine/TypesTrust.lean ====
section
/-! DEFINITION. Boot, trust and digest state: fuses, the configuration in force, the Cairn log, keys, SPDM connections and
sessions, Digest Engine contexts (Measured Boot, Attestation and the Digest Engine). -/

namespace Sys2Proof.Machine

/-- The security fuses of Table 15-1. `svn` holds the five thermometer banks, `owner` and `vendor` the key hashes. -/
structure Fuses where
  uds : Bytes
  vendor : Bytes
  owner : Bytes
  svn : List (BitVec 64)
  deviceCert : Bytes
  deriving DecidableEq, Repr

/-- The POLICY record (Table 15-5). -/
structure Policy where
  maintAllowed : Bool
  keep : Bool
  jtag : Nat
  uart : Nat
  spdmAdmin : Bool
  farMinGib : Nat
  capMin : Nat
  capMax : Nat
  deriving DecidableEq, Repr

/-- The RETAIN record: bytes of retained results and entries of retained completions, for tenant and service Camps. -/
structure RetainRec where
  tenantBytes : Nat
  tenantEntries : Nat
  serviceBytes : Nat
  serviceEntries : Nat
  deriving DecidableEq, Repr

/-- An EXTENSION record: the service Camp's descriptor (Table 12-9), the mask of assignable thread slots and the tile-time limit of
one invocation in tile-ns. -/
structure ExtRec where
  index : Nat
  desc : Bytes
  slots : Nat
  limit : Nat
  deriving DecidableEq, Repr

/-- A GRANT record. -/
structure GrantRec where
  ext : Nat
  services : Nat
  lo : Nat
  hi : Nat
  classes : Nat
  deriving DecidableEq, Repr

/-- A TIMER record: start is an offset in ns after the end of BOOT. -/
structure TimerRec where
  ext : Nat
  service : Nat
  start : Nat
  interval : Nat
  runs : Nat
  deriving DecidableEq, Repr

/-- An EVENT record. -/
structure EventRec where
  source : Nat
  ext : Nat
  service : Nat
  deriving DecidableEq, Repr

/-- What the records of a configuration image say, in record order, apart from REG records (Table 15-5). The manual gives these
records' content and not their layout inside the record. -/
structure CfgContent where
  identity : List (Nat × Nat)
  policy : List Policy
  retain : List RetainRec
  exts : List ExtRec
  grants : List GrantRec
  timers : List TimerRec
  events : List EventRec
  estimates : List (List Nat)
  ownerCert : List Bytes
  deriving DecidableEq, Repr

/-- An image in flash: its bytes from the image base (none: a flash read error), and what the records of its configuration
image say. -/
structure FlashImage where
  bytes : Option Bytes
  cfg : CfgContent
  deriving DecidableEq, Repr

/-- A stack's training outcome (R294). -/
structure StackTrain where
  repaired : Nat
  ok : Bool
  deriving DecidableEq, Repr

/-- What a DIMM's SPD hub and its training say (R295, R296): slot 2 * channel + s, capacity in GiB, ranks, 3DS height code, density
code, x4 RDIMM or not, highest speed in 400 MT/s units. -/
structure Dimm where
  slot : Nat
  gib : Nat
  ranks : Nat
  height : Nat
  density : Nat
  rdimmX4 : Bool
  maxSpeed : Nat
  trains : Bool
  deriving DecidableEq, Repr

/-- What firmware loads into a Uliar context at the end of BOOT (R402; the values Table 14-8's field maps mark as firmware's): core and slot, for a thread the tag
of its entry, its code word, and control registers by number. -/
structure CtxInit where
  core : Nat
  slot : Nat
  tag : Nat
  word : Nat
  crs : List (Nat × Nat)
  deriving DecidableEq, Repr

/-- What a boot meets outside the block and what firmware decides: the STRAP_BOOT level at a warm restart, the two flash images, the time from each boot step to the next in AON
ticks, the training outcomes, the IDs firmware gives the service Camps by ascending ext_index, the translation tables firmware
writes at step 10: entries (physical DA and value) and each Camp's root, and what Camp 0 holds reserved (near and far memory in 64 KiB
units, matching-store units, plans, standing queries, ternary and automaton units); and the Uliar contexts of Camp 0. -/
structure BootInputs where
  strapBoot : Nat
  imageA : FlashImage
  imageB : FlashImage
  delays : List Nat
  hbm : List StackTrain
  dimms : List Dimm
  serviceCamps : List Nat
  entries : List (Nat × BitVec 64)
  roots : List (Nat × Nat)
  rootReserve : List Nat
  contexts : List CtxInit
  deriving DecidableEq, Repr

/-- Why the boot ROM runs: after RESET, after ACTIVATE, after HALT_RESTART (Table 16-2). -/
inductive BootKind where
  | cold | activate | haltRestart
  deriving DecidableEq, Repr

/-- An installed owner extension: ext_index, service Camp, svn and image body. -/
structure ExtInfo where
  index : Nat
  camp : Nat
  svn : Nat
  body : Bytes
  deriving DecidableEq, Repr

/-- A key in a Digest Engine slot with its owner (R476, R477). -/
structure KeyCopy where
  camp : Nat
  key : Bytes
  deriving DecidableEq, Repr

/-- How far an SPDM connection has got: nothing, version, capabilities, algorithms. -/
inductive SpdmStage where
  | start | version | capabilities | negotiated
  deriving DecidableEq, Repr

/-- One transport's connection (R470): its stage, negotiated version, the messages so far (transcript), and a response
waiting for SECURITY_RECV. -/
structure SpdmConn where
  path : SpdmPath
  stage : SpdmStage
  version : Nat
  transcript : Bytes
  response : Option Bytes
  deriving DecidableEq, Repr

/-- An SPDM session (R470, R472): its ID, transport, whether FINISH has established it, its exported master secret, the messages
received and sent, and which of sessions 0–3 it is. -/
structure Session where
  id : Nat
  path : SpdmPath
  established : Bool
  secret : Bytes
  received : Nat
  sent : Nat
  slot : Nat
  deriving DecidableEq, Repr

/-- A queued FEED of a context: its bytes, read from the owner's view. -/
structure Feed where
  data : Bytes
  poison : Bool
  deriving DecidableEq, Repr

/-- Who drives a context: register writes, a DIGEST command's message (by fetch number while one waits), or an ECALL DIGEST of a thread. -/
inductive DgeOwner where
  | regs
  | command (camp : Nat)
  | thread (core slot : Nat)
  deriving DecidableEq, Repr

/-- What a Digest Engine context holds beyond its registers (R478 to R482): its generation, the digest algorithm and captured key
(an empty list of states: a plain hash) as inner and outer chaining values, the running chaining value, the message bytes not yet taken,
bytes taken, queued FEEDs, a FINISH waiting, blocks left of the finish, whether the outer block runs, the expected bytes loaded (by word),
the result once the last block is done, and who drives it. -/
structure DgeCtx where
  gen : Nat
  alg : Nat
  inner : List Nat
  outer : List Nat
  chain : List Nat
  buf : Bytes
  total : Nat
  feeds : List Feed
  finish : Bool
  tail : Bytes
  outerRun : Bool
  expect : Map Nat
  result : Bytes
  owner : DgeOwner
  deriving DecidableEq, Repr

/-- An unused context. -/
def DgeCtx.empty : DgeCtx := ⟨0, 0, [], [], [], [], 0, [], false, [], false, [], [], .regs⟩

/-- Boot, trust and digest state. `keys` holds the Digest Engine slots by engine * 32 + slot, `copies` firmware's copies of slots 8 to 31,
`cairn` the log's entries, `sealed` its seal (empty before it), `rr` each engine's round-robin position. -/
structure TrustState where
  fuses : Fuses
  kind : BootKind
  cfg : CfgContent
  exts : List ExtInfo
  cairn : List Bytes
  sealed : Bytes
  aliasKey : Bytes
  step1 : Nat
  keys : Map Bytes
  copies : Map KeyCopy
  conns : List SpdmConn
  sessions : List Session
  ctx : Map DgeCtx
  rr : Map Nat
  provisioned : Bool
  rootReserve : List Nat
  deriving DecidableEq, Repr

/-- No configuration. -/
def CfgContent.empty : CfgContent := ⟨[], [], [], [], [], [], [], [], []⟩

/-- An unset policy. -/
def Policy.none : Policy := ⟨false, false, 0, 0, false, 0, 0, 0⟩

/-- The policy in force. -/
def CfgContent.pol (c : CfgContent) : Policy := c.policy.headD Policy.none

/-- A part with nothing fused (DESIGN CHOICE, log 11: the manual gives no fuse values; an unprogrammed owner hash is all zero,
Table 15-1). -/
def Fuses.blank : Fuses := ⟨List.replicate 48 0, List.replicate 48 0, List.replicate 48 0, [0, 0, 0, 0, 0], []⟩

/-- Trust state with nothing booted. -/
def TrustState.empty : TrustState :=
  ⟨Fuses.blank, .cold, CfgContent.empty, [], [], [], [], 0, [], [], [], [], [], [], false, []⟩

/-- An IDE_KM message: query, program one key (stream, key set, sub-stream and direction, key), set a key set going, or stop a stream. -/
inductive IdeMsg where
  | query
  | keyProg (stream set sub : Nat) (key : Bytes)
  | setGo (stream set : Nat)
  | setStop (stream : Nat)
  deriving DecidableEq, Repr

end Sys2Proof.Machine
end

