-- ==== Sys2Proof/Machine/TypesOperand.lean ====
section
/-! DEFINITION. Operand types of the commands that no other part of the state uses. -/

namespace Sys2Proof.Machine

/-- What the governor measures in a period: the 256 sensors (12 by cluster, then 64; none: invalid), the package's energy and the fixed consumers' energy in nJ, the
five group powers in W, and by cluster the energy of microseconds with no busy unit (R277). -/
structure Samples where
  sensors : List (Option Nat)
  pkg : Nat
  fixedNj : Nat
  groups : List Nat
  idle : List Nat
  deriving DecidableEq, Repr

/-- What firmware chooses when it starts an invocation (R402, R439): tile core and slot, the entry's tag, the entry point that the extension's service table gives (none: no such
service), and the base and limit registers of its apertures, its exception vector and its return-stack limit. -/
structure SvcEnv where
  core : Nat
  slot : Nat
  tag : Nat
  entry : Option Nat
  aptb : List Nat
  aptl : List Nat
  evec : Nat
  rslim : Nat
  deriving DecidableEq, Repr

/-- A request to a cluster's Match Unit: for a row of a task's term, or by a core for a segment, dictionary or image that its handle names, with the key and
the length and heap DA of a string. -/
inductive MatchReq where
  | row (die tag term row : Nat)
  | core (cluster camp handle : Nat) (key : Digits) (len heap : Nat)
  deriving DecidableEq, Repr

/-- What an entry's parity check finds (R190): nothing, an entry reloaded from its image, or an image that is poisoned. -/
inductive TernParity where
  | ok
  | reload (entry : Nat)
  | lost (entry : Nat)
  deriving DecidableEq, Repr

end Sys2Proof.Machine
end

