-- ==== Sys2Proof/Syntax.lean ====
section
/-! DEFINITION. The commands of the block: one constructor for each row of the manual's command table, in the table's order but for 27 that stand last, because Lean compiles no data of a constructor beyond the 245th that has arguments. `dt` is the number of AON ticks that pass
before a time-driven event. -/

namespace Sys2Proof

open Sys2Proof.Machine

/-- The commands. -/
inductive Instr where
  /-- RESET_N_ASSERT (R515): A low on RESET_N lasting 4 AON ticks puts the device into RESET. -/
  | resetNAssert (ticks : Nat)
  /-- PWRGD_AON_DEASSERT (R513): PWRGD_AON falling enters RESET, counts as PWRGD_MAIN falling, and clears the thermal-trip latch. -/
  | pwrgdAonDeassert (ticks : Nat)
  /-- PWRGD_MAIN_DEASSERT (R513): PWRGD_MAIN falling enters RESET, stops the main logic within 1 µs and idles the memory interfaces within 5 µs. -/
  | pwrgdMainDeassert (ticks : Nat)
  /-- END_OF_RESET (R516): 200 µs after the last of the three reset edges, with no thermal trip latched, the straps are sampled, AON state is cleared and BOOT begins. -/
  | endOfReset (dt strapBoot : Nat) (strapDbg : Bool)
  /-- BOOT_ROM_START (R455): The boot ROM starts on core 128 and runs the boot flow through to the seal and boot lock. -/
  | bootRomStart (b : BootInputs)
  /-- PROCHOT_ASSERT (R281): Assertion of PROCHOT_N sets every cluster to 800 MHz within 10 µs, in hardware. -/
  | prochotAssert (ticks : Nat)
  /-- PROCHOT_DEASSERT (R281): Deassertion of PROCHOT_N lets the clusters step up under R278 from the next period. -/
  | prochotDeassert (ticks : Nat)
  /-- THERMAL_TRIP (R522): A sensor reaching 115 °C sets the AON latch, asserts THERMTRIP_N and enters HALTED with cause 10. -/
  | thermalTrip (site : Nat)
  /-- GPIO_EDGE (R390): An input edge on GPIO[n], held for 2 AON ticks, raises event source 184 + n. -/
  | gpioEdge (pin ticks : Nat) (level rise fall : Bool)
  /-- CONFIG_REQUEST (R319): A PCIe configuration request is answered, with Request Retry Status until the function is ready. -/
  | configRequest (f : Nat) (q : CfgReq)
  /-- LINK_UP (R319): The link reaches DL_Active and the function becomes ready within the stated limits. -/
  | linkUp (dt gen width : Nat) (flit vc1 tag14 ats : Bool)
  /-- PERST_DEASSERT (R517): Deassertion of PERST_N starts link training once REFCLK has been valid for 100 µs. -/
  | perstDeassert (refclkOk : Bool)
  /-- FUNCTION_LEVEL_RESET (R340): A function-level reset cancels the function's commands without completions and resets its host-facing state; on the PF it also ends every VF. -/
  | functionLevelReset (f : Nat)
  /-- VF_ENABLE (R319): Setting VF Enable brings up the VFs, which answer within 1 ms. -/
  | vfEnable (n : Nat)
  /-- HIF_ENABLE (R321): Writing HIF_CTL.enable from 0 to 1 starts the admin queues and, from DETACHED, enters SERVICE within 1 ms. -/
  | hifEnable (f : Nat)
  /-- HIF_DISABLE (R340): Writing HIF_CTL.enable from 1 to 0 resets the function, cancelling its commands without completions. -/
  | hifDisable (f : Nat)
  /-- PTM_MEASURE (R318): Every interval_ms the offset to PTM master time is measured, and DEVTIME slews or steps. -/
  | ptmMeasure (dt : Nat) (master : BitVec 64)
  /-- SQ_TAIL_DOORBELL (R331): A host write sets an SQ's tail, making entries up to it fetchable. -/
  | sqTailDoorbell (f q size v : Nat)
  /-- CQ_HEAD_DOORBELL (R331): A host write sets a CQ's head, freeing CQ space. -/
  | cqHeadDoorbell (f q size v : Nat)
  /-- RESULT_RING_POST_DOORBELL (R331): A host write posts result-ring entries up to the given index. -/
  | resultRingPostDoorbell (f r size v : Nat) (es : List Bytes)
  /-- SQ_FETCH (R332): The device fetches SQ entries by the admin-first, round-robin arbitration. -/
  | sqFetch (entry : List Nat) (sgl : List (Nat × Nat × Nat))
  /-- CQ_WRITE (R328): The CQ write engine writes a handed-over completion entry once CQ space allows, in commit order. -/
  | cqWrite (f q : Nat)
  /-- RETAINED_COMPLETION_POST (R343): After PROVE, retained completions are written to the named CQ with ret = 1, oldest first, as space allows. -/
  | retainedCompletionPost (c : Nat)
  /-- COALESCE_TIMEOUT (R336): The oldest unsignalled entry reaching the coalescing time sends the vector. -/
  | coalesceTimeout (dt f : Nat) (isRing : Bool) (q : Nat)
  /-- MSIX_VECTOR_UNMASK (R335): Unmasking a vector that became pending while masked sends it once. -/
  | msixVectorUnmask (f v : Nat)
  /-- RESULT_BUFFER_COMPLETE (R338): A result buffer that is full or holds the stream's end is completed in place. -/
  | resultBufferComplete (f r sq cid : Nat)
  /-- RESULT_BUFFER_TIMEOUT (R338): Bytes that have waited 50 µs in a buffer with no more bytes ready complete that buffer. -/
  | resultBufferTimeout (dt f r sq cid : Nat)
  /-- CHALLENGE_EXPIRY (R342): An attach challenge expires 10 s after it is issued. -/
  | challengeExpiry (dt c : Nat)
  /-- CHALLENGE_LOCKOUT_END (R342): The 1 s CHALLENGE lockout that follows 4 denials ends. -/
  | challengeLockoutEnd (dt c : Nat)
  /-- IDENTIFY (R361): The command returns the device data or the issuing function's data. -/
  | identify (r : CmdRef)
  /-- GET_LOG (R537): The command returns a log from a byte offset, optionally clearing the Camp's RC counters. -/
  | getLog (r : CmdRef)
  /-- GET_FEATURE (R361): The command returns 16 bytes of a feature. -/
  | getFeature (r : CmdRef)
  /-- SET_FEATURE (R361): The command sets coalescing or a Camp trace ring. -/
  | setFeature (r : CmdRef)
  /-- SQ_CREATE (R362): The command creates an I/O SQ for an attached Camp. -/
  | sqCreate (r : CmdRef)
  /-- SQ_DELETE (R359): The command cancels the SQ's commands with ABORTED and deletes the SQ. -/
  | sqDelete (r : CmdRef)
  /-- CQ_CREATE (R362): The command creates an I/O CQ with its vector and coalescing. -/
  | cqCreate (r : CmdRef)
  /-- CQ_DELETE (R362): The command deletes a CQ that no SQ names. -/
  | cqDelete (r : CmdRef)
  /-- RING_CREATE (R362): The command creates a result ring. -/
  | ringCreate (r : CmdRef)
  /-- RING_DELETE (R362): The command deletes a result ring that no outstanding command names. -/
  | ringDelete (r : CmdRef)
  /-- CAMP_CREATE (R363): The command creates a tenant Camp from its descriptor after checking its fields, key and capacity. -/
  | campCreate (r : CmdRef) (data : Bytes) (id root units : Nat) (es : List (Nat × BitVec 64))
  /-- CAMP_DESTROY (R363): The command puts a Camp into TEARDOWN, cancels its commands and ends its attachment. -/
  | campDestroy (r : CmdRef)
  /-- TEARDOWN_COMPLETE (R363): Once a Camp's resources are freed it becomes FREE, and CAMP_DESTROY completes. -/
  | teardownComplete (c : Nat)
  /-- CAMP_RATION (R363): The command changes Ration amounts from the next period boundary. -/
  | campRation (r : CmdRef) (data : Bytes)
  /-- ATTACH_CHALLENGE (R342): The command writes a 32-byte random challenge for a Camp. -/
  | attachChallenge (r : CmdRef)
  /-- ATTACH_PROVE (R342): The command checks the credential in compare-only mode and, on a match, attaches the Camp. -/
  | attachProve (r : CmdRef) (data : Bytes)
  /-- ABORT (R357): The command arbitrates against the named command's commit point and returns CAUGHT, MISSED, NOT_FOUND or NOT_ABORTABLE. -/
  | abort (r : CmdRef)
  /-- KEY_LOAD (R364): The command unwraps a key into a slot of all 17 Digest Engines, or releases the slot. -/
  | keyLoad (r : CmdRef) (data : Bytes)
  /-- SECURITY_SEND (R470): The command carries an SPDM request when spdm_admin allows. -/
  | securitySend (r : CmdRef) (data : Bytes)
  /-- SECURITY_RECV (R470): The command returns an SPDM response. -/
  | securityRecv (r : CmdRef)
  /-- ACTIVATE (R360): The command checks its authorization, drains, hands over its completion and starts a warm restart. -/
  | activate (r : CmdRef) (data : Bytes)
  /-- MAINT_ENTER (R360): The command checks its authorization, drains, suspends the Camps and enters MAINTENANCE. -/
  | maintEnter (r : CmdRef) (data : Bytes)
  /-- MAINT_EXIT (R369): The command returns the device to SERVICE and each Camp to its former state. -/
  | maintExit (r : CmdRef)
  /-- DRAIN_TIMEOUT (R360): When drain_ms expires, the remaining work is cancelled with ABORTED. -/
  | drainTimeout (dt : Nat)
  /-- PLAN_LOAD (R221): The command copies and validates a plan image and returns a plan handle. -/
  | planLoad (r : CmdRef) (data : Bytes) (da : Nat)
  /-- PLAN_DROP (R239): The command frees a plan that no execution or standing query uses. -/
  | planDrop (r : CmdRef)
  /-- EXECUTE (R224): The command binds the plan, snapshots the tables, allocates Match Unit resources and seeds the tokens. -/
  | execute (r : CmdRef) (data : Bytes) (homes : List Nat)
  /-- RESULT_FETCH (R366): The command frees acknowledged records and returns the oldest remaining record's descriptor and stream. -/
  | resultFetch (r : CmdRef)
  /-- INGEST (R367): The command transposes an Arrow stream into blocks and commits them to a table. -/
  | ingest (r : CmdRef) (data : Bytes) (msgs : List ArrowMsg) (ch : TableChoice)
  /-- DIGEST (R368): The command runs a hash or HMAC step on the root Digest Engine. -/
  | digest (r : CmdRef) (data : Bytes)
  /-- STANDING_SET (R242): The command registers a standing query with its bindings and schedule. -/
  | standingSet (r : CmdRef) (data : Bytes)
  /-- STANDING_CLEAR (R242): The command prevents further runs of a standing query. -/
  | standingClear (r : CmdRef)
  /-- EXT_CALL (R251): The command invokes an owner service after checking the grant list and copies its result back. -/
  | extCall (r : CmdRef) (data : Bytes) (v : SvcEnv)
  /-- FLUSH (R358): The command completes once every earlier command on its SQ has passed its commit point. -/
  | flush (r : CmdRef)
  /-- STANDING_DUE (R243): DEVTIME reaching a due time starts a run, or the due time is skipped. -/
  | standingDue (dt id : Nat) (homes : List Nat)
  /-- SERVICE_TIMER_DUE (R249): A service timer's due time invokes the service, or is skipped. -/
  | serviceTimerDue (dt n : Nat) (v : SvcEnv)
  /-- EXT_TIMEOUT (R252): An invocation that exceeds its tile-time limit is stopped with EXT_TIMEOUT. -/
  | extTimeout (dt core slot : Nat)
  /-- EXECUTION_COMPLETE (R231): When every fragment has completed and every sink has written, the execution publishes its writes and completes. -/
  | executionComplete (id : Nat) (chs : List (Nat × TableChoice))
  /-- FENCE_FIRE (R226): A COMPLETE fence fires after its fragment completes and its writes and batches land, satisfying the waiting slots. -/
  | fenceFire (id f : Nat)
  /-- EXCH_END_FIRE (R172): An exchange's end fence reaches a destination after every batch sent there has been delivered. -/
  | exchEndFire (id op dest : Nat)
  /-- RESULT_BATCH (R230): A RESULT task delivers, holds or discards its batch under ORDERED rules. -/
  | resultBatch (die tag : Nat)
  /-- TOKEN_HEADER (R256): A batch token header allocates a WAITING entry or joins the overflow queue. -/
  | tokenHeader (n tag da : Nat)
  /-- TOKEN_RELEASE (R256): A release satisfies its batch slot and may make the entry READY. -/
  | tokenRelease (n : Nat)
  /-- OVERFLOW_READMIT (R259): A queued header is readmitted in lane order once the limits allow. -/
  | overflowReadmit (camp die : Nat) (fenceLane : Bool) (tag da : Nat)
  /-- THREAD_EVENT_TOKEN (R398): An event token reaches a thread task's entry and makes it READY, or is dropped as stale. -/
  | threadEventToken (n : Nat)
  /-- TASK_COMPLETE (R260): A task completes, fails or stops, which corrects its energy, charges tile-time and puts its entry into DRAINING. -/
  | taskComplete (die tag m : Nat)
  /-- ENTRY_FREE (R260): After at least 2 µs in DRAINING an entry becomes FREE with its epoch advanced. -/
  | entryFree (dt die tag : Nat)
  /-- CANCEL_NET (R262): A cancel frees the execution's waiting and ready entries, refuses new headers and signals running tasks. -/
  | cancelNet (id : Nat)
  /-- TASK_STOP_AT_BOUNDARY (R232): A cancelled running task stops at its unit's next boundary and emits nothing. -/
  | taskStopAtBoundary (die tag m : Nat)
  /-- QUANTUM_EXPIRY (R268): A thread task that uses its quantum returns to READY at the tail of its queue. -/
  | quantumExpiry (dt core slot : Nat)
  /-- RATION_PERIOD (R271): At a period boundary every remainder is reset with its debt carried, and selection is triggered. -/
  | rationPeriod (dt : Nat)
  /-- RATION_EXHAUSTED (R272): A component's remainder reaching 0 or below makes the Camp ineligible until a boundary leaves it positive. -/
  | rationExhausted (dt camp k : Nat)
  /-- GOVERNOR_PERIOD (R275): Every 100 µs the governor samples sensors, applies thermal responses, refills buckets, sets frequencies and decides freezes and thaws. -/
  | governorPeriod (dt : Nat) (m : Samples)
  /-- FROZEN_COLD_ENTRY (R285): A cluster Frozen-retained for cold_after writes back its dirty lines and loses power. -/
  | frozenColdEntry (dt c : Nat)
  /-- AVS_COMPLETE (R279): A regulator reporting completion of a voltage raise lets the frequencies rise. -/
  | avsComplete (port : Nat)
  /-- AVS_TIMEOUT (R279): A regulator silent for 500 µs leaves the frequencies unchanged, and the timeout is counted. -/
  | avsTimeout (dt port : Nat)
  /-- SCAN_HEADER_READ (R58): A block header arrives and is checked against header_crc and conditions 3–6. -/
  | scanHeaderRead (die tag c : Nat)
  /-- CHECK_TABLE_READ (R35): The plane check table arrives, is checked against table_crc, and the zone test runs. -/
  | checkTableRead (die tag c : Nat)
  /-- PLANE_FETCH (R68): A fetched plane is checked and the Filter unit decides lanes on it, which fixes whether further planes are fetched. -/
  | planeFetch (die tag c i : Nat)
  /-- DICT_TERM_REDUCTION (R76): The tile core reduces a term on a DICT column to codes, once per task and dictionary. -/
  | dictTermReduction (die tag term side : Nat)
  /-- HEAP_COMPARE (R73): The tile core reads and checks a heap record and compares the string tail. -/
  | heapCompare (die tag term row : Nat)
  /-- STRIP_ROW_GROUP (R90): The Arithmetic unit executes every strip operation on one 256-row group. -/
  | stripRowGroup (die tag : Nat) (ecc : Ecc)
  /-- STRING_CAST (R103): The tile core parses a string for CAST.S2I or CAST.S2D and returns the result to the lanes. -/
  | stringCast (die tag op row : Nat)
  /-- HASH_GROUP (R121): The Hash unit hashes a group of 128 rows with khash. -/
  | hashGroup (die tag : Nat)
  /-- BUCKET_INSERT (R124): A build row is inserted into its bucket chain by one read-modify-write in the cluster cache. -/
  | bucketInsert (die tag da : Nat) (lost : Bool)
  /-- PROBE_LOOKUP (R129): A probe row tests the tags of its chain, compares keys and emits matches in chain order. -/
  | probeLookup (die tag da : Nat) (lost : Bool)
  /-- SPILL_PARTITION (R133): The sequencer writes the largest resident partition to the Moraine so that an insert fits. -/
  | spillPartition (die tag : Nat) (das : List Nat)
  /-- SPILL_PASS (R134): After the fence a spilled partition is rebuilt and probed at the next level, depth first. -/
  | spillPass (die tag : Nat) (das : List Nat)
  /-- CHUNK_JOIN (R135): An oversized partition at max_level is joined chunk by chunk. -/
  | chunkJoin (die tag : Nat) (das : List Nat)
  /-- UNMATCHED_SCAN (R131): After the probe fence a RIGHT or FULL join emits records whose matched bit is 0. -/
  | unmatchedScan (die tag : Nat)
  /-- BATCH_FOLD (R142): Rows of a batch with equal keys are folded together in the lane groups. -/
  | batchFold (die tag : Nat)
  /-- GROUP_MERGE (R142): A batch-folded entry is merged into, or creates, its entry in the cluster group table. -/
  | groupMerge (die tag da : Nat) (lost : Bool)
  /-- GROUP_PASS_MERGE (R147): An oversized group partition is merged in passes until a pass writes no page. -/
  | groupPassMerge (die tag : Nat) (das : List Nat)
  /-- AGGREGATE_FINALISE (R141): At the final phase SUM and AVG results are checked or divided and emitted. -/
  | aggregateFinalise (die tag : Nat)
  /-- RUN_FORMATION (R159): A batch's live rows are partitioned digit by digit into one sorted run. -/
  | runFormation (die tag : Nat) (das : List Nat)
  /-- MERGE_PASS (R159): The merge tree merges up to 64 runs, or emits the final output batches. -/
  | mergePass (die tag : Nat) (das : List Nat)
  /-- EXCHANGE_SEND (R168): The port packs rows by destination, stages each batch and delivers its token, or parks it without credit. -/
  | exchangeSend (die tag : Nat)
  /-- TERNARY_SEARCH (R185): A SEARCH compares a key with every valid entry of a segment and returns the result word. -/
  | ternarySearch (q : MatchReq) (p : TernParity)
  /-- TERNARY_STEP (R185): A STEP returns the next matching entry above a given index. -/
  | ternaryStep (q : MatchReq) (above : Nat) (p : TernParity)
  /-- DICT_LOOKUP (R196): The operation returns the payload of an equal key, or a miss. -/
  | dictLookup (q : MatchReq) (lost : Bool)
  /-- DICT_FLOOR (R196): The operation returns the greatest entry at or below a key. -/
  | dictFloor (q : MatchReq) (lost : Bool)
  /-- DICT_INSERT (R194): The operation inserts a key by moving toward the nearest hole, splitting a full span. -/
  | dictInsert (q : MatchReq) (lost : Bool)
  /-- DICT_DELETE (R196): The operation turns the slot of an equal key into a hole and frees a span left empty. -/
  | dictDelete (q : MatchReq) (lost : Bool)
  /-- DICT_SCAN (R196): The operation returns the entries in ascending order, a span at a time. -/
  | dictScan (q : MatchReq) (span : Nat) (lost : Bool)
  /-- AUTOMATON_SEARCH (R200): The automaton engine runs a value and returns its first match. -/
  | automatonSearch (q : MatchReq) (off : Nat) (lost : Bool)
  /-- AUTOMATON_STEP (R200): The run resumes after the previous match and returns the next match. -/
  | automatonStep (q : MatchReq) (off stop pattern : Nat) (lost : Bool)
  /-- TRANSLATION_WALK (R299): A translation-cache miss walks the Camp's tables, producing a translation or a fault. -/
  | translationWalk (q : XReq) (camp v : Nat) (a : Acc) (exec : Option Nat)
  /-- CACHE_ACCESS (R304): A read or write is served by the cluster cache according to its class. -/
  | cacheAccess (cl camp exec da cls : Nat) (wr : Option Bytes) (p : Parity)
  /-- FILL_COMPLETE (R304): Memory returns a line fill, corrected or poisoned, to the cache and its requesters. -/
  | fillComplete (cl l : Nat) (ecc : Ecc)
  /-- EVICTION_WRITEBACK_DONE (R308): A dirty victim's write-back completes and frees its entry or releases a waiting fill. -/
  | evictionWritebackDone (cl l : Nat) (parityFail : Bool)
  /-- CACHE_FLUSH (R307): CCH_MAINT op FLUSH writes back dirty lines, which stay valid. -/
  | cacheFlush (cl da lines : Nat) (all : Bool)
  /-- CACHE_INVALIDATE (R307): CCH_MAINT op INVALIDATE discards lines. -/
  | cacheInvalidate (cl da lines : Nat) (all : Bool)
  /-- CACHE_FLUSH_INVAL (R307): CCH_MAINT op FLUSH_INVAL writes back dirty lines, then discards them. -/
  | cacheFlushInval (cl da lines : Nat) (all : Bool)
  /-- CACHE_MAINT_DONE (R307): Once every cluster has applied or recorded the operation, CCH_MAINT.busy returns to 0. -/
  | cacheMaintDone (cl : Nat)
  /-- XLT_INVAL (R301): Writing go starts dropping a Camp's cached translations for a range. -/
  | xltInval (v : BitVec 64)
  /-- DMA_POST (R375): A write of a channel's posted count posts ring entries, or is ignored and flagged. -/
  | dmaPost (ch v : Nat) (serves : List (Option Nat))
  /-- DMA_RING_ENABLE (R379): Enabling DMA_RING binds the ring and zeroes the counts, with lap 1. -/
  | dmaRingEnable (ch base log2 camp : Nat)
  /-- DMA_RING_DISABLE (R389): Clearing DMA_RING.enable acts as a channel reset. -/
  | dmaRingDisable (ch : Nat)
  /-- DMA_RESUME (R389): DMA_CHCTL.resume restarts a halted channel at the next posted entry. -/
  | dmaResume (ch : Nat)
  /-- DMA_RESET (R389): DMA_CHCTL.reset discards staging, waits for the channel's writes, and moves to the next lap. -/
  | dmaReset (ch : Nat)
  /-- DMA_COPY (R380): A channel takes a COPY descriptor, after the checks for a malformed entry. -/
  | dmaCopy (ch : Nat)
  /-- DMA_ZERO (R380): A channel takes a ZERO descriptor that writes zero bytes to host memory. -/
  | dmaZero (ch : Nat)
  /-- DMA_READ_COMPLETION (R383): Source data fills staging, and the write side starts at start_mark. -/
  | dmaReadCompletion (ch : Nat) (data : Bytes) (ep : Bool)
  /-- DMA_IDLE_DRAIN (R383): With no byte entering for idle_ticks, the write side drains staging. -/
  | dmaIdleDrain (dt ch : Nat)
  /-- DMA_FLUSH_READ_RETURN (R384): The zero-length flush read returns, acknowledging the host writes so that the completion can be written. -/
  | dmaFlushReadReturn (ch : Nat)
  /-- DMA_COMPLETION_WRITE_RESPONSE (R382): The completion entry's write response lets the channel start its next descriptor and raise its event. -/
  | dmaCompletionWriteResponse (ch : Nat)
  /-- EVR_PEND_WRITE (R390): Writing 1 to EVR_PEND raises a software event on the source. -/
  | evrPendWrite (g : Nat) (v : BitVec 16)
  /-- EVENT_DELIVERY_COMMIT (R395): The Router selects an eligible source and commits its delivery to a core or a thread. -/
  | eventDeliveryCommit (target : Nat) (v : SvcEnv)
  /-- EVR_HOLDOFF_EXPIRY (R394): A group's hold-off timer expires, making its sources eligible again. -/
  | evrHoldoffExpiry (dt g : Nat)
  /-- EVENT_REQUEST_TAKE (R432): A Uliar-M core takes a committed request, pushes its state and jumps to the handler. -/
  | eventRequestTake (i : Nat)
  /-- EVR_CLAIM_READ (R397): A read of EVR_CLAIM claims the selected eligible source. -/
  | evrClaimRead (core : Nat)
  /-- EVR_DONE_WRITE (R395): A write of EVR_DONE clears the source's in_service. -/
  | evrDoneWrite (core : Nat) (v : BitVec 64)
  /-- DGE_ALLOC_READ (R480): A read of DGE_ALLOC claims the lowest free context. -/
  | dgeAllocRead (e : Nat)
  /-- DGE_START (R481): op START begins a message on a claimed or done context. -/
  | dgeStart (e c : Nat) (v : BitVec 64)
  /-- DGE_FEED (R481): A DGE_FEED write queues bytes for the message, or is ignored and flagged. -/
  | dgeFeed (e c da n : Nat)
  /-- DGE_FINISH (R481): op FINISH pads and completes the message. -/
  | dgeFinish (e c : Nat)
  /-- DGE_RELEASE (R481): op RELEASE frees the context and abandons any message. -/
  | dgeRelease (e c : Nat)
  /-- DGE_BLOCK (R479): The engine processes one compression block, round robin among contexts, charging a Digest block. -/
  | dgeBlock (e : Nat)
  /-- DGE_DONE (R482): The digest is written, compared or placed in registers, and the context reaches DONE. -/
  | dgeDone (e c : Nat)
  /-- REGISTER_WRITE (R8): A write to a register with no row of its own takes effect by its access codes. -/
  | registerWrite (p : RegPath) (v : BitVec 64)
  /-- RC_READ (R10): A qualifying read of an RC field returns and clears it without losing updates. -/
  | rcRead (p : RegPath)
  /-- GET_VERSION (R470): The SPDM request negotiates version 1.3 or 1.2. -/
  | getVersion (sess : Option Nat) (m : Bytes)
  /-- GET_CAPABILITIES (R470): The SPDM request exchanges capabilities. -/
  | getCapabilities (sess : Option Nat) (m : Bytes)
  /-- NEGOTIATE_ALGORITHMS (R470): The SPDM request selects the supported algorithms. -/
  | negotiateAlgorithms (sess : Option Nat) (m : Bytes)
  /-- GET_DIGESTS (R470): The SPDM request returns the certificate chain digests. -/
  | getDigests (sess : Option Nat) (m : Bytes)
  /-- GET_CERTIFICATE (R470): The SPDM request returns a certificate chain from slot 0 or 1. -/
  | getCertificate (sess : Option Nat) (m : Bytes)
  /-- CHALLENGE (R470): The SPDM request is answered with a response signed by the alias key. -/
  | challenge (sess : Option Nat) (m : Bytes)
  /-- GET_MEASUREMENTS (R471): The SPDM request returns measurements, signed when asked. -/
  | getMeasurements (sess : Option Nat) (m : Bytes)
  /-- KEY_EXCHANGE (R470): The SPDM request starts a secure session, up to 4 at once. -/
  | keyExchange (sess : Option Nat) (m : Bytes)
  /-- FINISH (R470): The SPDM request completes the session handshake. -/
  | finish (sess : Option Nat) (m : Bytes)
  /-- HEARTBEAT (R470): The SPDM request keeps a session alive. -/
  | heartbeat (sess : Option Nat) (m : Bytes)
  /-- KEY_UPDATE (R470): The SPDM request updates a session's keys. -/
  | keyUpdate (sess : Option Nat) (m : Bytes)
  /-- END_SESSION (R472): The SPDM request ends a session and discards its keys. -/
  | endSession (sess : Option Nat) (m : Bytes)
  /-- SVN_RAISE (R467): A vendor-defined request with an owner block raises a stage's fuse minimum. -/
  | svnRaise (sess : Option Nat) (m : Bytes)
  /-- GET_ERRLOG (R494): The sideband command returns error-log bytes. -/
  | getErrlog (off : Nat)
  /-- GET_CAIRN (R501): The sideband command returns Cairn log bytes, sealed or not. -/
  | getCairn (off : Nat)
  /-- PROVISION_OWNER (R503): The sideband command blows the owner key hash fuses and reads them back. -/
  | provisionOwner (hash : Bytes) (crc : Nat) (fused : Bytes)
  /-- HALT_RESTART (R504): The sideband command checks an owner block and starts a warm restart from HALTED. -/
  | haltRestart (b : Bytes)
  /-- PLDM_SENSOR_READ (R502): A PLDM request reads a temperature, power, limit or mode sensor. -/
  | pldmSensorRead (i : Nat)
  /-- PLDM_SET_POWER_CAP (R502): The PLDM effecter sets the BMC power cap within the policy range. -/
  | pldmSetPowerCap (w : Nat)
  /-- ILLEGAL (R416): Opcode 0x00 always raises ILLEGAL_INSTRUCTION. -/
  | uIllegal (core slot : Nat)
  /-- NOP (R416): The instruction does nothing. -/
  | uNop (core slot : Nat)
  /-- ADD (R416): Gd = Ga + Gb, wrapping at 36 bits. -/
  | uAdd (core slot : Nat) (d a b : BitVec 4)
  /-- SUB (R416): Gd = Ga − Gb. -/
  | uSub (core slot : Nat) (d a b : BitVec 4)
  /-- AND (R416): Gd = Ga AND Gb. -/
  | uAnd (core slot : Nat) (d a b : BitVec 4)
  /-- OR (R416): Gd = Ga OR Gb. -/
  | uOr (core slot : Nat) (d a b : BitVec 4)
  /-- XOR (R416): Gd = Ga XOR Gb. -/
  | uXor (core slot : Nat) (d a b : BitVec 4)
  /-- SHL (R416): Gd = Ga shifted left by Gb[5:0]. -/
  | uShl (core slot : Nat) (d a b : BitVec 4)
  /-- SHR (R416): Gd = Ga shifted right logically. -/
  | uShr (core slot : Nat) (d a b : BitVec 4)
  /-- SAR (R416): Gd = Ga shifted right arithmetically. -/
  | uSar (core slot : Nat) (d a b : BitVec 4)
  /-- MUL (R416): Gd = the low 36 bits of Ga × Gb. -/
  | uMul (core slot : Nat) (d a b : BitVec 4)
  /-- MULH (R416): Gd = the high 36 bits of the signed product. -/
  | uMulh (core slot : Nat) (d a b : BitVec 4)
  /-- DIV (R416): Gd = Ga / Gb truncated toward zero; division by 0 raises INT_DIVIDE. -/
  | uDiv (core slot : Nat) (d a b : BitVec 4)
  /-- REM (R416): Gd = the remainder with the sign of Ga; division by 0 raises INT_DIVIDE. -/
  | uRem (core slot : Nat) (d a b : BitVec 4)
  /-- SLT (R416): Gd = 1 if Ga < Gb signed, else 0. -/
  | uSlt (core slot : Nat) (d a b : BitVec 4)
  /-- SLTU (R416): Gd = 1 if Ga < Gb unsigned, else 0. -/
  | uSltu (core slot : Nat) (d a b : BitVec 4)
  /-- MOV (R416): Gd = Ga. -/
  | uMov (core slot : Nat) (d a : BitVec 4)
  /-- ADDI (R416): Gd = Gd + sext(imm8). -/
  | uAddi (core slot : Nat) (d : BitVec 4) (imm : BitVec 8)
  /-- LI (R416): Gd = sext(imm8). -/
  | uLi (core slot : Nat) (d : BitVec 4) (imm : BitVec 8)
  /-- SHLI (R416): Gd shifted left by an immediate. -/
  | uShli (core slot : Nat) (d : BitVec 4) (n : BitVec 6)
  /-- SHRI (R416): Gd shifted right logically by an immediate. -/
  | uShri (core slot : Nat) (d : BitVec 4) (n : BitVec 6)
  /-- SARI (R416): Gd shifted right arithmetically by an immediate. -/
  | uSari (core slot : Nat) (d : BitVec 4) (n : BitVec 6)
  /-- LDG (R416): The instruction loads a digit through an aperture. -/
  | uLdg (core slot : Nat) (d a b : BitVec 4)
  /-- LDB (R416): The instruction loads a byte. -/
  | uLdb (core slot : Nat) (d a b : BitVec 4)
  /-- LDW (R416): The instruction loads a 36-bit word. -/
  | uLdw (core slot : Nat) (d a b : BitVec 4)
  /-- LDP (R407): The instruction loads a register pair, or reads a register through a register window. -/
  | uLdp (core slot : Nat) (d a b : BitVec 4)
  /-- STG (R416): The instruction stores a digit. -/
  | uStg (core slot : Nat) (d a b : BitVec 4)
  /-- STB (R416): The instruction stores a byte. -/
  | uStb (core slot : Nat) (d a b : BitVec 4)
  /-- STW (R416): The instruction stores a word. -/
  | uStw (core slot : Nat) (d a b : BitVec 4)
  /-- STP (R407): The instruction stores a register pair, or writes a register through a register window. -/
  | uStp (core slot : Nat) (d a b : BitVec 4)
  /-- PUSH (R410): The instruction pushes a word onto the data stack, checking DSLIM. -/
  | uPush (core slot : Nat) (d : BitVec 4)
  /-- POP (R410): The instruction pops a word from the data stack. -/
  | uPop (core slot : Nat) (d : BitVec 4)
  /-- DSPADJ (R410): The instruction adjusts ULR_DSP by 9 × imm8. -/
  | uDspadj (core slot : Nat) (imm : BitVec 8)
  /-- BZ (R417): The instruction branches if Ga = 0, after its delay slot. -/
  | uBz (core slot : Nat) (a : BitVec 4) (off : BitVec 8)
  /-- BNZ (R417): The instruction branches if Ga ≠ 0. -/
  | uBnz (core slot : Nat) (a : BitVec 4) (off : BitVec 8)
  /-- BLTZ (R417): The instruction branches if Ga < 0. -/
  | uBltz (core slot : Nat) (a : BitVec 4) (off : BitVec 8)
  /-- BGEZ (R417): The instruction branches if Ga ≥ 0. -/
  | uBgez (core slot : Nat) (a : BitVec 4) (off : BitVec 8)
  /-- JR (R417): The instruction jumps to (Ga, 0). -/
  | uJr (core slot : Nat) (a : BitVec 4)
  /-- CALLR (R412): The instruction pushes the return position and jumps to (Ga, 0). -/
  | uCallr (core slot : Nat) (a : BitVec 4)
  /-- RET (R412): The instruction pops a kind-0 entry and returns to it. -/
  | uRet (core slot : Nat)
  /-- BR (R417): The instruction branches unconditionally by off8. -/
  | uBr (core slot : Nat) (off : BitVec 8)
  /-- FENCE_W (R421): SYS FENCE.W holds later stores until earlier stores and stack write-backs respond. -/
  | uFenceW (core slot : Nat)
  /-- FENCE_RW (R421): SYS FENCE.RW holds later accesses until earlier loads and stores complete. -/
  | uFenceRw (core slot : Nat)
  /-- WAIT (R436): SYS WAIT makes a thread wait for an event, or stops a Uliar-M core until it takes a request. -/
  | uWait (core slot : Nat)
  /-- YIELD (R437): SYS YIELD returns a thread's entry to READY. -/
  | uYield (core slot : Nat)
  /-- ERET (R423): SYS ERET leaves the exception handler, restoring the level and the position. -/
  | uEret (core slot : Nat)
  /-- IRET (R433): SYS IRET pops the saved state and position of an event handler. -/
  | uIret (core slot : Nat)
  /-- BRK (R416): SYS BRK raises BREAKPOINT. -/
  | uBrk (core slot : Nat)
  /-- CSRR (R444): The instruction reads a control register. -/
  | uCsrr (core slot : Nat) (d : BitVec 4) (n : BitVec 8)
  /-- CSRW (R444): The instruction writes a control register, subject to privilege and aperture rules. -/
  | uCsrw (core slot : Nat) (d : BitVec 4) (n : BitVec 8)
  /-- VSETL (R426): The instruction sets the element size and the vector length. -/
  | uVsetl (core slot : Nat) (d a b : BitVec 4)
  /-- VINT (R426): The instruction performs vector integer arithmetic on word or double elements. -/
  | uVint (core slot : Nat) (vd va vb f : BitVec 3)
  /-- VFP (R409): The instruction performs vector binary64 arithmetic. -/
  | uVfp (core slot : Nat) (vd va vb f : BitVec 3)
  /-- VDIG (R426): The instruction performs vector digit operations. -/
  | uVdig (core slot : Nat) (vd va vb f : BitVec 3)
  /-- VLD (R429): The instruction loads strided vector elements, restartable under the mode's rule. -/
  | uVld (core slot : Nat) (vd : BitVec 3) (a b : BitVec 4)
  /-- VST (R429): The instruction stores strided vector elements. -/
  | uVst (core slot : Nat) (vd : BitVec 3) (a b : BitVec 4)
  /-- VGATHER (R428): The instruction gathers elements at indexed addresses. -/
  | uVgather (core slot : Nat) (vd : BitVec 3) (a : BitVec 4) (vb : BitVec 3)
  /-- VSCATTER (R428): The instruction scatters elements to indexed addresses. -/
  | uVscatter (core slot : Nat) (vd : BitVec 3) (a : BitVec 4) (vb : BitVec 3)
  /-- LIL (R416): Gd = sext(imm22). -/
  | uLil (core slot : Nat) (d : BitVec 4) (imm : BitVec 22)
  /-- LUI (R416): The instruction sets Gd[35:22] from the immediate. -/
  | uLui (core slot : Nat) (d : BitVec 4) (imm : BitVec 14)
  /-- ADDIL (R416): Gd = Ga + sext(imm22). -/
  | uAddil (core slot : Nat) (d a : BitVec 4) (imm : BitVec 22)
  /-- LSL (R416): The instruction is a long-offset load or store of a digit, byte, word or pair. -/
  | uLsl (core slot : Nat) (d a : BitVec 4) (size : BitVec 2) (store : BitVec 1) (off : BitVec 19)
  /-- BCMP (R416): The instruction compares two registers and branches. -/
  | uBcmp (core slot : Nat) (a b : BitVec 4) (cond : BitVec 3) (off : BitVec 19)
  /-- BRL (R416): The instruction is a long branch or call. -/
  | uBrl (core slot : Nat) (d : BitVec 4) (off : BitVec 22)
  /-- FOP (R409): The instruction performs a scalar floating-point or move operation. -/
  | uFop (core slot : Nat) (fd fa fb func : BitVec 6) (g : BitVec 4) (h : BitVec 2)
  /-- FLS (R416): The instruction loads or stores an F register. -/
  | uFls (core slot : Nat) (fd : BitVec 6) (a : BitVec 4) (st : BitVec 1) (off : BitVec 19)
  /-- ECALL_EXIT (R441): The firmware call ends the invocation with a status and a result length. -/
  | ecallExit (core slot : Nat)
  /-- ECALL_PLAN_LOAD (R441): The firmware call loads a plan in the service Camp. -/
  | ecallPlanLoad (core slot da : Nat)
  /-- ECALL_PLAN_DROP (R441): The firmware call drops a plan. -/
  | ecallPlanDrop (core slot : Nat)
  /-- ECALL_EXECUTE (R441): The firmware call starts an execution of a plan. -/
  | ecallExecute (core slot : Nat) (homes : List Nat)
  /-- ECALL_EXEC_WAIT (R441): The firmware call waits for an execution and returns its status. -/
  | ecallExecWait (core slot : Nat)
  /-- ECALL_DIGEST (R480): The firmware call runs a digest step on the cluster's engine. -/
  | ecallDigest (core slot : Nat)
  /-- ECALL_RETAIN (R441): The firmware call writes a retained record. -/
  | ecallRetain (core slot : Nat)
  /-- ECALL_DEVTIME (R441): The firmware call returns DEVTIME. -/
  | ecallDevtime (core slot : Nat)
  /-- ECALL_HANDLER (R442): The firmware call registers or removes the exception handler. -/
  | ecallHandler (core slot : Nat)
  /-- UNSUPPORTED_HOST_ACCESS (R7): A host BAR access of an illegal size or to an unused offset reads all ones or is ignored, and is counted. -/
  | unsupportedHostAccess (f bar off size : Nat) (write : Bool)
  /-- IDE_CHECK_FAILED (R473): A TLP that fails its IDE integrity check is discarded, its stream becomes Insecure, and the event is logged. -/
  | ideCheckFailed (stream : Nat)
  /-- IDE_KM (R473): An IDE_KM message over Secured CMA/SPDM programs or switches a stream's key sets. -/
  | ideKm (sess : Nat) (m : IdeMsg)
  /-- DOE_DISCOVERY (R316): A DOE Discovery request on the PF mailbox is answered. -/
  | doeDiscovery (i : Nat)
  /-- XDIE_WAIT_EXPIRY (R267): A task ready for xdie_wait with no tile on its die may be placed on the other die. -/
  | xdieWaitExpiry (dt die tag : Nat)
  /-- THAW_COMPLETE (R285): A thawed cluster finishes waking, reloads lost state and recorded maintenance, and takes tasks. -/
  | thawComplete (dt c : Nat)
  /-- EXCHANGE_FLUSH_TIMEOUT (R168): flush_ticks after a packed batch's last row, the port sends that batch. -/
  | exchangeFlushTimeout (dt id op tile dest : Nat)
  /-- TERNARY_SCRUB (R190): The background scrub checks idle ternary entries and reloads any with a parity error. -/
  | ternaryScrub (cl : Nat) (p : TernParity)
  /-- PATROL_SCRUB (R312): The patrol scrub reads memory on its period, correcting or poisoning data in place. -/
  | patrolScrub (da : Nat) (ecc : Ecc)
  /-- DMA_BUS_ERROR (R388): A host completion with UR, CA or EP fails the descriptor with DATA_LOSS and halts the channel. -/
  | dmaBusError (ch kind : Nat)
  /-- DMA_COMPLETION_TIMEOUT (R388): A host read without a completion in time fails the descriptor and halts the channel. -/
  | dmaCompletionTimeout (dt ch : Nat)
  /-- EVR_MASK_WINDOW_CLOSE (R396): 4 core clocks after a commit, a mask write can no longer let that delivery through. -/
  | evrMaskWindowClose (n : Nat)
  /-- MEM_TEST (R501): The sideband command tests an unheld memory range in MAINTENANCE. -/
  | memTest (lo hi pattern errors first : Nat) (left : List (Nat × Byte))
  /-- PLDM_DISCOVERY (R501): A PLDM Messaging Control and Discovery request is answered. -/
  | pldmDiscovery (cmd : Nat)
  /-- MCTP_CONTROL (R501): An MCTP base control message is answered. -/
  | mctpControl (cmd : Nat)
  /-- LINK_TRAINING_FAILURE (R317): When the link cannot train at ×4 or wider, the device holds it in Detect, records the cause in the error log and stays in DETACHED. -/
  | linkTrainingFailure (width : Nat)
  /-- UNSUPPORTED_SPDM_REQUEST (R470): An SPDM request outside the supported set, for example PSK_EXCHANGE or IDE_KM over SECURITY_SEND, is answered with ERROR UnsupportedRequest. -/
  | unsupportedSpdmRequest (sess : Option Nat) (m : Bytes)
  /-- MALFORMED_TLP (R505): A malformed, ECRC-failed, unexpected or overflowing TLP received from the link is handled and reported through AER as the PCIe rules define. -/
  | malformedTlp (kind : AerError)
  /-- RESET_N_DEASSERT (R516): RESET_N rising restarts the 200 µs countdown to the end of RESET. -/
  | resetNDeassert
  /-- PWRGD_AON_ASSERT (R516): PWRGD_AON rising restarts the 200 µs countdown to the end of RESET. -/
  | pwrgdAonAssert
  /-- PWRGD_MAIN_ASSERT (R516): PWRGD_MAIN rising restarts the 200 µs countdown to the end of RESET. -/
  | pwrgdMainAssert
  /-- LINK_DOWN (R340): A surprise link-down resets host-facing state and, in SERVICE, detaches the device. -/
  | linkDown
  /-- PERST_ASSERT (R340): Assertion of PERST_N resets host-facing function state and, in SERVICE, detaches the device. -/
  | perstAssert
  /-- VF_DISABLE (R324): Disabling VFs ends their attachments, queues and rings. -/
  | vfDisable
  /-- DRAIN_COMPLETE (R360): Once outstanding work has finished, ACTIVATE or MAINT_ENTER proceeds. -/
  | drainComplete
  /-- XLT_INVAL_DONE (R301): When every translation cache has dropped the entries and their accesses have responded, busy clears. -/
  | xltInvalDone
  /-- GET_STATUS (R501): The sideband command returns status registers and releases SB_ALERT_N. -/
  | getStatus
  deriving DecidableEq, Repr

end Sys2Proof
end

