-- ==== Sys2Proof/Decode.lean ====
section
/-! DEFINITION. The command table gives no row any bits: its commands are events of the block's pins, links, registers and engines,
not words. No word spells a command. (The encodings that the manual gives the cores' own code, R415 and R416, are in
Machine/UCore.lean and Machine/UCode.lean.) -/

namespace Sys2Proof

/-- The command that a word of `nbits` bits spells by the table's bits: none, since no row has bits. -/
def decodeTableWord (_nbits _w : Nat) : Option Instr := none

end Sys2Proof
end

