-- ==== Sys2Proof/Config.lean ====
section
/-! DEFINITION. Free values: what the manual leaves open or leaves to a published standard it only names.
Every constant here is opaque: nothing can evaluate it or prove a value of it. -/

namespace Sys2Proof.Config

/-- Fresh 64-bit values of the entropy source (boot nonce, R455 step 1). Applied to a counter of State. -/
opaque entropy64 : Nat → BitVec 64
/-- Fresh random bytes: draw number and byte index (ATTACH challenge, R342). -/
opaque entropyByte : Nat → Nat → Byte
/-- The per-message secret number of an ECDSA signature (R464, R471), by draw number. -/
opaque signNonce : Nat → Nat
/-- The encoding of an Arrow IPC message's metadata (the published Arrow format, R55), by message number
of the stream and the message's kind and shape. -/
opaque arrowMeta : Nat → Nat → List Nat → Bytes
/-- A byte of an Arrow buffer at a null row (R55 gives it no value), by draw number and position. -/
opaque nullByte : Nat → Nat → Byte
/-- The body of an SPDM response beyond what the manual states (the published SPDM format, R470),
by request code, session and draw number. -/
opaque spdmBody : Nat → Nat → Nat → Bytes
/-- Decryption of a secured SPDM record: session secret, record number, ciphertext (R470). -/
opaque spdmOpen : Bytes → Nat → Bytes → Option Bytes
/-- Encryption of a secured SPDM record: session secret, record number, plaintext (R470). -/
opaque spdmSeal : Bytes → Nat → Bytes → Bytes
/-- Whether FINISH carries the verify data the session's keys require (R470). -/
opaque spdmFinishOk : Bytes → Bytes → Bool
/-- The DMTF type of measurements 6 and 7, to which Table 15-8 gives none (bits 6 to 0). -/
opaque dmtfType : Nat → Byte
/-- An exported master secret agreed by an SPDM KEY_EXCHANGE (R470, R475), by session draw number. -/
opaque spdmExportSecret : Nat → Bytes
/-- The NaN payload of a binary64 result whose operands are NaN (R409 leaves it open). -/
opaque nanPayload : BitVec 64 → BitVec 64 → BitVec 64
/-- Whether FMIN or FMAX returns the number when one operand is a NaN, and which zero of two zeros (open). -/
opaque minMaxOpen : BitVec 64 → BitVec 64 → BitVec 64
/-- The standard body of a PLDM or MCTP response (published standards, R501), by message type and command. -/
opaque mctpBody : Nat → Nat → Bytes
/-- The fused voltage in mV of a frequency step of a die (R279: the fuses' values are not given). -/
opaque fusedVoltage : Nat → Nat → BitVec 10
/-- The boot ROM's revision (R461, Table 15-9). -/
opaque romRev : BitVec 8
/-- A free value of a 64-bit register or word the manual leaves open, by a counter of State. -/
opaque freeWord : Nat → BitVec 64

/-- A delay in AON ticks that the manual bounds only from above (R319), by a counter of State. -/
opaque freeDelay : Nat → Nat

/-- Which of two sort records with equal keys and equal origins comes first (R155 leaves it open), by their payloads. -/
opaque tieFirst : Nat → Nat → Bool

/-- Whether element i of a vector memory instruction that faults was committed before the fault (R429 leaves it open), by draw number. -/
opaque freeBit : Nat → Nat → Bool

end Sys2Proof.Config
end

