-- ==== Sys2Proof/Machine/Registers.lean ====
section
/-! DEFINITION. The internal register region: every register of Table 18-3 with its place (R527) and its field map
(access code and reset value, Table 00-5), as the chapters' field maps give them. Fields whose reset is "cfg" start at the
default the field map states, and at 0 where it states none (DESIGN CHOICE, log 10). -/

namespace Sys2Proof.Machine

/-- The access codes of Table 00-5 (R8). -/
inductive Access where
  | ro | rw | rwl | w1c | w1s | rc | wo | rz
  deriving DecidableEq, Repr

/-- The index forms of Table 18-2. -/
inductive IndexForm where
  | device | function | camp | cluster | clusterDma | tile | die | campComp | campClass | clusterClass | eight
  | chanSlot | port | segment | stage | slot | dmaChan | source | group | mcore | core | engine | engCtx
  | engCtxWord | errClass
  deriving DecidableEq, Repr

/-- How many instances a form spans, holes included (Table 18-2). -/
def IndexForm.span : IndexForm → Nat
  | .device => 1 | .function => 128 | .camp => 1024 | .cluster => 16 | .clusterDma => 17 | .tile => 128 | .die => 2
  | .campComp => 8192 | .campClass => 16384 | .clusterClass => 64 | .eight => 8 | .chanSlot => 16 | .port => 2
  | .segment => 64 | .stage => 5 | .slot => 32 | .dmaChan => 96 | .source => 512 | .group => 32 | .mcore => 4
  | .core => 132 | .engine => 17 | .engCtx => 272 | .engCtxWord => 2176 | .errClass => 5

/-- Is index `i` a register and not a hole (Table 18-2: components 6 and 7 of a Camp are holes)? -/
def IndexForm.holds (f : IndexForm) (i : Nat) : Bool :=
  decide (i < f.span) && (f != .campComp || decide (i % 8 < 6))

/-- The registers of Table 18-3. -/
inductive Reg where
  | HIF_STATUS | HIF_CTL | HIF_ASQ | HIF_ACQ | HIF_LINK | HIF_PTM | HIF_RETAIN | HIF_ATTACH | QUE_STAT
  | QUE_DBERR | CPM_PERIOD | CPM_STATE | CPM_RATION | CPM_REMAIN | CPM_TRACE | DPT_CTL | DPT_STALE_TOKENS
  | DPT_TRACE | PWR_CTL | PWR_LIMIT | PWR_THAW | PWR_CLUSTER | PWR_BUCKET | PWR_EST | PWR_AVS | THM_CTL
  | THM_CLUSTER | CCH_WAYMASK | CCH_CAMPCLASS | CCH_MAINT | CCH_MAINT_LEN | CCH_STAT | CCH_PARITY
  | CCH_ERRLOG | XLT_ROOT | XLT_INVAL | XLT_FAULT | XLT_STAT | NMC_CTL | NMC_STAT | NMC_ERRLOG | FMC_CFG
  | FMC_CTL | FMC_DIMM | FMC_STAT | FMC_ERRLOG | DMA_RING | DMA_POST | DMA_MARKS | DMA_CHCTL | DMA_CHSTAT
  | DMA_BUSERR | DMA_BUSERR_ADDR | EVR_SRC | EVR_VEC | EVR_HOLDOFF | EVR_PEND | EVR_CORE | EVR_CLAIM
  | EVR_DONE | MAT_CTL | MAT_SEG | MAT_STAT | MAT_AUT | MAT_DICT | MAT_ERRLOG | MAT_SEARCH | DGE_ALLOC
  | DGE_CTL | DGE_FEED | DGE_DEST | DGE_STAT | DGE_RESULT | DGE_EXPECT | DGE_KEYSTAT | DGE_ENGSTAT
  | BOT_STATUS | BOT_SVN | BOT_NONCE | BOT_AUTHSEQ | BOT_EVENTS | BOT_CAIRN | SCN_CTL | SCN_BLOCKS
  | SCN_PLANES | SCN_ERRLOG | SCN_DROP_BLK | SCN_DROP_ROWS | FLT_CTL | FLT_ROWS | FLT_HEAP | ARU_STRIPS
  | ARU_EXCLOG | ARU_EXC | ARU_NULLED | HSH_ROWS | JNU_CTL | JNU_STAT | JNU_SPILL | JNU_ERRLOG | AGU_STAT
  | AGU_ERRLOG | SRT_STAT | SRT_ERRLOG | XCH_CTL | XCH_STAT | XCH_STALL | ULR_CORE_CTL | ULR_RSBASE
  | ULR_STAT | ULR_FAULTLOG | SBI_CTL | SBI_STAT | TIM_DEVTIME | ERR_CTL | ERR_STATUS | ERR_COUNT | ERR_HALT
  | ERR_CAMP
  deriving DecidableEq, Repr

/-- Block number of a register (Table 18-1). -/
def Reg.block : Reg → Nat
  | .HIF_STATUS => 0 | .HIF_CTL => 0 | .HIF_ASQ => 0 | .HIF_ACQ => 0 | .HIF_LINK => 0 | .HIF_PTM => 0
  | .HIF_RETAIN => 0 | .HIF_ATTACH => 0 | .QUE_STAT => 1 | .QUE_DBERR => 1 | .CPM_PERIOD => 2 | .CPM_STATE => 2
  | .CPM_RATION => 2 | .CPM_REMAIN => 2 | .CPM_TRACE => 2 | .DPT_CTL => 3 | .DPT_STALE_TOKENS => 3
  | .DPT_TRACE => 3 | .PWR_CTL => 4 | .PWR_LIMIT => 4 | .PWR_THAW => 4 | .PWR_CLUSTER => 4 | .PWR_BUCKET => 4
  | .PWR_EST => 4 | .PWR_AVS => 4 | .THM_CTL => 5 | .THM_CLUSTER => 5 | .CCH_WAYMASK => 6 | .CCH_CAMPCLASS => 6
  | .CCH_MAINT => 6 | .CCH_MAINT_LEN => 6 | .CCH_STAT => 6 | .CCH_PARITY => 6 | .CCH_ERRLOG => 6
  | .XLT_ROOT => 7 | .XLT_INVAL => 7 | .XLT_FAULT => 7 | .XLT_STAT => 7 | .NMC_CTL => 8 | .NMC_STAT => 8
  | .NMC_ERRLOG => 8 | .FMC_CFG => 9 | .FMC_CTL => 9 | .FMC_DIMM => 9 | .FMC_STAT => 9 | .FMC_ERRLOG => 9
  | .DMA_RING => 10 | .DMA_POST => 10 | .DMA_MARKS => 10 | .DMA_CHCTL => 10 | .DMA_CHSTAT => 10
  | .DMA_BUSERR => 10 | .DMA_BUSERR_ADDR => 10 | .EVR_SRC => 11 | .EVR_VEC => 11 | .EVR_HOLDOFF => 11
  | .EVR_PEND => 11 | .EVR_CORE => 11 | .EVR_CLAIM => 11 | .EVR_DONE => 11 | .MAT_CTL => 12 | .MAT_SEG => 12
  | .MAT_STAT => 12 | .MAT_AUT => 12 | .MAT_DICT => 12 | .MAT_ERRLOG => 12 | .MAT_SEARCH => 12
  | .DGE_ALLOC => 13 | .DGE_CTL => 13 | .DGE_FEED => 13 | .DGE_DEST => 13 | .DGE_STAT => 13 | .DGE_RESULT => 13
  | .DGE_EXPECT => 13 | .DGE_KEYSTAT => 13 | .DGE_ENGSTAT => 13 | .BOT_STATUS => 14 | .BOT_SVN => 14
  | .BOT_NONCE => 14 | .BOT_AUTHSEQ => 14 | .BOT_EVENTS => 14 | .BOT_CAIRN => 14 | .SCN_CTL => 16
  | .SCN_BLOCKS => 16 | .SCN_PLANES => 16 | .SCN_ERRLOG => 16 | .SCN_DROP_BLK => 16 | .SCN_DROP_ROWS => 16
  | .FLT_CTL => 17 | .FLT_ROWS => 17 | .FLT_HEAP => 17 | .ARU_STRIPS => 18 | .ARU_EXCLOG => 18 | .ARU_EXC => 18
  | .ARU_NULLED => 18 | .HSH_ROWS => 19 | .JNU_CTL => 20 | .JNU_STAT => 20 | .JNU_SPILL => 20
  | .JNU_ERRLOG => 20 | .AGU_STAT => 21 | .AGU_ERRLOG => 21 | .SRT_STAT => 22 | .SRT_ERRLOG => 22
  | .XCH_CTL => 23 | .XCH_STAT => 23 | .XCH_STALL => 23 | .ULR_CORE_CTL => 24 | .ULR_RSBASE => 24
  | .ULR_STAT => 24 | .ULR_FAULTLOG => 24 | .SBI_CTL => 25 | .SBI_STAT => 25 | .TIM_DEVTIME => 26
  | .ERR_CTL => 27 | .ERR_STATUS => 27 | .ERR_COUNT => 27 | .ERR_HALT => 27 | .ERR_CAMP => 27

/-- Register number within the block (Table 18-3). -/
def Reg.num : Reg → Nat
  | .HIF_STATUS => 0 | .HIF_CTL => 1 | .HIF_ASQ => 2 | .HIF_ACQ => 3 | .HIF_LINK => 4 | .HIF_PTM => 5
  | .HIF_RETAIN => 6 | .HIF_ATTACH => 7 | .QUE_STAT => 0 | .QUE_DBERR => 1 | .CPM_PERIOD => 0 | .CPM_STATE => 1
  | .CPM_RATION => 2 | .CPM_REMAIN => 3 | .CPM_TRACE => 4 | .DPT_CTL => 0 | .DPT_STALE_TOKENS => 1
  | .DPT_TRACE => 2 | .PWR_CTL => 0 | .PWR_LIMIT => 1 | .PWR_THAW => 2 | .PWR_CLUSTER => 3 | .PWR_BUCKET => 4
  | .PWR_EST => 5 | .PWR_AVS => 6 | .THM_CTL => 0 | .THM_CLUSTER => 1 | .CCH_WAYMASK => 0 | .CCH_CAMPCLASS => 1
  | .CCH_MAINT => 2 | .CCH_MAINT_LEN => 3 | .CCH_STAT => 4 | .CCH_PARITY => 5 | .CCH_ERRLOG => 6
  | .XLT_ROOT => 0 | .XLT_INVAL => 1 | .XLT_FAULT => 2 | .XLT_STAT => 3 | .NMC_CTL => 0 | .NMC_STAT => 1
  | .NMC_ERRLOG => 2 | .FMC_CFG => 0 | .FMC_CTL => 1 | .FMC_DIMM => 2 | .FMC_STAT => 3 | .FMC_ERRLOG => 4
  | .DMA_RING => 0 | .DMA_POST => 1 | .DMA_MARKS => 2 | .DMA_CHCTL => 3 | .DMA_CHSTAT => 4 | .DMA_BUSERR => 5
  | .DMA_BUSERR_ADDR => 6 | .EVR_SRC => 0 | .EVR_VEC => 1 | .EVR_HOLDOFF => 2 | .EVR_PEND => 3 | .EVR_CORE => 4
  | .EVR_CLAIM => 5 | .EVR_DONE => 6 | .MAT_CTL => 0 | .MAT_SEG => 1 | .MAT_STAT => 2 | .MAT_AUT => 3
  | .MAT_DICT => 4 | .MAT_ERRLOG => 5 | .MAT_SEARCH => 6 | .DGE_ALLOC => 0 | .DGE_CTL => 1 | .DGE_FEED => 2
  | .DGE_DEST => 3 | .DGE_STAT => 4 | .DGE_RESULT => 5 | .DGE_EXPECT => 6 | .DGE_KEYSTAT => 7
  | .DGE_ENGSTAT => 8 | .BOT_STATUS => 0 | .BOT_SVN => 1 | .BOT_NONCE => 2 | .BOT_AUTHSEQ => 3
  | .BOT_EVENTS => 4 | .BOT_CAIRN => 5 | .SCN_CTL => 0 | .SCN_BLOCKS => 1 | .SCN_PLANES => 2 | .SCN_ERRLOG => 3
  | .SCN_DROP_BLK => 4 | .SCN_DROP_ROWS => 5 | .FLT_CTL => 0 | .FLT_ROWS => 1 | .FLT_HEAP => 2
  | .ARU_STRIPS => 0 | .ARU_EXCLOG => 1 | .ARU_EXC => 2 | .ARU_NULLED => 3 | .HSH_ROWS => 0 | .JNU_CTL => 0
  | .JNU_STAT => 1 | .JNU_SPILL => 2 | .JNU_ERRLOG => 3 | .AGU_STAT => 0 | .AGU_ERRLOG => 1 | .SRT_STAT => 0
  | .SRT_ERRLOG => 1 | .XCH_CTL => 0 | .XCH_STAT => 1 | .XCH_STALL => 2 | .ULR_CORE_CTL => 0 | .ULR_RSBASE => 1
  | .ULR_STAT => 2 | .ULR_FAULTLOG => 3 | .SBI_CTL => 0 | .SBI_STAT => 1 | .TIM_DEVTIME => 0 | .ERR_CTL => 0
  | .ERR_STATUS => 1 | .ERR_COUNT => 2 | .ERR_HALT => 3 | .ERR_CAMP => 4

/-- Index form of a register (Table 18-3). -/
def Reg.form : Reg → IndexForm
  | .HIF_STATUS => .function | .HIF_CTL => .function | .HIF_ASQ => .function | .HIF_ACQ => .function
  | .HIF_LINK => .function | .HIF_PTM => .device | .HIF_RETAIN => .camp | .HIF_ATTACH => .camp
  | .QUE_STAT => .function | .QUE_DBERR => .function | .CPM_PERIOD => .device | .CPM_STATE => .camp
  | .CPM_RATION => .campComp | .CPM_REMAIN => .campComp | .CPM_TRACE => .camp | .DPT_CTL => .die
  | .DPT_STALE_TOKENS => .die | .DPT_TRACE => .die | .PWR_CTL => .device | .PWR_LIMIT => .device
  | .PWR_THAW => .device | .PWR_CLUSTER => .cluster | .PWR_BUCKET => .cluster | .PWR_EST => .campClass
  | .PWR_AVS => .port | .THM_CTL => .device | .THM_CLUSTER => .cluster | .CCH_WAYMASK => .clusterClass
  | .CCH_CAMPCLASS => .camp | .CCH_MAINT => .cluster | .CCH_MAINT_LEN => .cluster | .CCH_STAT => .cluster
  | .CCH_PARITY => .cluster | .CCH_ERRLOG => .cluster | .XLT_ROOT => .camp | .XLT_INVAL => .device
  | .XLT_FAULT => .clusterDma | .XLT_STAT => .cluster | .NMC_CTL => .device | .NMC_STAT => .eight
  | .NMC_ERRLOG => .eight | .FMC_CFG => .device | .FMC_CTL => .device | .FMC_DIMM => .chanSlot
  | .FMC_STAT => .eight | .FMC_ERRLOG => .eight | .DMA_RING => .dmaChan | .DMA_POST => .dmaChan
  | .DMA_MARKS => .dmaChan | .DMA_CHCTL => .dmaChan | .DMA_CHSTAT => .dmaChan | .DMA_BUSERR => .device
  | .DMA_BUSERR_ADDR => .device | .EVR_SRC => .source | .EVR_VEC => .source | .EVR_HOLDOFF => .group
  | .EVR_PEND => .group | .EVR_CORE => .mcore | .EVR_CLAIM => .mcore | .EVR_DONE => .mcore
  | .MAT_CTL => .cluster | .MAT_SEG => .segment | .MAT_STAT => .cluster | .MAT_AUT => .cluster
  | .MAT_DICT => .cluster | .MAT_ERRLOG => .cluster | .MAT_SEARCH => .camp | .DGE_ALLOC => .engine
  | .DGE_CTL => .engCtx | .DGE_FEED => .engCtx | .DGE_DEST => .engCtx | .DGE_STAT => .engCtx
  | .DGE_RESULT => .engCtxWord | .DGE_EXPECT => .engCtxWord | .DGE_KEYSTAT => .slot | .DGE_ENGSTAT => .engine
  | .BOT_STATUS => .device | .BOT_SVN => .stage | .BOT_NONCE => .device | .BOT_AUTHSEQ => .device
  | .BOT_EVENTS => .device | .BOT_CAIRN => .device | .SCN_CTL => .tile | .SCN_BLOCKS => .tile
  | .SCN_PLANES => .tile | .SCN_ERRLOG => .tile | .SCN_DROP_BLK => .camp | .SCN_DROP_ROWS => .camp
  | .FLT_CTL => .tile | .FLT_ROWS => .tile | .FLT_HEAP => .tile | .ARU_STRIPS => .tile | .ARU_EXCLOG => .tile
  | .ARU_EXC => .camp | .ARU_NULLED => .camp | .HSH_ROWS => .tile | .JNU_CTL => .cluster | .JNU_STAT => .tile
  | .JNU_SPILL => .camp | .JNU_ERRLOG => .cluster | .AGU_STAT => .tile | .AGU_ERRLOG => .tile
  | .SRT_STAT => .tile | .SRT_ERRLOG => .cluster | .XCH_CTL => .tile | .XCH_STAT => .tile | .XCH_STALL => .camp
  | .ULR_CORE_CTL => .core | .ULR_RSBASE => .core | .ULR_STAT => .core | .ULR_FAULTLOG => .core
  | .SBI_CTL => .device | .SBI_STAT => .device | .TIM_DEVTIME => .device | .ERR_CTL => .device
  | .ERR_STATUS => .device | .ERR_COUNT => .errClass | .ERR_HALT => .device | .ERR_CAMP => .camp

/-- Every register, in block and number order. -/
def Reg.all : List Reg := [
  .HIF_STATUS, .HIF_CTL, .HIF_ASQ, .HIF_ACQ, .HIF_LINK, .HIF_PTM, .HIF_RETAIN, .HIF_ATTACH, .QUE_STAT,
  .QUE_DBERR, .CPM_PERIOD, .CPM_STATE, .CPM_RATION, .CPM_REMAIN, .CPM_TRACE, .DPT_CTL, .DPT_STALE_TOKENS,
  .DPT_TRACE, .PWR_CTL, .PWR_LIMIT, .PWR_THAW, .PWR_CLUSTER, .PWR_BUCKET, .PWR_EST, .PWR_AVS, .THM_CTL,
  .THM_CLUSTER, .CCH_WAYMASK, .CCH_CAMPCLASS, .CCH_MAINT, .CCH_MAINT_LEN, .CCH_STAT, .CCH_PARITY,
  .CCH_ERRLOG, .XLT_ROOT, .XLT_INVAL, .XLT_FAULT, .XLT_STAT, .NMC_CTL, .NMC_STAT, .NMC_ERRLOG, .FMC_CFG,
  .FMC_CTL, .FMC_DIMM, .FMC_STAT, .FMC_ERRLOG, .DMA_RING, .DMA_POST, .DMA_MARKS, .DMA_CHCTL, .DMA_CHSTAT,
  .DMA_BUSERR, .DMA_BUSERR_ADDR, .EVR_SRC, .EVR_VEC, .EVR_HOLDOFF, .EVR_PEND, .EVR_CORE, .EVR_CLAIM,
  .EVR_DONE, .MAT_CTL, .MAT_SEG, .MAT_STAT, .MAT_AUT, .MAT_DICT, .MAT_ERRLOG, .MAT_SEARCH, .DGE_ALLOC,
  .DGE_CTL, .DGE_FEED, .DGE_DEST, .DGE_STAT, .DGE_RESULT, .DGE_EXPECT, .DGE_KEYSTAT, .DGE_ENGSTAT,
  .BOT_STATUS, .BOT_SVN, .BOT_NONCE, .BOT_AUTHSEQ, .BOT_EVENTS, .BOT_CAIRN, .SCN_CTL, .SCN_BLOCKS,
  .SCN_PLANES, .SCN_ERRLOG, .SCN_DROP_BLK, .SCN_DROP_ROWS, .FLT_CTL, .FLT_ROWS, .FLT_HEAP, .ARU_STRIPS,
  .ARU_EXCLOG, .ARU_EXC, .ARU_NULLED, .HSH_ROWS, .JNU_CTL, .JNU_STAT, .JNU_SPILL, .JNU_ERRLOG, .AGU_STAT,
  .AGU_ERRLOG, .SRT_STAT, .SRT_ERRLOG, .XCH_CTL, .XCH_STAT, .XCH_STALL, .ULR_CORE_CTL, .ULR_RSBASE,
  .ULR_STAT, .ULR_FAULTLOG, .SBI_CTL, .SBI_STAT, .TIM_DEVTIME, .ERR_CTL, .ERR_STATUS, .ERR_COUNT, .ERR_HALT,
  .ERR_CAMP]

/-- One field of a field map: `cfg` marks a value that BOOT loads from the configuration image. -/
structure Fld where
  reg : Reg
  lo : Nat
  w : Nat
  acc : Access
  reset : Nat
  cfg : Bool
  deriving DecidableEq, Repr

namespace Fld

-- HIF_STATUS: Table 11-14 (11_host_link_queues)
def HIF_STATUS_mode : Fld := ⟨.HIF_STATUS, 0, 3, .ro, 1, false⟩
def HIF_STATUS_ready : Fld := ⟨.HIF_STATUS, 3, 1, .ro, 0, false⟩
def HIF_STATUS_reset_busy : Fld := ⟨.HIF_STATUS, 4, 1, .ro, 0, false⟩
-- HIF_CTL: Table 11-15 (11_host_link_queues)
def HIF_CTL_enable : Fld := ⟨.HIF_CTL, 0, 1, .rw, 0, false⟩
-- HIF_ASQ: Table 11-16 (11_host_link_queues)
def HIF_ASQ_size_m1 : Fld := ⟨.HIF_ASQ, 0, 12, .rw, 0, false⟩
def HIF_ASQ_base : Fld := ⟨.HIF_ASQ, 12, 52, .rw, 0, false⟩
-- HIF_ACQ: Table 11-16 (11_host_link_queues)
def HIF_ACQ_size_m1 : Fld := ⟨.HIF_ACQ, 0, 12, .rw, 0, false⟩
def HIF_ACQ_base : Fld := ⟨.HIF_ACQ, 12, 52, .rw, 0, false⟩
-- HIF_LINK: Table 11-17 (11_host_link_queues)
def HIF_LINK_gen : Fld := ⟨.HIF_LINK, 0, 3, .ro, 0, false⟩
def HIF_LINK_width : Fld := ⟨.HIF_LINK, 3, 5, .ro, 0, false⟩
def HIF_LINK_flit : Fld := ⟨.HIF_LINK, 8, 1, .ro, 0, false⟩
def HIF_LINK_vc1 : Fld := ⟨.HIF_LINK, 9, 1, .ro, 0, false⟩
def HIF_LINK_tag14 : Fld := ⟨.HIF_LINK, 10, 1, .ro, 0, false⟩
def HIF_LINK_ats : Fld := ⟨.HIF_LINK, 11, 1, .ro, 0, false⟩
def HIF_LINK_ide_streams : Fld := ⟨.HIF_LINK, 12, 3, .ro, 0, false⟩
def HIF_LINK_link_downs : Fld := ⟨.HIF_LINK, 16, 16, .rc, 0, false⟩
-- HIF_PTM: Table 11-20 (11_host_link_queues)
def HIF_PTM_enable : Fld := ⟨.HIF_PTM, 0, 1, .rwl, 0, true⟩
def HIF_PTM_interval_ms : Fld := ⟨.HIF_PTM, 1, 10, .rwl, 100, true⟩
def HIF_PTM_stepped : Fld := ⟨.HIF_PTM, 11, 1, .w1c, 0, false⟩
def HIF_PTM_offset : Fld := ⟨.HIF_PTM, 12, 32, .ro, 0, false⟩
-- HIF_RETAIN: Table 11-21 (11_host_link_queues)
def HIF_RETAIN_capacity : Fld := ⟨.HIF_RETAIN, 0, 24, .ro, 0, true⟩
def HIF_RETAIN_used : Fld := ⟨.HIF_RETAIN, 24, 24, .ro, 0, false⟩
def HIF_RETAIN_lost : Fld := ⟨.HIF_RETAIN, 48, 16, .rc, 0, false⟩
-- HIF_ATTACH: Table 11-22 (11_host_link_queues)
def HIF_ATTACH_function : Fld := ⟨.HIF_ATTACH, 0, 7, .ro, 0, false⟩
def HIF_ATTACH_attached : Fld := ⟨.HIF_ATTACH, 7, 1, .ro, 0, false⟩
def HIF_ATTACH_streak : Fld := ⟨.HIF_ATTACH, 8, 3, .ro, 0, false⟩
def HIF_ATTACH_denied : Fld := ⟨.HIF_ATTACH, 32, 16, .rc, 0, false⟩
-- QUE_STAT: Table 11-18 (11_host_link_queues)
def QUE_STAT_fetched : Fld := ⟨.QUE_STAT, 0, 32, .rc, 0, false⟩
def QUE_STAT_cq_full : Fld := ⟨.QUE_STAT, 32, 16, .rc, 0, false⟩
-- QUE_DBERR: Table 11-19 (11_host_link_queues)
def QUE_DBERR_qid : Fld := ⟨.QUE_DBERR, 0, 16, .ro, 0, false⟩
def QUE_DBERR_kind : Fld := ⟨.QUE_DBERR, 16, 3, .ro, 0, false⟩
def QUE_DBERR_count : Fld := ⟨.QUE_DBERR, 32, 16, .rc, 0, false⟩
def QUE_DBERR_valid : Fld := ⟨.QUE_DBERR, 63, 1, .w1c, 0, false⟩
-- CPM_PERIOD: Table 09-13 (09_dispatch_power)
def CPM_PERIOD_period_us : Fld := ⟨.CPM_PERIOD, 0, 14, .rwl, 1000, true⟩
-- CPM_STATE: Table 09-14 (09_dispatch_power)
def CPM_STATE_kind : Fld := ⟨.CPM_STATE, 0, 2, .rw, 0, false⟩
def CPM_STATE_state : Fld := ⟨.CPM_STATE, 2, 3, .rw, 0, false⟩
def CPM_STATE_prio_ceiling : Fld := ⟨.CPM_STATE, 5, 4, .rw, 0, false⟩
def CPM_STATE_mse_allot : Fld := ⟨.CPM_STATE, 9, 10, .rw, 0, false⟩
def CPM_STATE_exhausted : Fld := ⟨.CPM_STATE, 19, 6, .ro, 0, false⟩
def CPM_STATE_urgent_reserve : Fld := ⟨.CPM_STATE, 25, 6, .rw, 0, false⟩
def CPM_STATE_trace_bucket : Fld := ⟨.CPM_STATE, 31, 1, .rw, 0, false⟩
-- CPM_RATION: Table 09-15 (09_dispatch_power)
def CPM_RATION_amount : Fld := ⟨.CPM_RATION, 0, 40, .rw, 0, false⟩
-- CPM_REMAIN: Table 09-16 (09_dispatch_power)
def CPM_REMAIN_remain : Fld := ⟨.CPM_REMAIN, 0, 42, .ro, 0, false⟩
-- CPM_TRACE: Table 09-17 (09_dispatch_power)
def CPM_TRACE_base : Fld := ⟨.CPM_TRACE, 0, 46, .rw, 0, false⟩
def CPM_TRACE_size_log2 : Fld := ⟨.CPM_TRACE, 46, 5, .rw, 0, false⟩
-- DPT_CTL: Table 09-10 (09_dispatch_power)
def DPT_CTL_trace_en : Fld := ⟨.DPT_CTL, 0, 1, .rwl, 0, true⟩
def DPT_CTL_urgent_level : Fld := ⟨.DPT_CTL, 1, 4, .rwl, 12, true⟩
def DPT_CTL_urgent_floor : Fld := ⟨.DPT_CTL, 5, 14, .rwl, 500, true⟩
def DPT_CTL_xdie_wait : Fld := ⟨.DPT_CTL, 19, 16, .rwl, 500, true⟩
def DPT_CTL_quantum : Fld := ⟨.DPT_CTL, 35, 16, .rwl, 1250, true⟩
def DPT_CTL_fence_cap : Fld := ⟨.DPT_CTL, 51, 6, .rwl, 48, true⟩
-- DPT_STALE_TOKENS: Table 09-11 (09_dispatch_power)
def DPT_STALE_TOKENS_count : Fld := ⟨.DPT_STALE_TOKENS, 0, 32, .rc, 0, false⟩
-- DPT_TRACE: Table 09-12 (09_dispatch_power)
def DPT_TRACE_base : Fld := ⟨.DPT_TRACE, 0, 46, .rw, 0, false⟩
def DPT_TRACE_size_log2 : Fld := ⟨.DPT_TRACE, 46, 5, .rw, 0, false⟩
-- PWR_CTL: Table 09-18 (09_dispatch_power)
def PWR_CTL_f_eff : Fld := ⟨.PWR_CTL, 0, 6, .rwl, 28, true⟩
def PWR_CTL_freeze_idle : Fld := ⟨.PWR_CTL, 6, 16, .rwl, 2000, true⟩
def PWR_CTL_thaw_wait : Fld := ⟨.PWR_CTL, 22, 16, .rwl, 200, true⟩
def PWR_CTL_cold_after : Fld := ⟨.PWR_CTL, 38, 16, .rwl, 50, true⟩
def PWR_CTL_min_warm : Fld := ⟨.PWR_CTL, 54, 2, .rwl, 1, true⟩
-- PWR_LIMIT: Table 09-19 (09_dispatch_power)
def PWR_LIMIT_sustained : Fld := ⟨.PWR_LIMIT, 0, 10, .rwl, 0, true⟩
def PWR_LIMIT_bmc_cap : Fld := ⟨.PWR_LIMIT, 10, 10, .rw, 0, false⟩
def PWR_LIMIT_effective : Fld := ⟨.PWR_LIMIT, 20, 10, .ro, 0, true⟩
-- PWR_THAW: Table 09-20 (09_dispatch_power)
def PWR_THAW_retained_nj : Fld := ⟨.PWR_THAW, 0, 24, .rwl, 400000, true⟩
def PWR_THAW_cold_nj : Fld := ⟨.PWR_THAW, 24, 24, .rwl, 900000, true⟩
-- PWR_CLUSTER: Table 09-21 (09_dispatch_power)
def PWR_CLUSTER_pstate : Fld := ⟨.PWR_CLUSTER, 0, 2, .ro, 0, false⟩
def PWR_CLUSTER_f_step : Fld := ⟨.PWR_CLUSTER, 2, 6, .ro, 16, false⟩
def PWR_CLUSTER_throttled : Fld := ⟨.PWR_CLUSTER, 8, 1, .ro, 0, false⟩
def PWR_CLUSTER_prochot : Fld := ⟨.PWR_CLUSTER, 9, 1, .ro, 0, false⟩
def PWR_CLUSTER_thaws : Fld := ⟨.PWR_CLUSTER, 16, 16, .rc, 0, false⟩
def PWR_CLUSTER_freezes : Fld := ⟨.PWR_CLUSTER, 32, 16, .rc, 0, false⟩
-- PWR_BUCKET: Table 09-22 (09_dispatch_power)
def PWR_BUCKET_level : Fld := ⟨.PWR_BUCKET, 0, 32, .ro, 0, false⟩
def PWR_BUCKET_cap : Fld := ⟨.PWR_BUCKET, 32, 32, .ro, 0, true⟩
-- PWR_EST: Table 09-23 (09_dispatch_power)
def PWR_EST_estimate : Fld := ⟨.PWR_EST, 0, 24, .rw, 0, true⟩
-- PWR_AVS: Table 09-24 (09_dispatch_power)
def PWR_AVS_vreq : Fld := ⟨.PWR_AVS, 0, 10, .ro, 0, false⟩
def PWR_AVS_vread : Fld := ⟨.PWR_AVS, 10, 10, .ro, 0, false⟩
def PWR_AVS_timeouts : Fld := ⟨.PWR_AVS, 20, 16, .rc, 0, false⟩
-- THM_CTL: Table 09-25 (09_dispatch_power)
def THM_CTL_t_throttle : Fld := ⟨.THM_CTL, 0, 7, .rwl, 95, true⟩
def THM_CTL_hot_stop : Fld := ⟨.THM_CTL, 7, 1, .ro, 0, false⟩
-- THM_CLUSTER: Table 09-26 (09_dispatch_power)
def THM_CLUSTER_t_max : Fld := ⟨.THM_CLUSTER, 0, 8, .ro, 0, false⟩
def THM_CLUSTER_valid : Fld := ⟨.THM_CLUSTER, 8, 4, .ro, 0, false⟩
def THM_CLUSTER_throttle_events : Fld := ⟨.THM_CLUSTER, 16, 16, .rc, 0, false⟩
def THM_CLUSTER_sensor_faults : Fld := ⟨.THM_CLUSTER, 32, 16, .rc, 0, false⟩
-- CCH_WAYMASK: Table 10-15 (10_memory_cache)
def CCH_WAYMASK_ways : Fld := ⟨.CCH_WAYMASK, 0, 16, .rwl, 0, true⟩
-- CCH_CAMPCLASS: Table 10-16 (10_memory_cache)
def CCH_CAMPCLASS_class : Fld := ⟨.CCH_CAMPCLASS, 0, 2, .rw, 0, false⟩
-- CCH_MAINT: Table 10-17 (10_memory_cache)
def CCH_MAINT_da : Fld := ⟨.CCH_MAINT, 0, 46, .rw, 0, false⟩
def CCH_MAINT_op : Fld := ⟨.CCH_MAINT, 46, 2, .rw, 0, false⟩
def CCH_MAINT_all_clusters : Fld := ⟨.CCH_MAINT, 48, 1, .rw, 0, false⟩
def CCH_MAINT_busy : Fld := ⟨.CCH_MAINT, 63, 1, .ro, 0, false⟩
-- CCH_MAINT_LEN: Table 10-18 (10_memory_cache)
def CCH_MAINT_LEN_lines : Fld := ⟨.CCH_MAINT_LEN, 0, 32, .rw, 0, false⟩
def CCH_MAINT_LEN_rejected : Fld := ⟨.CCH_MAINT_LEN, 32, 1, .w1c, 0, false⟩
-- CCH_STAT: Table 10-19 (10_memory_cache)
def CCH_STAT_hits : Fld := ⟨.CCH_STAT, 0, 24, .rc, 0, false⟩
def CCH_STAT_misses : Fld := ⟨.CCH_STAT, 24, 24, .rc, 0, false⟩
def CCH_STAT_evb_stalls : Fld := ⟨.CCH_STAT, 48, 16, .rc, 0, false⟩
-- CCH_PARITY: Table 10-20 (10_memory_cache)
def CCH_PARITY_corrected : Fld := ⟨.CCH_PARITY, 0, 24, .rc, 0, false⟩
def CCH_PARITY_data_loss : Fld := ⟨.CCH_PARITY, 24, 16, .rc, 0, false⟩
def CCH_PARITY_scratch_corrected : Fld := ⟨.CCH_PARITY, 40, 16, .rc, 0, false⟩
-- CCH_ERRLOG: Table 10-21 (10_memory_cache)
def CCH_ERRLOG_da : Fld := ⟨.CCH_ERRLOG, 0, 46, .ro, 0, false⟩
def CCH_ERRLOG_kind : Fld := ⟨.CCH_ERRLOG, 46, 3, .ro, 0, false⟩
def CCH_ERRLOG_exec : Fld := ⟨.CCH_ERRLOG, 49, 13, .ro, 0, false⟩
def CCH_ERRLOG_valid : Fld := ⟨.CCH_ERRLOG, 63, 1, .w1c, 0, false⟩
-- XLT_ROOT: Table 10-11 (10_memory_cache)
def XLT_ROOT_base : Fld := ⟨.XLT_ROOT, 0, 46, .rw, 0, false⟩
def XLT_ROOT_valid : Fld := ⟨.XLT_ROOT, 46, 1, .rw, 0, false⟩
-- XLT_INVAL: Table 10-12 (10_memory_cache)
def XLT_INVAL_camp : Fld := ⟨.XLT_INVAL, 0, 10, .rw, 0, false⟩
def XLT_INVAL_all_camps : Fld := ⟨.XLT_INVAL, 10, 1, .rw, 0, false⟩
def XLT_INVAL_go : Fld := ⟨.XLT_INVAL, 11, 1, .w1s, 0, false⟩
def XLT_INVAL_busy : Fld := ⟨.XLT_INVAL, 12, 1, .ro, 0, false⟩
def XLT_INVAL_start : Fld := ⟨.XLT_INVAL, 13, 29, .rw, 0, false⟩
def XLT_INVAL_units : Fld := ⟨.XLT_INVAL, 42, 20, .rw, 0, false⟩
-- XLT_FAULT: Table 10-13 (10_memory_cache)
def XLT_FAULT_view_da : Fld := ⟨.XLT_FAULT, 0, 46, .ro, 0, false⟩
def XLT_FAULT_kind : Fld := ⟨.XLT_FAULT, 46, 3, .ro, 0, false⟩
def XLT_FAULT_camp : Fld := ⟨.XLT_FAULT, 49, 10, .ro, 0, false⟩
def XLT_FAULT_valid : Fld := ⟨.XLT_FAULT, 63, 1, .w1c, 0, false⟩
-- XLT_STAT: Table 10-14 (10_memory_cache)
def XLT_STAT_hits : Fld := ⟨.XLT_STAT, 0, 32, .rc, 0, false⟩
def XLT_STAT_walks : Fld := ⟨.XLT_STAT, 32, 32, .rc, 0, false⟩
-- NMC_CTL: Table 10-22 (10_memory_cache)
def NMC_CTL_scrub_hours : Fld := ⟨.NMC_CTL, 0, 8, .rwl, 24, true⟩
-- NMC_STAT: Table 10-23 (10_memory_cache)
def NMC_STAT_corrected : Fld := ⟨.NMC_STAT, 0, 32, .rc, 0, false⟩
def NMC_STAT_uncorrected : Fld := ⟨.NMC_STAT, 32, 16, .rc, 0, false⟩
def NMC_STAT_lanes_repaired : Fld := ⟨.NMC_STAT, 48, 5, .ro, 0, false⟩
def NMC_STAT_trained : Fld := ⟨.NMC_STAT, 53, 1, .ro, 0, false⟩
-- NMC_ERRLOG: Table 10-24 (10_memory_cache)
def NMC_ERRLOG_da : Fld := ⟨.NMC_ERRLOG, 0, 46, .ro, 0, false⟩
def NMC_ERRLOG_scrub : Fld := ⟨.NMC_ERRLOG, 46, 1, .ro, 0, false⟩
def NMC_ERRLOG_valid : Fld := ⟨.NMC_ERRLOG, 63, 1, .w1c, 0, false⟩
-- FMC_CFG: Table 10-25 (10_memory_cache)
def FMC_CFG_dimms : Fld := ⟨.FMC_CFG, 0, 5, .ro, 0, false⟩
def FMC_CFG_dimm_size : Fld := ⟨.FMC_CFG, 5, 3, .ro, 0, false⟩
def FMC_CFG_speed : Fld := ⟨.FMC_CFG, 8, 5, .ro, 0, false⟩
def FMC_CFG_disabled : Fld := ⟨.FMC_CFG, 13, 1, .ro, 0, false⟩
-- FMC_CTL: Table 10-26 (10_memory_cache)
def FMC_CTL_scrub_hours : Fld := ⟨.FMC_CTL, 0, 8, .rwl, 24, true⟩
-- FMC_DIMM: Table 10-27 (10_memory_cache)
def FMC_DIMM_present : Fld := ⟨.FMC_DIMM, 0, 1, .ro, 0, false⟩
def FMC_DIMM_trained : Fld := ⟨.FMC_DIMM, 1, 1, .ro, 0, false⟩
def FMC_DIMM_size : Fld := ⟨.FMC_DIMM, 2, 3, .ro, 0, false⟩
def FMC_DIMM_ranks : Fld := ⟨.FMC_DIMM, 5, 2, .ro, 0, false⟩
def FMC_DIMM_height : Fld := ⟨.FMC_DIMM, 7, 2, .ro, 0, false⟩
def FMC_DIMM_max_speed : Fld := ⟨.FMC_DIMM, 9, 5, .ro, 0, false⟩
-- FMC_STAT: Table 10-28 (10_memory_cache)
def FMC_STAT_corrected : Fld := ⟨.FMC_STAT, 0, 32, .rc, 0, false⟩
def FMC_STAT_uncorrected : Fld := ⟨.FMC_STAT, 32, 16, .rc, 0, false⟩
-- FMC_ERRLOG: Table 10-29 (10_memory_cache)
def FMC_ERRLOG_da : Fld := ⟨.FMC_ERRLOG, 0, 46, .ro, 0, false⟩
def FMC_ERRLOG_slot : Fld := ⟨.FMC_ERRLOG, 46, 1, .ro, 0, false⟩
def FMC_ERRLOG_rank : Fld := ⟨.FMC_ERRLOG, 47, 3, .ro, 0, false⟩
def FMC_ERRLOG_device : Fld := ⟨.FMC_ERRLOG, 50, 5, .ro, 0, false⟩
def FMC_ERRLOG_scrub : Fld := ⟨.FMC_ERRLOG, 55, 1, .ro, 0, false⟩
def FMC_ERRLOG_valid : Fld := ⟨.FMC_ERRLOG, 63, 1, .w1c, 0, false⟩
-- DMA_RING: Table 13-11 (13_rings_dma_events)
def DMA_RING_base : Fld := ⟨.DMA_RING, 0, 46, .rw, 0, false⟩
def DMA_RING_size_log2 : Fld := ⟨.DMA_RING, 46, 5, .rw, 0, false⟩
def DMA_RING_camp : Fld := ⟨.DMA_RING, 51, 10, .rw, 0, false⟩
def DMA_RING_enable : Fld := ⟨.DMA_RING, 61, 1, .rw, 0, false⟩
-- DMA_POST: Table 13-12 (13_rings_dma_events)
def DMA_POST_posted : Fld := ⟨.DMA_POST, 0, 32, .rw, 0, false⟩
-- DMA_MARKS: Table 13-13 (13_rings_dma_events)
def DMA_MARKS_start_mark : Fld := ⟨.DMA_MARKS, 0, 7, .rwl, 16, true⟩
def DMA_MARKS_stop_mark : Fld := ⟨.DMA_MARKS, 7, 7, .rwl, 4, true⟩
def DMA_MARKS_idle_ticks : Fld := ⟨.DMA_MARKS, 14, 16, .rwl, 250, true⟩
-- DMA_CHCTL: Table 13-14 (13_rings_dma_events)
def DMA_CHCTL_resume : Fld := ⟨.DMA_CHCTL, 0, 1, .w1s, 0, false⟩
def DMA_CHCTL_reset : Fld := ⟨.DMA_CHCTL, 1, 1, .w1s, 0, false⟩
-- DMA_CHSTAT: Table 13-15 (13_rings_dma_events)
def DMA_CHSTAT_taken : Fld := ⟨.DMA_CHSTAT, 0, 32, .ro, 0, false⟩
def DMA_CHSTAT_lap : Fld := ⟨.DMA_CHSTAT, 32, 16, .ro, 1, false⟩
def DMA_CHSTAT_halted : Fld := ⟨.DMA_CHSTAT, 48, 1, .ro, 0, false⟩
def DMA_CHSTAT_active : Fld := ⟨.DMA_CHSTAT, 49, 1, .ro, 0, false⟩
def DMA_CHSTAT_post_err : Fld := ⟨.DMA_CHSTAT, 50, 1, .w1c, 0, false⟩
-- DMA_BUSERR: Table 13-16 (13_rings_dma_events)
def DMA_BUSERR_channel : Fld := ⟨.DMA_BUSERR, 0, 7, .ro, 0, false⟩
def DMA_BUSERR_dir : Fld := ⟨.DMA_BUSERR, 7, 1, .ro, 0, false⟩
def DMA_BUSERR_flush : Fld := ⟨.DMA_BUSERR, 8, 1, .ro, 0, false⟩
def DMA_BUSERR_kind : Fld := ⟨.DMA_BUSERR, 9, 3, .ro, 0, false⟩
def DMA_BUSERR_valid : Fld := ⟨.DMA_BUSERR, 63, 1, .w1c, 0, false⟩
-- DMA_BUSERR_ADDR: Table 13-17 (13_rings_dma_events)
def DMA_BUSERR_ADDR_addr : Fld := ⟨.DMA_BUSERR_ADDR, 0, 64, .ro, 0, false⟩
-- EVR_SRC: Table 13-18 (13_rings_dma_events)
def EVR_SRC_priority : Fld := ⟨.EVR_SRC, 0, 4, .rw, 0, true⟩
def EVR_SRC_target : Fld := ⟨.EVR_SRC, 4, 3, .rw, 0, true⟩
def EVR_SRC_mask : Fld := ⟨.EVR_SRC, 7, 1, .rw, 1, false⟩
def EVR_SRC_in_service : Fld := ⟨.EVR_SRC, 8, 1, .ro, 0, false⟩
def EVR_SRC_pending : Fld := ⟨.EVR_SRC, 9, 1, .ro, 0, false⟩
def EVR_SRC_camp : Fld := ⟨.EVR_SRC, 10, 10, .rw, 0, true⟩
def EVR_SRC_merged : Fld := ⟨.EVR_SRC, 32, 16, .rc, 0, false⟩
-- EVR_VEC: Table 13-19 (13_rings_dma_events)
def EVR_VEC_handler : Fld := ⟨.EVR_VEC, 0, 36, .rw, 0, true⟩
-- EVR_HOLDOFF: Table 13-20 (13_rings_dma_events)
def EVR_HOLDOFF_ticks : Fld := ⟨.EVR_HOLDOFF, 0, 16, .rw, 0, true⟩
def EVR_HOLDOFF_active : Fld := ⟨.EVR_HOLDOFF, 16, 1, .ro, 0, false⟩
-- EVR_PEND: Table 13-21 (13_rings_dma_events)
def EVR_PEND_pending : Fld := ⟨.EVR_PEND, 0, 16, .w1s, 0, false⟩
-- EVR_CORE: Table 13-22 (13_rings_dma_events)
def EVR_CORE_mode : Fld := ⟨.EVR_CORE, 0, 1, .rw, 0, true⟩
def EVR_CORE_request : Fld := ⟨.EVR_CORE, 1, 1, .ro, 0, false⟩
-- EVR_CLAIM: Table 13-23 (13_rings_dma_events)
def EVR_CLAIM_source : Fld := ⟨.EVR_CLAIM, 0, 9, .rc, 0, false⟩
def EVR_CLAIM_priority : Fld := ⟨.EVR_CLAIM, 9, 4, .rc, 0, false⟩
def EVR_CLAIM_valid : Fld := ⟨.EVR_CLAIM, 13, 1, .rc, 0, false⟩
-- EVR_DONE: Table 13-24 (13_rings_dma_events)
def EVR_DONE_source : Fld := ⟨.EVR_DONE, 0, 9, .wo, 0, false⟩
-- MAT_CTL: Table 07-8 (07_match_unit)
def MAT_CTL_aut_states : Fld := ⟨.MAT_CTL, 0, 19, .rwl, 0, true⟩
def MAT_CTL_scrub_en : Fld := ⟨.MAT_CTL, 19, 1, .rwl, 0, true⟩
-- MAT_SEG: Table 07-9 (07_match_unit)
def MAT_SEG_base : Fld := ⟨.MAT_SEG, 0, 14, .ro, 0, false⟩
def MAT_SEG_size : Fld := ⟨.MAT_SEG, 14, 15, .ro, 0, false⟩
def MAT_SEG_wide : Fld := ⟨.MAT_SEG, 29, 1, .ro, 0, false⟩
def MAT_SEG_camp : Fld := ⟨.MAT_SEG, 30, 10, .ro, 0, false⟩
def MAT_SEG_valid : Fld := ⟨.MAT_SEG, 63, 1, .ro, 0, false⟩
-- MAT_STAT: Table 07-10 (07_match_unit)
def MAT_STAT_searches : Fld := ⟨.MAT_STAT, 0, 28, .rc, 0, false⟩
def MAT_STAT_steps : Fld := ⟨.MAT_STAT, 28, 28, .rc, 0, false⟩
def MAT_STAT_corrected : Fld := ⟨.MAT_STAT, 56, 8, .rc, 0, false⟩
-- MAT_AUT: Table 07-11 (07_match_unit)
def MAT_AUT_runs : Fld := ⟨.MAT_AUT, 0, 32, .rc, 0, false⟩
def MAT_AUT_bytes : Fld := ⟨.MAT_AUT, 32, 32, .rc, 0, false⟩
-- MAT_DICT: Table 07-12 (07_match_unit)
def MAT_DICT_inserts : Fld := ⟨.MAT_DICT, 0, 32, .rc, 0, false⟩
def MAT_DICT_splits : Fld := ⟨.MAT_DICT, 32, 16, .rc, 0, false⟩
-- MAT_ERRLOG: Table 07-13 (07_match_unit)
def MAT_ERRLOG_index : Fld := ⟨.MAT_ERRLOG, 0, 14, .ro, 0, false⟩
def MAT_ERRLOG_kind : Fld := ⟨.MAT_ERRLOG, 14, 4, .ro, 0, false⟩
def MAT_ERRLOG_camp : Fld := ⟨.MAT_ERRLOG, 18, 10, .ro, 0, false⟩
def MAT_ERRLOG_valid : Fld := ⟨.MAT_ERRLOG, 63, 1, .w1c, 0, false⟩
-- MAT_SEARCH: Table 07-14 (07_match_unit)
def MAT_SEARCH_searches : Fld := ⟨.MAT_SEARCH, 0, 40, .rc, 0, false⟩
-- DGE_ALLOC: Table 15-25 (15_trust)
def DGE_ALLOC_context : Fld := ⟨.DGE_ALLOC, 0, 4, .rc, 0, false⟩
def DGE_ALLOC_valid : Fld := ⟨.DGE_ALLOC, 4, 1, .rc, 0, false⟩
-- DGE_CTL: Table 15-26 (15_trust)
def DGE_CTL_alg : Fld := ⟨.DGE_CTL, 0, 2, .rw, 0, false⟩
def DGE_CTL_hmac : Fld := ⟨.DGE_CTL, 2, 1, .rw, 0, false⟩
def DGE_CTL_slot : Fld := ⟨.DGE_CTL, 3, 5, .rw, 0, false⟩
def DGE_CTL_dest : Fld := ⟨.DGE_CTL, 8, 2, .rw, 0, false⟩
def DGE_CTL_camp : Fld := ⟨.DGE_CTL, 10, 10, .rw, 0, false⟩
def DGE_CTL_event : Fld := ⟨.DGE_CTL, 20, 1, .rw, 0, false⟩
def DGE_CTL_op : Fld := ⟨.DGE_CTL, 21, 3, .wo, 0, false⟩
-- DGE_FEED: Table 15-27 (15_trust)
def DGE_FEED_da : Fld := ⟨.DGE_FEED, 0, 46, .wo, 0, false⟩
def DGE_FEED_bytes : Fld := ⟨.DGE_FEED, 46, 18, .wo, 0, false⟩
-- DGE_DEST: Table 15-28 (15_trust)
def DGE_DEST_da : Fld := ⟨.DGE_DEST, 0, 46, .rw, 0, false⟩
-- DGE_STAT: Table 15-29 (15_trust)
def DGE_STAT_state : Fld := ⟨.DGE_STAT, 0, 3, .ro, 0, false⟩
def DGE_STAT_outcome : Fld := ⟨.DGE_STAT, 3, 2, .ro, 0, false⟩
def DGE_STAT_feed_err : Fld := ⟨.DGE_STAT, 5, 1, .w1c, 0, false⟩
def DGE_STAT_feeds_queued : Fld := ⟨.DGE_STAT, 6, 3, .ro, 0, false⟩
def DGE_STAT_msgs : Fld := ⟨.DGE_STAT, 9, 16, .ro, 0, false⟩
def DGE_STAT_err : Fld := ⟨.DGE_STAT, 25, 3, .ro, 0, false⟩
-- DGE_RESULT: Table 15-30 (15_trust)
def DGE_RESULT_bytes : Fld := ⟨.DGE_RESULT, 0, 64, .ro, 0, false⟩
-- DGE_EXPECT: Table 15-31 (15_trust)
def DGE_EXPECT_bytes : Fld := ⟨.DGE_EXPECT, 0, 64, .wo, 0, false⟩
-- DGE_KEYSTAT: Table 15-32 (15_trust)
def DGE_KEYSTAT_loaded : Fld := ⟨.DGE_KEYSTAT, 0, 1, .ro, 0, false⟩
def DGE_KEYSTAT_camp : Fld := ⟨.DGE_KEYSTAT, 1, 10, .ro, 0, false⟩
def DGE_KEYSTAT_key_len : Fld := ⟨.DGE_KEYSTAT, 11, 8, .ro, 0, false⟩
-- DGE_ENGSTAT: Table 15-33 (15_trust)
def DGE_ENGSTAT_blocks : Fld := ⟨.DGE_ENGSTAT, 0, 32, .rc, 0, false⟩
def DGE_ENGSTAT_busy : Fld := ⟨.DGE_ENGSTAT, 32, 16, .rc, 0, false⟩
def DGE_ENGSTAT_mismatches : Fld := ⟨.DGE_ENGSTAT, 48, 16, .rc, 0, false⟩
-- BOT_STATUS: Table 15-19 (15_trust)
def BOT_STATUS_step : Fld := ⟨.BOT_STATUS, 0, 4, .ro, 0, false⟩
def BOT_STATUS_image : Fld := ⟨.BOT_STATUS, 4, 1, .ro, 0, false⟩
def BOT_STATUS_strap_boot : Fld := ⟨.BOT_STATUS, 5, 2, .ro, 0, false⟩
def BOT_STATUS_fallback : Fld := ⟨.BOT_STATUS, 7, 4, .ro, 0, false⟩
def BOT_STATUS_locked : Fld := ⟨.BOT_STATUS, 11, 1, .ro, 0, false⟩
def BOT_STATUS_sealed : Fld := ⟨.BOT_STATUS, 12, 1, .ro, 0, false⟩
def BOT_STATUS_halt_cause : Fld := ⟨.BOT_STATUS, 16, 4, .ro, 0, false⟩
-- BOT_SVN: Table 15-20 (15_trust)
def BOT_SVN_fuse_min : Fld := ⟨.BOT_SVN, 0, 7, .ro, 0, false⟩
def BOT_SVN_running_svn : Fld := ⟨.BOT_SVN, 7, 16, .ro, 0, false⟩
-- BOT_NONCE: Table 15-21 (15_trust)
def BOT_NONCE_nonce : Fld := ⟨.BOT_NONCE, 0, 64, .ro, 0, false⟩
-- BOT_AUTHSEQ: Table 15-22 (15_trust)
def BOT_AUTHSEQ_seq : Fld := ⟨.BOT_AUTHSEQ, 0, 32, .ro, 0, false⟩
-- BOT_EVENTS: Table 15-23 (15_trust)
def BOT_EVENTS_maint : Fld := ⟨.BOT_EVENTS, 0, 1, .ro, 0, false⟩
def BOT_EVENTS_jtag : Fld := ⟨.BOT_EVENTS, 1, 1, .ro, 0, false⟩
def BOT_EVENTS_uart : Fld := ⟨.BOT_EVENTS, 2, 1, .ro, 0, false⟩
def BOT_EVENTS_svn_raised : Fld := ⟨.BOT_EVENTS, 3, 1, .ro, 0, false⟩
def BOT_EVENTS_strap_dbg : Fld := ⟨.BOT_EVENTS, 4, 1, .ro, 0, false⟩
-- BOT_CAIRN: Table 15-24 (15_trust)
def BOT_CAIRN_entries : Fld := ⟨.BOT_CAIRN, 0, 7, .ro, 0, false⟩
def BOT_CAIRN_bytes : Fld := ⟨.BOT_CAIRN, 7, 15, .ro, 0, false⟩
-- SCN_CTL: Table 03-7 (03_scan_filter)
def SCN_CTL_zone_en : Fld := ⟨.SCN_CTL, 0, 1, .rwl, 0, true⟩
def SCN_CTL_hdr_prefetch : Fld := ⟨.SCN_CTL, 1, 3, .rwl, 0, true⟩
-- SCN_BLOCKS: Table 03-8 (03_scan_filter)
def SCN_BLOCKS_scanned : Fld := ⟨.SCN_BLOCKS, 0, 32, .rc, 0, false⟩
def SCN_BLOCKS_skipped : Fld := ⟨.SCN_BLOCKS, 32, 32, .rc, 0, false⟩
-- SCN_PLANES: Table 03-9 (03_scan_filter)
def SCN_PLANES_fetched : Fld := ⟨.SCN_PLANES, 0, 32, .rc, 0, false⟩
def SCN_PLANES_not_fetched : Fld := ⟨.SCN_PLANES, 32, 32, .rc, 0, false⟩
-- SCN_ERRLOG: Table 03-10 (03_scan_filter)
def SCN_ERRLOG_block_da : Fld := ⟨.SCN_ERRLOG, 0, 46, .ro, 0, false⟩
def SCN_ERRLOG_cond : Fld := ⟨.SCN_ERRLOG, 46, 4, .ro, 0, false⟩
def SCN_ERRLOG_camp : Fld := ⟨.SCN_ERRLOG, 50, 10, .ro, 0, false⟩
def SCN_ERRLOG_valid : Fld := ⟨.SCN_ERRLOG, 63, 1, .w1c, 0, false⟩
-- SCN_DROP_BLK: Table 03-11 (03_scan_filter)
def SCN_DROP_BLK_crc_fail : Fld := ⟨.SCN_DROP_BLK, 0, 20, .rc, 0, false⟩
def SCN_DROP_BLK_malformed : Fld := ⟨.SCN_DROP_BLK, 20, 20, .rc, 0, false⟩
def SCN_DROP_BLK_poisoned : Fld := ⟨.SCN_DROP_BLK, 40, 20, .rc, 0, false⟩
-- SCN_DROP_ROWS: Table 03-12 (03_scan_filter)
def SCN_DROP_ROWS_batch_rows : Fld := ⟨.SCN_DROP_ROWS, 0, 40, .rc, 0, false⟩
def SCN_DROP_ROWS_heap_rows : Fld := ⟨.SCN_DROP_ROWS, 40, 24, .rc, 0, false⟩
-- FLT_CTL: Table 03-13 (03_scan_filter)
def FLT_CTL_inlist_lanes : Fld := ⟨.FLT_CTL, 0, 5, .rwl, 0, true⟩
-- FLT_ROWS: Table 03-14 (03_scan_filter)
def FLT_ROWS_rows_in : Fld := ⟨.FLT_ROWS, 0, 32, .rc, 0, false⟩
def FLT_ROWS_rows_selected : Fld := ⟨.FLT_ROWS, 32, 32, .rc, 0, false⟩
-- FLT_HEAP: Table 03-15 (03_scan_filter)
def FLT_HEAP_compares : Fld := ⟨.FLT_HEAP, 0, 32, .rc, 0, false⟩
def FLT_HEAP_failures : Fld := ⟨.FLT_HEAP, 32, 32, .rc, 0, false⟩
-- ARU_STRIPS: Table 04-13 (04_expressions)
def ARU_STRIPS_tasks : Fld := ⟨.ARU_STRIPS, 0, 32, .rc, 0, false⟩
def ARU_STRIPS_row_groups : Fld := ⟨.ARU_STRIPS, 32, 32, .rc, 0, false⟩
-- ARU_EXCLOG: Table 04-14 (04_expressions)
def ARU_EXCLOG_op_index : Fld := ⟨.ARU_EXCLOG, 0, 8, .ro, 0, false⟩
def ARU_EXCLOG_row : Fld := ⟨.ARU_EXCLOG, 8, 12, .ro, 0, false⟩
def ARU_EXCLOG_kind : Fld := ⟨.ARU_EXCLOG, 20, 2, .ro, 0, false⟩
def ARU_EXCLOG_camp : Fld := ⟨.ARU_EXCLOG, 22, 10, .ro, 0, false⟩
def ARU_EXCLOG_task_tag : Fld := ⟨.ARU_EXCLOG, 32, 16, .ro, 0, false⟩
def ARU_EXCLOG_epoch : Fld := ⟨.ARU_EXCLOG, 48, 4, .ro, 0, false⟩
def ARU_EXCLOG_valid : Fld := ⟨.ARU_EXCLOG, 63, 1, .w1c, 0, false⟩
-- ARU_EXC: Table 04-15 (04_expressions)
def ARU_EXC_overflow : Fld := ⟨.ARU_EXC, 0, 20, .rc, 0, false⟩
def ARU_EXC_div_zero : Fld := ⟨.ARU_EXC, 20, 20, .rc, 0, false⟩
def ARU_EXC_invalid_cast : Fld := ⟨.ARU_EXC, 40, 20, .rc, 0, false⟩
-- ARU_NULLED: Table 04-16 (04_expressions)
def ARU_NULLED_rows : Fld := ⟨.ARU_NULLED, 0, 40, .rc, 0, false⟩
-- HSH_ROWS: Table 05-10 (05_join_aggregate)
def HSH_ROWS_rows : Fld := ⟨.HSH_ROWS, 0, 40, .rc, 0, false⟩
def HSH_ROWS_core_rows : Fld := ⟨.HSH_ROWS, 40, 24, .rc, 0, false⟩
-- JNU_CTL: Table 05-11 (05_join_aggregate)
def JNU_CTL_spill_en : Fld := ⟨.JNU_CTL, 0, 1, .rwl, 0, true⟩
def JNU_CTL_max_level : Fld := ⟨.JNU_CTL, 1, 3, .rwl, 0, true⟩
-- JNU_STAT: Table 05-12 (05_join_aggregate)
def JNU_STAT_built : Fld := ⟨.JNU_STAT, 0, 32, .rc, 0, false⟩
def JNU_STAT_probed : Fld := ⟨.JNU_STAT, 32, 32, .rc, 0, false⟩
-- JNU_SPILL: Table 05-13 (05_join_aggregate)
def JNU_SPILL_written : Fld := ⟨.JNU_SPILL, 0, 24, .rc, 0, false⟩
def JNU_SPILL_read : Fld := ⟨.JNU_SPILL, 24, 24, .rc, 0, false⟩
def JNU_SPILL_deepest : Fld := ⟨.JNU_SPILL, 48, 8, .ro, 0, false⟩
-- JNU_ERRLOG: Table 05-14 (05_join_aggregate)
def JNU_ERRLOG_page_da : Fld := ⟨.JNU_ERRLOG, 0, 46, .ro, 0, false⟩
def JNU_ERRLOG_poisoned : Fld := ⟨.JNU_ERRLOG, 46, 1, .ro, 0, false⟩
def JNU_ERRLOG_camp : Fld := ⟨.JNU_ERRLOG, 47, 10, .ro, 0, false⟩
def JNU_ERRLOG_valid : Fld := ⟨.JNU_ERRLOG, 63, 1, .w1c, 0, false⟩
-- AGU_STAT: Table 05-15 (05_join_aggregate)
def AGU_STAT_rows : Fld := ⟨.AGU_STAT, 0, 32, .rc, 0, false⟩
def AGU_STAT_merges : Fld := ⟨.AGU_STAT, 32, 32, .rc, 0, false⟩
-- AGU_ERRLOG: Table 05-16 (05_join_aggregate)
def AGU_ERRLOG_slot : Fld := ⟨.AGU_ERRLOG, 0, 4, .ro, 0, false⟩
def AGU_ERRLOG_binary : Fld := ⟨.AGU_ERRLOG, 4, 1, .ro, 0, false⟩
def AGU_ERRLOG_finalise : Fld := ⟨.AGU_ERRLOG, 5, 1, .ro, 0, false⟩
def AGU_ERRLOG_camp : Fld := ⟨.AGU_ERRLOG, 6, 10, .ro, 0, false⟩
def AGU_ERRLOG_task_tag : Fld := ⟨.AGU_ERRLOG, 16, 16, .ro, 0, false⟩
def AGU_ERRLOG_epoch : Fld := ⟨.AGU_ERRLOG, 32, 4, .ro, 0, false⟩
def AGU_ERRLOG_valid : Fld := ⟨.AGU_ERRLOG, 63, 1, .w1c, 0, false⟩
-- SRT_STAT: Table 06-6 (06_sort_exchange)
def SRT_STAT_runs : Fld := ⟨.SRT_STAT, 0, 32, .rc, 0, false⟩
def SRT_STAT_merged : Fld := ⟨.SRT_STAT, 32, 32, .rc, 0, false⟩
-- SRT_ERRLOG: Table 06-7 (06_sort_exchange)
def SRT_ERRLOG_page_da : Fld := ⟨.SRT_ERRLOG, 0, 46, .ro, 0, false⟩
def SRT_ERRLOG_poisoned : Fld := ⟨.SRT_ERRLOG, 46, 1, .ro, 0, false⟩
def SRT_ERRLOG_camp : Fld := ⟨.SRT_ERRLOG, 47, 10, .ro, 0, false⟩
def SRT_ERRLOG_valid : Fld := ⟨.SRT_ERRLOG, 63, 1, .w1c, 0, false⟩
-- XCH_CTL: Table 06-8 (06_sort_exchange)
def XCH_CTL_max_window : Fld := ⟨.XCH_CTL, 0, 7, .rwl, 0, true⟩
def XCH_CTL_flush_ticks : Fld := ⟨.XCH_CTL, 7, 16, .rwl, 0, true⟩
-- XCH_STAT: Table 06-9 (06_sort_exchange)
def XCH_STAT_sent : Fld := ⟨.XCH_STAT, 0, 32, .rc, 0, false⟩
def XCH_STAT_received : Fld := ⟨.XCH_STAT, 32, 32, .rc, 0, false⟩
-- XCH_STALL: Table 06-10 (06_sort_exchange)
def XCH_STALL_parked : Fld := ⟨.XCH_STALL, 0, 32, .rc, 0, false⟩
def XCH_STALL_withheld : Fld := ⟨.XCH_STALL, 32, 32, .rc, 0, false⟩
-- ULR_CORE_CTL: Table 14-15 (14_uliar)
def ULR_CORE_CTL_enable : Fld := ⟨.ULR_CORE_CTL, 0, 1, .rwl, 0, true⟩
def ULR_CORE_CTL_svc_slots : Fld := ⟨.ULR_CORE_CTL, 32, 32, .rwl, 0, true⟩
-- ULR_RSBASE: Table 14-16 (14_uliar)
def ULR_RSBASE_base : Fld := ⟨.ULR_RSBASE, 0, 46, .rwl, 0, true⟩
-- ULR_STAT: Table 14-17 (14_uliar)
def ULR_STAT_retired : Fld := ⟨.ULR_STAT, 0, 32, .rc, 0, false⟩
def ULR_STAT_exceptions : Fld := ⟨.ULR_STAT, 32, 16, .rc, 0, false⟩
def ULR_STAT_requests : Fld := ⟨.ULR_STAT, 48, 16, .rc, 0, false⟩
-- ULR_FAULTLOG: Table 14-18 (14_uliar)
def ULR_FAULTLOG_cause : Fld := ⟨.ULR_FAULTLOG, 0, 6, .ro, 0, false⟩
def ULR_FAULTLOG_slot : Fld := ⟨.ULR_FAULTLOG, 6, 5, .ro, 0, false⟩
def ULR_FAULTLOG_epc : Fld := ⟨.ULR_FAULTLOG, 11, 36, .ro, 0, false⟩
def ULR_FAULTLOG_epc_half : Fld := ⟨.ULR_FAULTLOG, 47, 1, .ro, 0, false⟩
def ULR_FAULTLOG_valid : Fld := ⟨.ULR_FAULTLOG, 63, 1, .w1c, 0, false⟩
-- SBI_CTL: Table 16-17 (16_modes_errors)
def SBI_CTL_static_addr : Fld := ⟨.SBI_CTL, 0, 7, .rwl, 0, true⟩
def SBI_CTL_alert_fatal : Fld := ⟨.SBI_CTL, 7, 1, .rwl, 0, true⟩
def SBI_CTL_alert_camp : Fld := ⟨.SBI_CTL, 8, 1, .rwl, 0, true⟩
def SBI_CTL_alert_thermal : Fld := ⟨.SBI_CTL, 9, 1, .rwl, 0, true⟩
-- SBI_STAT: Table 16-18 (16_modes_errors)
def SBI_STAT_requests : Fld := ⟨.SBI_STAT, 0, 32, .rc, 0, false⟩
def SBI_STAT_errors : Fld := ⟨.SBI_STAT, 32, 16, .rc, 0, false⟩
def SBI_STAT_alert : Fld := ⟨.SBI_STAT, 48, 1, .w1c, 0, false⟩
-- TIM_DEVTIME: Table 18-6 (18_register_map)
def TIM_DEVTIME_devtime : Fld := ⟨.TIM_DEVTIME, 0, 64, .ro, 0, false⟩
-- ERR_CTL: Table 16-12 (16_modes_errors)
def ERR_CTL_viol_limit : Fld := ⟨.ERR_CTL, 0, 4, .rwl, 3, true⟩
-- ERR_STATUS: Table 16-13 (16_modes_errors)
def ERR_STATUS_entries : Fld := ⟨.ERR_STATUS, 0, 11, .ro, 0, false⟩
def ERR_STATUS_lost : Fld := ⟨.ERR_STATUS, 11, 16, .rc, 0, false⟩
def ERR_STATUS_halted : Fld := ⟨.ERR_STATUS, 27, 1, .ro, 0, false⟩
-- ERR_COUNT: Table 16-14 (16_modes_errors)
def ERR_COUNT_count : Fld := ⟨.ERR_COUNT, 0, 48, .rc, 0, false⟩
-- ERR_HALT: Table 16-15 (16_modes_errors)
def ERR_HALT_cause : Fld := ⟨.ERR_HALT, 0, 4, .ro, 0, false⟩
def ERR_HALT_unit : Fld := ⟨.ERR_HALT, 4, 8, .ro, 0, false⟩
def ERR_HALT_instance : Fld := ⟨.ERR_HALT, 12, 16, .ro, 0, false⟩
def ERR_HALT_seq : Fld := ⟨.ERR_HALT, 28, 32, .ro, 0, false⟩
def ERR_HALT_valid : Fld := ⟨.ERR_HALT, 63, 1, .ro, 0, false⟩
-- ERR_CAMP: Table 16-16 (16_modes_errors)
def ERR_CAMP_violations : Fld := ⟨.ERR_CAMP, 0, 4, .ro, 0, false⟩
def ERR_CAMP_cause : Fld := ⟨.ERR_CAMP, 4, 2, .ro, 0, false⟩

end Fld

/-- The fields of a register; bits of no field are RZ. -/
def Reg.fields : Reg → List Fld
  | .HIF_STATUS => [.HIF_STATUS_mode, .HIF_STATUS_ready, .HIF_STATUS_reset_busy]
  | .HIF_CTL => [.HIF_CTL_enable]
  | .HIF_ASQ => [.HIF_ASQ_size_m1, .HIF_ASQ_base]
  | .HIF_ACQ => [.HIF_ACQ_size_m1, .HIF_ACQ_base]
  | .HIF_LINK => [.HIF_LINK_gen, .HIF_LINK_width, .HIF_LINK_flit, .HIF_LINK_vc1, .HIF_LINK_tag14, .HIF_LINK_ats, .HIF_LINK_ide_streams, .HIF_LINK_link_downs]
  | .HIF_PTM => [.HIF_PTM_enable, .HIF_PTM_interval_ms, .HIF_PTM_stepped, .HIF_PTM_offset]
  | .HIF_RETAIN => [.HIF_RETAIN_capacity, .HIF_RETAIN_used, .HIF_RETAIN_lost]
  | .HIF_ATTACH => [.HIF_ATTACH_function, .HIF_ATTACH_attached, .HIF_ATTACH_streak, .HIF_ATTACH_denied]
  | .QUE_STAT => [.QUE_STAT_fetched, .QUE_STAT_cq_full]
  | .QUE_DBERR => [.QUE_DBERR_qid, .QUE_DBERR_kind, .QUE_DBERR_count, .QUE_DBERR_valid]
  | .CPM_PERIOD => [.CPM_PERIOD_period_us]
  | .CPM_STATE => [.CPM_STATE_kind, .CPM_STATE_state, .CPM_STATE_prio_ceiling, .CPM_STATE_mse_allot, .CPM_STATE_exhausted, .CPM_STATE_urgent_reserve, .CPM_STATE_trace_bucket]
  | .CPM_RATION => [.CPM_RATION_amount]
  | .CPM_REMAIN => [.CPM_REMAIN_remain]
  | .CPM_TRACE => [.CPM_TRACE_base, .CPM_TRACE_size_log2]
  | .DPT_CTL => [.DPT_CTL_trace_en, .DPT_CTL_urgent_level, .DPT_CTL_urgent_floor, .DPT_CTL_xdie_wait, .DPT_CTL_quantum, .DPT_CTL_fence_cap]
  | .DPT_STALE_TOKENS => [.DPT_STALE_TOKENS_count]
  | .DPT_TRACE => [.DPT_TRACE_base, .DPT_TRACE_size_log2]
  | .PWR_CTL => [.PWR_CTL_f_eff, .PWR_CTL_freeze_idle, .PWR_CTL_thaw_wait, .PWR_CTL_cold_after, .PWR_CTL_min_warm]
  | .PWR_LIMIT => [.PWR_LIMIT_sustained, .PWR_LIMIT_bmc_cap, .PWR_LIMIT_effective]
  | .PWR_THAW => [.PWR_THAW_retained_nj, .PWR_THAW_cold_nj]
  | .PWR_CLUSTER => [.PWR_CLUSTER_pstate, .PWR_CLUSTER_f_step, .PWR_CLUSTER_throttled, .PWR_CLUSTER_prochot, .PWR_CLUSTER_thaws, .PWR_CLUSTER_freezes]
  | .PWR_BUCKET => [.PWR_BUCKET_level, .PWR_BUCKET_cap]
  | .PWR_EST => [.PWR_EST_estimate]
  | .PWR_AVS => [.PWR_AVS_vreq, .PWR_AVS_vread, .PWR_AVS_timeouts]
  | .THM_CTL => [.THM_CTL_t_throttle, .THM_CTL_hot_stop]
  | .THM_CLUSTER => [.THM_CLUSTER_t_max, .THM_CLUSTER_valid, .THM_CLUSTER_throttle_events, .THM_CLUSTER_sensor_faults]
  | .CCH_WAYMASK => [.CCH_WAYMASK_ways]
  | .CCH_CAMPCLASS => [.CCH_CAMPCLASS_class]
  | .CCH_MAINT => [.CCH_MAINT_da, .CCH_MAINT_op, .CCH_MAINT_all_clusters, .CCH_MAINT_busy]
  | .CCH_MAINT_LEN => [.CCH_MAINT_LEN_lines, .CCH_MAINT_LEN_rejected]
  | .CCH_STAT => [.CCH_STAT_hits, .CCH_STAT_misses, .CCH_STAT_evb_stalls]
  | .CCH_PARITY => [.CCH_PARITY_corrected, .CCH_PARITY_data_loss, .CCH_PARITY_scratch_corrected]
  | .CCH_ERRLOG => [.CCH_ERRLOG_da, .CCH_ERRLOG_kind, .CCH_ERRLOG_exec, .CCH_ERRLOG_valid]
  | .XLT_ROOT => [.XLT_ROOT_base, .XLT_ROOT_valid]
  | .XLT_INVAL => [.XLT_INVAL_camp, .XLT_INVAL_all_camps, .XLT_INVAL_go, .XLT_INVAL_busy, .XLT_INVAL_start, .XLT_INVAL_units]
  | .XLT_FAULT => [.XLT_FAULT_view_da, .XLT_FAULT_kind, .XLT_FAULT_camp, .XLT_FAULT_valid]
  | .XLT_STAT => [.XLT_STAT_hits, .XLT_STAT_walks]
  | .NMC_CTL => [.NMC_CTL_scrub_hours]
  | .NMC_STAT => [.NMC_STAT_corrected, .NMC_STAT_uncorrected, .NMC_STAT_lanes_repaired, .NMC_STAT_trained]
  | .NMC_ERRLOG => [.NMC_ERRLOG_da, .NMC_ERRLOG_scrub, .NMC_ERRLOG_valid]
  | .FMC_CFG => [.FMC_CFG_dimms, .FMC_CFG_dimm_size, .FMC_CFG_speed, .FMC_CFG_disabled]
  | .FMC_CTL => [.FMC_CTL_scrub_hours]
  | .FMC_DIMM => [.FMC_DIMM_present, .FMC_DIMM_trained, .FMC_DIMM_size, .FMC_DIMM_ranks, .FMC_DIMM_height, .FMC_DIMM_max_speed]
  | .FMC_STAT => [.FMC_STAT_corrected, .FMC_STAT_uncorrected]
  | .FMC_ERRLOG => [.FMC_ERRLOG_da, .FMC_ERRLOG_slot, .FMC_ERRLOG_rank, .FMC_ERRLOG_device, .FMC_ERRLOG_scrub, .FMC_ERRLOG_valid]
  | .DMA_RING => [.DMA_RING_base, .DMA_RING_size_log2, .DMA_RING_camp, .DMA_RING_enable]
  | .DMA_POST => [.DMA_POST_posted]
  | .DMA_MARKS => [.DMA_MARKS_start_mark, .DMA_MARKS_stop_mark, .DMA_MARKS_idle_ticks]
  | .DMA_CHCTL => [.DMA_CHCTL_resume, .DMA_CHCTL_reset]
  | .DMA_CHSTAT => [.DMA_CHSTAT_taken, .DMA_CHSTAT_lap, .DMA_CHSTAT_halted, .DMA_CHSTAT_active, .DMA_CHSTAT_post_err]
  | .DMA_BUSERR => [.DMA_BUSERR_channel, .DMA_BUSERR_dir, .DMA_BUSERR_flush, .DMA_BUSERR_kind, .DMA_BUSERR_valid]
  | .DMA_BUSERR_ADDR => [.DMA_BUSERR_ADDR_addr]
  | .EVR_SRC => [.EVR_SRC_priority, .EVR_SRC_target, .EVR_SRC_mask, .EVR_SRC_in_service, .EVR_SRC_pending, .EVR_SRC_camp, .EVR_SRC_merged]
  | .EVR_VEC => [.EVR_VEC_handler]
  | .EVR_HOLDOFF => [.EVR_HOLDOFF_ticks, .EVR_HOLDOFF_active]
  | .EVR_PEND => [.EVR_PEND_pending]
  | .EVR_CORE => [.EVR_CORE_mode, .EVR_CORE_request]
  | .EVR_CLAIM => [.EVR_CLAIM_source, .EVR_CLAIM_priority, .EVR_CLAIM_valid]
  | .EVR_DONE => [.EVR_DONE_source]
  | .MAT_CTL => [.MAT_CTL_aut_states, .MAT_CTL_scrub_en]
  | .MAT_SEG => [.MAT_SEG_base, .MAT_SEG_size, .MAT_SEG_wide, .MAT_SEG_camp, .MAT_SEG_valid]
  | .MAT_STAT => [.MAT_STAT_searches, .MAT_STAT_steps, .MAT_STAT_corrected]
  | .MAT_AUT => [.MAT_AUT_runs, .MAT_AUT_bytes]
  | .MAT_DICT => [.MAT_DICT_inserts, .MAT_DICT_splits]
  | .MAT_ERRLOG => [.MAT_ERRLOG_index, .MAT_ERRLOG_kind, .MAT_ERRLOG_camp, .MAT_ERRLOG_valid]
  | .MAT_SEARCH => [.MAT_SEARCH_searches]
  | .DGE_ALLOC => [.DGE_ALLOC_context, .DGE_ALLOC_valid]
  | .DGE_CTL => [.DGE_CTL_alg, .DGE_CTL_hmac, .DGE_CTL_slot, .DGE_CTL_dest, .DGE_CTL_camp, .DGE_CTL_event, .DGE_CTL_op]
  | .DGE_FEED => [.DGE_FEED_da, .DGE_FEED_bytes]
  | .DGE_DEST => [.DGE_DEST_da]
  | .DGE_STAT => [.DGE_STAT_state, .DGE_STAT_outcome, .DGE_STAT_feed_err, .DGE_STAT_feeds_queued, .DGE_STAT_msgs, .DGE_STAT_err]
  | .DGE_RESULT => [.DGE_RESULT_bytes]
  | .DGE_EXPECT => [.DGE_EXPECT_bytes]
  | .DGE_KEYSTAT => [.DGE_KEYSTAT_loaded, .DGE_KEYSTAT_camp, .DGE_KEYSTAT_key_len]
  | .DGE_ENGSTAT => [.DGE_ENGSTAT_blocks, .DGE_ENGSTAT_busy, .DGE_ENGSTAT_mismatches]
  | .BOT_STATUS => [.BOT_STATUS_step, .BOT_STATUS_image, .BOT_STATUS_strap_boot, .BOT_STATUS_fallback, .BOT_STATUS_locked, .BOT_STATUS_sealed, .BOT_STATUS_halt_cause]
  | .BOT_SVN => [.BOT_SVN_fuse_min, .BOT_SVN_running_svn]
  | .BOT_NONCE => [.BOT_NONCE_nonce]
  | .BOT_AUTHSEQ => [.BOT_AUTHSEQ_seq]
  | .BOT_EVENTS => [.BOT_EVENTS_maint, .BOT_EVENTS_jtag, .BOT_EVENTS_uart, .BOT_EVENTS_svn_raised, .BOT_EVENTS_strap_dbg]
  | .BOT_CAIRN => [.BOT_CAIRN_entries, .BOT_CAIRN_bytes]
  | .SCN_CTL => [.SCN_CTL_zone_en, .SCN_CTL_hdr_prefetch]
  | .SCN_BLOCKS => [.SCN_BLOCKS_scanned, .SCN_BLOCKS_skipped]
  | .SCN_PLANES => [.SCN_PLANES_fetched, .SCN_PLANES_not_fetched]
  | .SCN_ERRLOG => [.SCN_ERRLOG_block_da, .SCN_ERRLOG_cond, .SCN_ERRLOG_camp, .SCN_ERRLOG_valid]
  | .SCN_DROP_BLK => [.SCN_DROP_BLK_crc_fail, .SCN_DROP_BLK_malformed, .SCN_DROP_BLK_poisoned]
  | .SCN_DROP_ROWS => [.SCN_DROP_ROWS_batch_rows, .SCN_DROP_ROWS_heap_rows]
  | .FLT_CTL => [.FLT_CTL_inlist_lanes]
  | .FLT_ROWS => [.FLT_ROWS_rows_in, .FLT_ROWS_rows_selected]
  | .FLT_HEAP => [.FLT_HEAP_compares, .FLT_HEAP_failures]
  | .ARU_STRIPS => [.ARU_STRIPS_tasks, .ARU_STRIPS_row_groups]
  | .ARU_EXCLOG => [.ARU_EXCLOG_op_index, .ARU_EXCLOG_row, .ARU_EXCLOG_kind, .ARU_EXCLOG_camp, .ARU_EXCLOG_task_tag, .ARU_EXCLOG_epoch, .ARU_EXCLOG_valid]
  | .ARU_EXC => [.ARU_EXC_overflow, .ARU_EXC_div_zero, .ARU_EXC_invalid_cast]
  | .ARU_NULLED => [.ARU_NULLED_rows]
  | .HSH_ROWS => [.HSH_ROWS_rows, .HSH_ROWS_core_rows]
  | .JNU_CTL => [.JNU_CTL_spill_en, .JNU_CTL_max_level]
  | .JNU_STAT => [.JNU_STAT_built, .JNU_STAT_probed]
  | .JNU_SPILL => [.JNU_SPILL_written, .JNU_SPILL_read, .JNU_SPILL_deepest]
  | .JNU_ERRLOG => [.JNU_ERRLOG_page_da, .JNU_ERRLOG_poisoned, .JNU_ERRLOG_camp, .JNU_ERRLOG_valid]
  | .AGU_STAT => [.AGU_STAT_rows, .AGU_STAT_merges]
  | .AGU_ERRLOG => [.AGU_ERRLOG_slot, .AGU_ERRLOG_binary, .AGU_ERRLOG_finalise, .AGU_ERRLOG_camp, .AGU_ERRLOG_task_tag, .AGU_ERRLOG_epoch, .AGU_ERRLOG_valid]
  | .SRT_STAT => [.SRT_STAT_runs, .SRT_STAT_merged]
  | .SRT_ERRLOG => [.SRT_ERRLOG_page_da, .SRT_ERRLOG_poisoned, .SRT_ERRLOG_camp, .SRT_ERRLOG_valid]
  | .XCH_CTL => [.XCH_CTL_max_window, .XCH_CTL_flush_ticks]
  | .XCH_STAT => [.XCH_STAT_sent, .XCH_STAT_received]
  | .XCH_STALL => [.XCH_STALL_parked, .XCH_STALL_withheld]
  | .ULR_CORE_CTL => [.ULR_CORE_CTL_enable, .ULR_CORE_CTL_svc_slots]
  | .ULR_RSBASE => [.ULR_RSBASE_base]
  | .ULR_STAT => [.ULR_STAT_retired, .ULR_STAT_exceptions, .ULR_STAT_requests]
  | .ULR_FAULTLOG => [.ULR_FAULTLOG_cause, .ULR_FAULTLOG_slot, .ULR_FAULTLOG_epc, .ULR_FAULTLOG_epc_half, .ULR_FAULTLOG_valid]
  | .SBI_CTL => [.SBI_CTL_static_addr, .SBI_CTL_alert_fatal, .SBI_CTL_alert_camp, .SBI_CTL_alert_thermal]
  | .SBI_STAT => [.SBI_STAT_requests, .SBI_STAT_errors, .SBI_STAT_alert]
  | .TIM_DEVTIME => [.TIM_DEVTIME_devtime]
  | .ERR_CTL => [.ERR_CTL_viol_limit]
  | .ERR_STATUS => [.ERR_STATUS_entries, .ERR_STATUS_lost, .ERR_STATUS_halted]
  | .ERR_COUNT => [.ERR_COUNT_count]
  | .ERR_HALT => [.ERR_HALT_cause, .ERR_HALT_unit, .ERR_HALT_instance, .ERR_HALT_seq, .ERR_HALT_valid]
  | .ERR_CAMP => [.ERR_CAMP_violations, .ERR_CAMP_cause]

/-- The value of a register after RESET_N: every field at its Reset value. -/
def Reg.resetVal (r : Reg) : BitVec 64 :=
  BitVec.ofNat 64 (r.fields.foldl (fun a f => a + f.reset * 2 ^ f.lo) 0)

/-- Key of index `i` of a register in the register file: its DA's offset in the region, in 16-digit units (R527). -/
def Reg.key (r : Reg) (i : Nat) : Nat := r.block * 0x100000 + r.num * 0x4000 + i

/-- The physical DA of index `i` of a register (R527). -/
def Reg.da (r : Reg) (i : Nat) : Nat := 0x3F0000000000 + 16 * r.key i

/-- The register and index at a key; none where the key names no register or a hole (R527). -/
def regOfKey (k : Nat) : Option (Reg × Nat) :=
  match Reg.all.find? (fun r => r.block * 0x40 + r.num == k / 0x4000) with
  | some r => if r.form.holds (k % 0x4000) then some (r, k % 0x4000) else none
  | none => none

/-- The register file: the registers that differ from their reset value, by key. -/
abbrev RegFile := Map (BitVec 64)

/-- The stored value of index `i` of a register. -/
def RegFile.raw (m : RegFile) (r : Reg) (i : Nat) : BitVec 64 := mgetD r.resetVal (r.key i) m

/-- Store a whole value. -/
def RegFile.setRaw (m : RegFile) (r : Reg) (i : Nat) (v : BitVec 64) : RegFile := mputD r.resetVal (r.key i) v m

/-- Read a field of index `i`. -/
def RegFile.get (m : RegFile) (f : Fld) (i : Nat) : Nat := (m.raw f.reg i).toNat / 2 ^ f.lo % 2 ^ f.w

/-- The value `old` with the field replaced by `v` modulo the field's width. -/
def Fld.place (f : Fld) (old : BitVec 64) (v : Nat) : BitVec 64 :=
  BitVec.ofNat 64 (old.toNat - old.toNat / 2 ^ f.lo % 2 ^ f.w * 2 ^ f.lo + v % 2 ^ f.w * 2 ^ f.lo)

/-- Write a field of index `i`. -/
def RegFile.set (m : RegFile) (f : Fld) (i v : Nat) : RegFile := m.setRaw f.reg i (f.place (m.raw f.reg i) v)

/-- Add to a counter field, saturating at all ones (R315, R344, R399, R506 and their like). -/
def RegFile.add (m : RegFile) (f : Fld) (i n : Nat) : RegFile := m.set f i (satAdd f.w (m.get f i) n)

/-- Bits of the access that a field has inside a mask. -/
def Fld.mask (f : Fld) (m : BitVec 64) : BitVec 64 := m &&& (BitVec.ofNat 64 ((2 ^ f.w - 1) * 2 ^ f.lo))

/-- What a software write of `v` under the byte mask `m` leaves of the stored value `old`, by access code (R8): RWL fields
move only while the boot lock is open; W1C bits clear; W1S bits set; RO, RC, WO and RZ keep what is stored. -/
def swWriteVal (locked : Bool) (fs : List Fld) (m v old : BitVec 64) : BitVec 64 :=
  fs.foldl (fun a f =>
    let b := f.mask m
    match f.acc with
    | .rw => (a &&& ~~~b) ||| (v &&& b)
    | .rwl => if locked then a else (a &&& ~~~b) ||| (v &&& b)
    | .w1c => a &&& ~~~(v &&& b)
    | .w1s => a ||| (v &&& b)
    | .ro | .rc | .wo | .rz => a) old

/-- What a software read under the mask returns (R8): WO and RZ read 0. -/
def swReadVal (fs : List Fld) (m old : BitVec 64) : BitVec 64 :=
  fs.foldl (fun a f => match f.acc with
    | .wo | .rz => a
    | .ro | .rw | .rwl | .w1c | .w1s | .rc => a ||| (old &&& f.mask m)) 0

/-- What a clearing read under the mask leaves (R8, R531): an RC field that the read covers whole becomes 0. -/
def rcClearVal (fs : List Fld) (m old : BitVec 64) : BitVec 64 :=
  fs.foldl (fun a f => match f.acc with
    | .rc => if f.mask m = f.mask (BitVec.allOnes 64) then a &&& ~~~(f.mask m) else a
    | .ro | .rw | .rwl | .w1c | .w1s | .wo | .rz => a) old

end Sys2Proof.Machine
end

