-- ==== Sys2Proof/Machine/TypesPlan.lean ====
section
/-! DEFINITION. Plan images as checked and kept by firmware (Plans, Pipelines and Services; Expression Strips; Match Unit automata). -/

namespace Sys2Proof.Machine

/-- A fragment entry (Table 08-4). `kinds` holds the kind code of each slot. -/
structure Frag where
  first : Nat
  count : Nat
  pipeline : Nat
  prio : Nat
  onFence : Bool
  kinds : List Nat
  taskClass : Nat
  deriving DecidableEq, Repr

/-- An edge entry (Table 08-8). Source 0xFFF is EXECUTE. -/
structure Edge where
  src : Nat
  dst : Nat
  slot : Nat
  kind : Nat
  fence : Nat
  param : Nat
  deriving DecidableEq, Repr

/-- A constant-pool entry (Table 08-9). -/
structure Const where
  ty : ColType
  lit : Lit
  deriving DecidableEq, Repr

/-- A parameter slot (Table 08-10). -/
structure Param where
  ty : ColType
  nullable : Bool
  table : Bool
  maxLen : Nat
  deriving DecidableEq, Repr

/-- An output entry of an operator (R215): a produced column or an input column. -/
structure OutRef where
  produced : Bool
  idx : Nat
  deriving DecidableEq, Repr

/-- A filter term (Table 08-7). -/
structure FTerm where
  op : Nat
  loIncl : Bool
  hiIncl : Bool
  colcol : Bool
  param : Bool
  col : Nat
  col2 : Nat
  first : Nat
  count : Nat
  deriving DecidableEq, Repr

/-- An aggregate function: its code, input reference, rounding mode and declared result. -/
structure AggFn where
  fn : Nat
  input : Nat
  mode : Nat
  res : ColType
  deriving DecidableEq, Repr

/-- The body of an operator (Table 08-6). -/
inductive OpBody where
  | scan (param : Nat) (cols : List Nat)
  | filter (terms : List FTerm) (steps : List Nat)
  | compute (off len : Nat)
  | hash
  | joinBuild (id kind : Nat) (broadcast : Bool) (keys estimate budget : Nat)
  | joinProbe (id kind : Nat)
  | aggregate (keys : Nat) (final : Bool) (budget : Nat) (fns : List AggFn)
  | sort (keys flags limit budget : Nat)
  | exchange (mode : Nat) (tiles carry : Bool) (window sortKeys flags : Nat) (dests : List Nat) (splits : List Digits)
  | matchOp (fn dict first count : Nat)
  | result (cols : List (Nat × Bool))
  | tableWrite (param : Nat) (replace drop : Bool) (encs : List Nat)
  deriving DecidableEq, Repr

/-- An operator: its input references, output entries and body. -/
structure PlanOp where
  ins : List Nat
  outs : List OutRef
  body : OpBody
  deriving DecidableEq, Repr

/-- A checked plan image. -/
structure Plan where
  pipelines : Nat
  ordered : Bool
  frags : List Frag
  ops : List PlanOp
  edges : List Edge
  consts : List Const
  params : List Param
  blob : Bytes
  deriving DecidableEq, Repr

/-- A slot of plan handles: its current generation and the loaded plan, with its Camp, the DA and 64 KiB units of its checked copy, and whether that copy
was found poisoned (R208, R221, Table 10-9). -/
structure PlanSlot where
  gen : Nat
  camp : Nat
  da : Nat
  units : Nat
  damaged : Bool
  plan : Option Plan
  deriving DecidableEq, Repr

/-! ### Expression strips (Tables 04-1 to 04-4) -/

/-- An operation word (Table 04-3). -/
structure StripOp where
  code : Nat
  noe : Bool
  dst : Nat
  a : Nat
  b : Nat
  deriving DecidableEq, Repr

/-- An expression strip. `consts` are constant-pool indices and `params` parameter slots. -/
structure Strip where
  temps : List ColType
  outs : List ColType
  inCount : Nat
  consts : List Nat
  params : List Nat
  ops : List StripOp
  deriving DecidableEq, Repr

/-! ### Automata (Table 07-4) -/

/-- A state of an automaton: its accept entries (pattern, at_end) in list order, whether it is dead, and its transitions by class. -/
structure AutState where
  accepts : List (Nat × Bool)
  dead : Bool
  next : List Nat
  deriving DecidableEq, Repr

/-- An automaton. -/
structure Automaton where
  classMap : List Nat
  states : List AutState
  deriving DecidableEq, Repr

/-- What a parameter slot is bound to (R224): a value, or a table handle. -/
inductive Bound where
  | value (v : Lit)
  | table (handle : Nat)
  deriving DecidableEq, Repr

end Sys2Proof.Machine
end

