-- ==== Sys2Proof/Machine/TypesExec.lean ====
section
/-! DEFINITION. Executions and what their tasks hold, standing queries, services and retained records (chapters 02 to 09). -/

namespace Sys2Proof.Machine

/-- Who started an execution (R236): a command, a standing run, or a service invocation by a Uliar thread, with the address and capacity its result goes to
(R441; address 0: a retained record). -/
inductive Starter where
  | command (uid : Nat)
  | standing (id run : Nat)
  | service (core slot addr cap : Nat)
  deriving DecidableEq, Repr

/-- Where a task must be placed (R169): anywhere, on one cluster, or on one tile. -/
inductive Where where
  | any
  | cluster (c : Nat)
  | tile (t : Nat)
  deriving DecidableEq, Repr

/-- What a token brings: a snapshot batch of a table slot, a delivered batch, the fences of an ON_FENCE task (with the destination of its exchange), a
final-phase task of an operator for one cluster table or sort destination (R214), or a thread's event. -/
inductive TokBody where
  | seed (param index : Nat)
  | batch (b : Batch)
  | fence (dest : Option Nat)
  | final (op k : Nat)
  | thread (core slot : Nat)
  deriving DecidableEq, Repr

/-- The credit a batch holds: exchange operator, source tile, destination index (R170). -/
structure Route where
  op : Nat
  src : Nat
  dest : Nat
  deriving DecidableEq, Repr

/-- A token between its producer and its entry (R256): its execution, fragment and die, the fragment that
emitted it, the near memory its staging area holds, whether it waits in the overflow queue, and, once its header has
allocated one, its entry's tag and epoch. -/
structure NetTok where
  exec : Nat
  frag : Nat
  die : Nat
  body : TokBody
  place : Where
  route : Option Route
  src : Option Nat
  units : Nat
  queued : Bool
  entry : Option (Nat × Nat)
  deriving DecidableEq, Repr

/-! ### Join, group and sort state -/

/-- A build record or a spilled probe row (Table 05-3): the salt-0 hash, stored key form, payload form and matched bit. -/
structure Rec where
  hash : Nat
  key : Digits
  pay : Digits
  matched : Bool
  deriving DecidableEq, Repr

/-- An accumulator of a group (R140): a count; a sum, none while no non-null value was seen; an average's sum and count; an extreme. -/
inductive AggAcc where
  | count (n : Nat)
  | sum (v : Option Int)
  | avg (v : Option Int) (n : Nat)
  | ext (v : Option ColVal)
  deriving DecidableEq, Repr

/-- A group entry (Table 05-8): hash, stored key form, row count and accumulators in function order. -/
structure GEntry where
  hash : Nat
  key : Digits
  rows : Nat
  accs : List AggAcc
  deriving DecidableEq, Repr

/-- A sort record (Table 06-2): form, string tails, origin and payload form. -/
structure SortRec where
  form : Digits
  tails : Digits
  seq : Nat
  row : Nat
  pay : Digits
  deriving DecidableEq, Repr

/-- The records of a spill or run page. -/
inductive PageBody where
  | recs (l : List Rec)
  | groups (l : List GEntry)
  | sorts (l : List SortRec)
  | bitmap (l : List Bool)
  deriving DecidableEq, Repr

/-- A 64 KiB page that an execution wrote (R136, R161): its DA, and its records. The bytes lie in device memory. -/
structure Page where
  da : Nat
  body : PageBody
  deriving DecidableEq, Repr

/-- The pages of one kind of a spilled partition (R136): those written, in order; the page being filled, opened at its first record; its records and
their bytes. -/
structure PageSet where
  full : List Page
  da : Option Nat
  body : PageBody
  image : Bytes
  deriving DecidableEq, Repr

/-- No pages. -/
def PageSet.none (b : PageBody) : PageSet := ⟨[], .none, b, []⟩

/-- A spilled partition (R133, R134, R146): its level and path, its build (or group) pages and its probe pages. -/
structure Part where
  level : Nat
  path : Nat
  build : PageSet
  probe : PageSet
  deriving DecidableEq, Repr

/-- A cluster's copy of a join table (R127 to R135): its level and path, 2^b buckets, chains by bucket in chain order, spilled partitions by digit, and whether
a build row with a null key or any build row was seen. -/
structure JoinTab where
  level : Nat
  path : Nat
  b : Nat
  chains : Map (List Rec)
  parts : List Part
  nullKey : Bool
  anyRow : Bool
  units : Nat
  deriving DecidableEq, Repr

/-- A cluster's group table (R142, R146): its level and path, its entries by hash order of creation, and spilled partitions. -/
structure GroupTab where
  level : Nat
  path : Nat
  entries : List GEntry
  parts : List Part
  units : Nat
  deriving DecidableEq, Repr

/-- A sort destination (R159, R161, R164): runs still to merge in the current pass, runs made by it, its pass number, the DAs of its run pages in near memory
within the budget, the output batches emitted, and whether all of them have been. -/
structure SortDest where
  runs : List (List Page)
  next : List (List Page)
  pass : Nat
  near : List Nat
  emitted : Nat
  finished : Bool
  deriving DecidableEq, Repr

/-- One (exchange, source tile, destination) of an Exchange port (R168 to R171): the batch being packed, the tick of its last row, batches sent so far, credits
taken, parked batches oldest first, and batches sent but not yet delivered. -/
structure Port where
  pack : List Column
  packRows : Nat
  packOrigin : List (Nat × Nat)
  lastTick : Nat
  n : Nat
  credits : Nat
  parked : List (Batch × Nat)
  flying : Nat
  deriving DecidableEq, Repr

/-- An empty port. -/
def Port.empty : Port := ⟨[], 0, [], 0, 0, 0, [], 0⟩

/-- How a fragment stands in an execution (R213, R214, R226): tokens and tasks not yet complete; batches sent along its batch edge and not yet delivered;
whether its input has closed; its final phase (1: spilled partitions of a probe, 2: of its last operator); whether its ports are flushed, it has
completed, and its COMPLETE fence has fired; the ON_FENCE tasks created, by destination; and the slots that have fired. -/
structure FragRun where
  live : Nat
  flying : Nat
  closed : Bool
  final : Nat
  flushed : Bool
  complete : Bool
  fired : Bool
  made : List Nat
  slots : List Nat
  deriving DecidableEq, Repr

/-- A fragment of which nothing has happened. -/
def FragRun.empty : FragRun := ⟨0, 0, false, 0, false, false, false, [], []⟩

/-- An execution context (R257). Maps: bindings, snapshots and frozen schemas by parameter slot; fragments; ports by (op * 128 + tile) * 128 + destination; batches
staged for ON_FENCE destinations, and end fences fired, by op * 128 + destination; join tables by join_id * 128 + copy,
and as a probe operator has changed them by (op + 1) * 32768 + copy (the copy of a PARTITIONED join is its cluster); group tables by op * 32 + cluster;
sort destinations by op * 128 + destination; gapped dictionaries by dict_id; batches held by ORDERED RESULT by destination * 2^25 + i (columns of values, and 64 KiB units held); batches
of each TABLE_WRITE by op. `nextOut` is the destination * 2^25 + i whose turn it is and `rowsOut` the rows delivered; `outs` holds result batches that wait for their dictionaries
(columns of values); `msgs` counts the messages of the result stream made, and `retained` holds those of a standing run or service execution. -/
structure Exec where
  camp : Nat
  plan : Nat
  by_ : Starter
  fn : Nat
  ring : Nat
  strict : Bool
  dropped : Nat
  failed : Option Nat
  cancelled : Bool
  done : Bool
  start : BitVec 64
  binds : Map Bound
  snaps : Map Table
  frags : Map FragRun
  ports : Map Port
  staged : Map (List Batch)
  ended : List Nat
  joins : Map JoinTab
  groups : Map GroupTab
  sorts : Map SortDest
  dicts : Map Nat
  segs : Map Nat
  auts : List (Nat × Nat)
  held : Map (List (List Lit) × Nat)
  nextOut : Nat
  rowsOut : Nat
  outs : List (List (List Lit))
  msgs : Nat
  retained : List Msg
  writes : Map (List Batch)
  nearUnits : Nat
  moraineUnits : Nat
  pages : List Nat
  deriving DecidableEq, Repr

/-! ### A task's work -/

/-- One column block of a SCAN task (R58): its DA, its checked header and plane check table, and the digits of the planes fetched, by plane in block order; the entries of its
dictionary once read. -/
structure ColScan where
  da : Nat
  need : Bool
  hdr : Option Hdr
  table : Option Bytes
  planes : Map Digits
  dict : Option (List ColVal)
  deriving DecidableEq, Repr

/-- A term on a DICT column reduced (R76, R534): code ranges both ends inclusive; a bitmap by code; the codes themselves, for two columns of one
sorted dictionary; or the entries in place of the codes. -/
inductive CodeSet where
  | ranges (l : List (Nat × Nat))
  | bitmap (l : List Bool)
  | direct
  | entries
  deriving DecidableEq, Repr

/-- A search in progress or decided for one row of a term: the ternary result word of a hit on a long string, to be confirmed (R188); the word of a candidate
that failed, to STEP from; or what was found: an index, payload or nothing. -/
inductive Search where
  | cand (word : Nat)
  | step (word : Nat)
  | hit (index : Nat)
  | miss
  | dropped
  deriving DecidableEq, Repr

/-- What a task works on between its placement and its completion: where it runs and since when, its token, the rows of its SCAN batch and its columns, the
batches still to process (each with the operator, within the fragment, that takes it next; the first is in hand), and for the operator in hand what other
units answered (code sets by 2 * term + side, heap compares, searches by term * 4096 + row), the position reached, produced columns, string casts (by operation *
4096 + row), groups folded, output rows of a probe (probe row and matched record) and batches collected; the partial entry of a keyless aggregate with the seq it
takes (R535), the probe-match marks of a chunked join and the pages of their bitmap (R135), the output batches numbered so far; then the batches ready to send, whether a final phase is still to run, and how the task ended. -/
structure Work where
  exec : Nat
  frag : Nat
  camp : Nat
  tile : Nat
  started : Nat
  body : TokBody
  route : Option Route
  rows : Nat
  cols : List ColScan
  todo : List (Nat × Batch)
  codes : Map CodeSet
  heap : Map Ordering
  search : Map Search
  pos : Nat
  made : List Column
  casts : Map (Option (Int × Nat))
  folded : List GEntry
  pairs : List (Nat × Option Rec)
  acc : List Batch
  partly : Option (Nat × GEntry)
  marks : List Bool
  maps : List Nat
  emitted : Nat
  out : List Batch
  hold : Bool
  done : Bool
  failed : Option Nat
  deriving DecidableEq, Repr

/-! ### The Match Unit (chapter 07) -/

/-- A ternary entry (Table 07-1): value and care as 160-bit numbers. -/
structure TernEntry where
  value : Nat
  care : Nat
  valid : Bool
  longStr : Bool
  const : Nat
  deriving DecidableEq, Repr

/-- An entry of a gapped dictionary (Table 07-3): its 40-digit key, payload and, for a long string, its heap record's DA and length. -/
structure DictSlot where
  key : Digits
  payload : Nat
  len : Nat
  heap : Nat
  deriving DecidableEq, Repr

/-- A gapped dictionary (R191 to R195): its Camp, execution and home cluster, spans in key order with their used slots, and keys inserted so far. -/
structure GDict where
  camp : Nat
  exec : Nat
  home : Nat
  spans : List (Map DictSlot)
  inserted : Nat
  units : Nat
  deriving DecidableEq, Repr

/-! ### Records, standing queries, services -/

/-- A record of a Camp's retained-result store (R245, Table 12-8a). -/
structure Record where
  num : Nat
  source : Nat
  service : Bool
  run : Nat
  status : Nat
  start : BitVec 64
  stop : BitVec 64
  dropped : Nat
  skips : Nat
  lost : Nat
  stream : List Msg
  deriving DecidableEq, Repr

/-- A Camp's retained-result store (R245, R246): records oldest first, the next record number, runs lost in all, and lost since the last record. -/
structure Store where
  recs : List Record
  next : Nat
  lost : Nat
  lostSince : Nat
  deriving DecidableEq, Repr

/-- An empty store: record numbers start at 1 (R366). -/
def Store.empty : Store := ⟨[], 1, 0, 0⟩

/-- A standing query (R242): Camp, plan slot, bindings, schedule, run count left (none: unbounded), fault policy, the number of its next due time, due times
skipped since its last record, the execution of the run in progress, and whether STANDING_CLEAR stopped it. -/
structure Standing where
  camp : Nat
  plan : Nat
  binds : Map Bound
  start : Nat
  interval : Nat
  count : Option Nat
  strict : Bool
  next : Nat
  skips : Nat
  exec : Option Nat
  cleared : Bool
  deriving DecidableEq, Repr

/-- Everything plan commands manage: plan and table slots, standing queries by ID, and the number of the next execution of each service Camp. -/
structure PlanState where
  plans : Map PlanSlot
  tables : Map TableSlot
  standing : Map Standing
  deriving DecidableEq, Repr

/-- Everything tasks run on: tokens in the delivery network by number, overflow queues by (camp * 2 + die) * 2 + lane (0 others, 1 fence-bound), work by
die * 65536 + tag, the ternary store, gapped dictionaries, and automaton states in use in every cluster. -/
structure RunState where
  net : Map NetTok
  next : Nat
  overflow : Map (List Nat)
  works : Map Work
  tern : Map TernEntry
  dicts : Map GDict
  autUsed : Nat
  farAlt : Nat
  deriving DecidableEq, Repr

end Sys2Proof.Machine
end

