-- ==== Sys2Proof/Machine/TypesDispatch.lean ====
section
/-! DEFINITION. Camps, the matching store, ready lists and the governor's own bookkeeping (Dispatch, Rations and the
Energy Budget). -/

namespace Sys2Proof.Machine

/-- What firmware keeps of a Camp beyond its registers (Table 12-9, R253, R313): quotas, reservations and allotments in
the descriptor's units, what is in use (in 64 KiB units), the credential key, the extension index of an owner service
Camp, the CPM_STATE code to return to after MAINTENANCE (R254), the destroy commands waiting for the teardown, and the
number of the next retained record. -/
structure CampInfo where
  nearQuota : Nat
  farQuota : Nat
  moraine : Nat
  staging : Nat
  planAllot : Nat
  standingAllot : Nat
  segUnits : Nat
  autUnits : Nat
  nearUsed : Nat
  farUsed : Nat
  moraineUsed : Nat
  stagedBytes : Nat
  key : Bytes
  ext : Option Nat
  former : Nat
  deriving DecidableEq, Repr

/-- The Camp states of Table 09-1 as CPM_STATE.state codes them. -/
inductive CampState where
  | free | active | suspended | quarantined | teardown
  deriving DecidableEq, Repr

/-- Matching-store entry states (Table 09-2). -/
inductive EntryState where
  | free | waiting | ready | running | draining
  deriving DecidableEq, Repr

/-- The code of an entry state in word 0 of Table 09-2. -/
def EntryState.code : EntryState → Nat
  | .free => 0 | .waiting => 1 | .ready => 2 | .running => 3 | .draining => 4

/-- A matching-store entry (Table 09-2). `operands` holds the DA of its batch token's body; `body`, `place` and `route` are what the
token brings, where its task must run, and the credit it holds; `tile` is where its task runs. -/
structure Entry where
  state : EntryState
  epoch : Nat
  priority : Nat
  taskClass : Nat
  camp : Nat
  slots : Nat
  thread : Bool
  fenceBound : Bool
  arrived : Nat
  frag : Nat
  exec : Nat
  since : Nat
  operands : List Nat
  body : TokBody
  place : Where
  route : Option Route
  units : Nat
  tile : Nat
  deriving DecidableEq, Repr

/-- A FREE entry at its first use. -/
def Entry.fresh : Entry := ⟨.free, 0, 0, 0, 0, 1, false, false, 0, 0, 0, 0, [], .fence none, .any, none, 0, 0⟩

/-- A READY entry as the ready lists hold it (R263): level, Camp, tag. -/
structure ReadyRef where
  level : Nat
  camp : Nat
  tag : Nat
  deriving DecidableEq, Repr

/-- A trace ring's position: records written since it was located (R288). -/
abbrev TraceSeq := Nat

/-- Per-die dispatcher state: entries by tag, ready lists (oldest first over all levels and Camps), round-robin pointers
by level, and the HELD records already written in this period (R290) as Camp numbers. -/
structure DieState where
  entries : Map Entry
  ready : List ReadyRef
  rr : Map Nat
  heldRation : List Nat
  heldEnergy : List Nat
  workWaited : Bool
  deriving DecidableEq, Repr

/-- A die with nothing in it. -/
def DieState.empty : DieState := ⟨[], [], [], [], [], false⟩

/-- A voltage request outstanding at a regulator (R279): its voltage in mV, the tick at which it times out, and the frequency steps
(cluster, step) that wait for it. -/
structure AvsWait where
  mv : Nat
  deadline : Nat
  raises : List (Nat × Nat)
  deriving DecidableEq, Repr

/-- The governor's measurements of the last periods (R276): package energy of the last ten periods in nJ, newest
first; by cluster the tick since which it has been Idle or frozen; the group powers and the package temperature of Table 16-8;
voltage requests outstanding by port; thaws in progress by cluster with the tick at which they end (R285); and the tick of the end of BOOT, from
which Ration periods count (R270). -/
structure PowerState where
  pkg : List Nat
  since : Map Nat
  groups : List Nat
  temp : Nat
  avsWait : Map AvsWait
  thawing : Map Nat
  bootEnd : Nat
  deriving DecidableEq, Repr

end Sys2Proof.Machine
end

