-- ==== Sys2Proof/Machine/TypesUliar.lean ====
section
/-! DEFINITION. Uliar contexts: thread slots and management cores with their architectural state, and service invocations
(Uliar Control Cores; Plans, Pipelines and Services). -/

namespace Sys2Proof.Machine

/-- A code position (R415): the Uliar address of a word and the half in it (false: 0). -/
structure UPos where
  word : Nat
  half : Bool
  deriving DecidableEq, Repr

/-- What a transfer does to the return stack when it takes effect (R412). -/
inductive StackAct where
  | keep
  | push (p : UPos)
  | pop
  deriving DecidableEq, Repr

/-- A transfer whose delay slot has not executed yet (R417): its position, where control goes after the slot when it is taken, whether it
is, and what it does to the return stack. -/
structure Xfer where
  pos : UPos
  target : UPos
  taken : Bool
  act : StackAct
  deriving DecidableEq, Repr

/-- An invocation of a service (R249 to R252): service Camp, the waiting EXT_CALL (by fetch number), kind (0 call, 1 timer, 2 event), service number,
timer index or source, invocation number, tile-time limit and use in ns, start, registered handler and whether it runs, the executions it started that have not
been waited for, and the status of a cancel that waits for the thread's next instruction boundary (R437). -/
structure Invocation where
  camp : Nat
  uid : Option Nat
  kind : Nat
  service : Nat
  index : Nat
  number : Nat
  limit : Nat
  used : Nat
  start : BitVec 64
  handler : Nat
  handling : Bool
  execs : List Nat
  cancelled : Option Nat
  deriving DecidableEq, Repr

/-- What a thread waits for inside a firmware call: an execution (EXEC_WAIT), or a Digest Engine context (DIGEST). -/
inductive UWait where
  | exec (id : Nat)
  | digest (ctx : Nat)
  deriving DecidableEq, Repr

/-- One context: a thread slot or a management core (R402). `cr` holds the control registers by number, `rcache` the return-stack cache newest entry
first (R413), `dcache` the data-stack cache by Uliar address with a dirty mark (R411), `entry` the die and tag of the thread's
matching-store entry, and `placed` the tick up to which its tile-time has been charged. -/
structure UCtx where
  camp : Nat
  g : Map UWord
  f : Map UDouble
  cr : Map UWord
  pos : UPos
  xfer : Option Xfer
  rcache : List (BitVec 64)
  dcache : Map (UWord × Bool)
  waiting : Bool
  entry : Option (Nat × Nat)
  inv : Option Invocation
  awaits : Option UWait
  placed : Nat
  deriving DecidableEq, Repr

/-- A context with every register 0. -/
def UCtx.empty : UCtx := ⟨0, [], [], [], ⟨0, false⟩, none, [], [], false, none, none, none, 0⟩

/-- What an execution that a service started leaves for EXEC_WAIT (Table 14-7): status, dropped rows, new table handle, result bytes. -/
structure ExecResult where
  status : Nat
  dropped : Nat
  handle : Nat
  bytes : Nat
  deriving DecidableEq, Repr

/-- A timer entry's run (R249): the number of its next due time and the due times skipped. -/
structure TimerRun where
  next : Nat
  skips : Nat
  deriving DecidableEq, Repr

/-- Contexts by core * 32 + slot (a management core has slot 0), timers by record index, next invocation numbers by camp * 64 + service, instructions not yet making up
1,024 by core (Table 14-17), results
of service executions by execution number, and DEVTIME at the end of BOOT, from which timers count (Table 15-5). -/
structure UlrState where
  ctxs : Map UCtx
  timers : Map TimerRun
  numbers : Map Nat
  retired : Map Nat
  results : Map ExecResult
  bootTime : BitVec 64
  deriving DecidableEq, Repr

end Sys2Proof.Machine
end

