-- ==== Sys2Proof/Machine/State.lean ====
section
/-! DEFINITION. The state of the block: everything the manual gives it, as plain data, and the queue of commands that
wait for it. -/

namespace Sys2Proof.Machine

/-- Why the block stops with a fault. -/
inductive Fault where
  /-- Raised by no meaning of this model: every command answers a next state. Kept so that the type is not empty. Safe. -/
  | none
  deriving DecidableEq, Repr

/-- Why a command has no meaning. -/
inductive Refusal where
  /-- Raised by Dispatch for a command whose meaning is not written. Safe. -/
  | notModelled (mnemonic : String)
  deriving DecidableEq, Repr

/-- The block's state. -/
structure State where
  pending : List Instr
  h256 : Bool
  mode : Mode
  ticks : Nat
  devtime : BitVec 64
  pins : Pins
  regs : RegFile
  host : HostState
  m : MemState
  io : IoState
  log : ErrLog
  camps : Map CampInfo
  dies : Map DieState
  power : PowerState
  execs : Map Exec
  rationNext : Map Nat
  records : Map Store
  traceSeq : Map TraceSeq
  out : List Out
  draws : Nat
  trust : TrustState
  plans : PlanState
  run : RunState
  ulr : UlrState
  deriving DecidableEq, Repr

/-- The answer of a command. -/
abbrev Res := Host.Outcome State Fault Refusal

/-- Host-facing state with no host (R320). -/
def HostState.empty : HostState :=
  ⟨⟨false, 0, 0, 0, []⟩, [], [], [], [], [], [], [], [], ⟨0, 0, 0, 0, []⟩, [], [], [], [], none, 0, []⟩

/-- The machine right after the end of RESET: mode BOOT, DEVTIME 0, every register at its Reset value, memory with
nothing listed, no Camp, no host. -/
def State.reset : State where
  pending := []
  h256 := false
  mode := .boot
  ticks := 0
  devtime := 0
  pins := ⟨true, true, true, 0, true, true, false, 0, 0, false, false, false⟩
  regs := []
  host := HostState.empty
  m := ⟨[], [], [], [], [], [], []⟩
  io := ⟨[], [], [], [], [], []⟩
  log := ⟨[], 0⟩
  camps := []
  dies := []
  power := ⟨[], [], [], 0, [], [], 0⟩
  execs := []
  rationNext := []
  records := []
  traceSeq := []
  out := []
  draws := 0
  trust := TrustState.empty
  plans := ⟨[], [], []⟩
  run := ⟨[], 0, [], [], [], [], 0, 0⟩
  ulr := ⟨[], [], [], [], [], 0⟩

end Sys2Proof.Machine
end

