-- ==== Sys2Proof/Machine/Ops.lean ====
section
/-! DEFINITION. The named operations over registers, memory, time, events, errors, charges and commands that the
meanings share. -/

namespace Sys2Proof.Machine

/-! ### Status words (R346, Table 12-11) -/

/-- A warning with a code. -/
def warnSt (c : Nat) : Nat := 0x1000 + c
/-- A failure with a code. -/
def failSt (c : Nat) : Nat := 0x2000 + c

def stInvalidOpcode : Nat := failSt 0x001
def stInvalidField : Nat := failSt 0x002
def stStateConflict : Nat := failSt 0x003
def stAborted : Nat := failSt 0x004
def stBusy : Nat := failSt 0x005
def stDraining : Nat := failSt 0x006
def stLengthShort : Nat := failSt 0x007
def stLengthLong : Nat := failSt 0x008
def stOutTruncated : Nat := warnSt 0x009
def stNotPermitted : Nat := failSt 0x00A
def stHostDetached : Nat := failSt 0x00B
def stAuthFailed : Nat := failSt 0x00C
def stNoResource : Nat := failSt 0x00D
def stCampNotFound : Nat := failSt 0x00E
def stQueueInvalid : Nat := failSt 0x00F
def stCampQuarantined : Nat := failSt 0x010
def stPlanNotFound : Nat := failSt 0x020
def stTableNotFound : Nat := failSt 0x021
def stPlanQuota : Nat := failSt 0x022
def stPlanMalformed : Nat := failSt 0x023
def stTypeMismatch : Nat := failSt 0x024
def stKeyMismatch : Nat := failSt 0x025
def stStripInvalid : Nat := failSt 0x026
def stAutomatonInvalid : Nat := failSt 0x027
def stOperatorLimit : Nat := failSt 0x028
def stWiringInvalid : Nat := failSt 0x029
def stParamMismatch : Nat := failSt 0x02A
def stPlanBusy : Nat := failSt 0x02B
def stLimitExceeded : Nat := failSt 0x02C
def stSchemaFault : Nat := failSt 0x040
def stCrcFail : Nat := failSt 0x041
def stMalformedData : Nat := failSt 0x042
def stPoisoned : Nat := failSt 0x043
def stDataLoss : Nat := failSt 0x044
def stMalformedEntry : Nat := failSt 0x045
def stOverflow : Nat := failSt 0x060
def stDivideByZero : Nat := failSt 0x061
def stInvalidCast : Nat := failSt 0x062
def stQuotaExhausted : Nat := failSt 0x080
def stMoraineFull : Nat := failSt 0x081
def stMatchResource : Nat := failSt 0x082
def stRetainFull : Nat := failSt 0x083
def stTranslationFault : Nat := failSt 0x084
def stIsolationViolation : Nat := failSt 0x085
def stExtDenied : Nat := failSt 0x0A0
def stExtTimeout : Nat := failSt 0x0A1
def stExtFault : Nat := failSt 0x0A2
def stAttachDenied : Nat := failSt 0x0A3
def stKeyNotFound : Nat := failSt 0x0A4

/-! ### Registers, time, output -/

/-- Read a register field. -/
def State.rg (s : State) (f : Fld) (i : Nat) : Nat := s.regs.get f i
/-- Write a register field. -/
def State.rs (s : State) (f : Fld) (i v : Nat) : State := { s with regs := s.regs.set f i v }
/-- Add to a saturating counter field. -/
def State.ra (s : State) (f : Fld) (i n : Nat) : State := { s with regs := s.regs.add f i n }
/-- Send something outward. -/
def State.emit (s : State) (o : Out) : State := { s with out := s.out ++ [o] }
/-- Send several things outward, in order. -/
def State.emits (s : State) (o : List Out) : State := { s with out := s.out ++ o }
/-- AON ticks pass: 40 ns of DEVTIME each (Table 01-6). -/
def State.advance (s : State) (dt : Nat) : State :=
  { s with ticks := s.ticks + dt, devtime := s.devtime + BitVec.ofNat 64 (40 * dt) }
/-- Draw a fresh number for a free value. -/
def State.draw (s : State) : Nat × State := (s.draws, { s with draws := s.draws + 1 })
/-- AON ticks in a microsecond. -/
def ticksPerUs : Nat := 25
/-- Is the engine alive: BOOT through MAINTENANCE (Table 01-7)? -/
def State.alive (s : State) : Bool :=
  match s.mode with
  | .boot | .service | .detached | .maintenance => true
  | .reset | .halted => false

/-! ### Events (R390, R392) -/

/-- Is the source one of Table 13-8's assigned sources? A reserved source is never pending (R390). -/
def eventAssigned (n : Nat) : Bool :=
  decide (n ≤ 112) || (decide (128 ≤ n) && decide (n ≤ 136)) || (decide (144 ≤ n) && decide (n ≤ 148)) ||
  (decide (160 ≤ n) && decide (n ≤ 166)) || n == 176 || (decide (184 ≤ n) && decide (n ≤ 511))

/-- An event reaches the Router: it sets the source's pending bit, or is merged into it and counted (R392). -/
def State.event (s : State) (n : Nat) : State :=
  if !eventAssigned n then s
  else if s.rg .EVR_SRC_pending n = 1 then s.ra .EVR_SRC_merged n 1
  else s.rs .EVR_SRC_pending n 1

/-! ### Errors (R492, R493) -/

/-- Count an error of class 1 to 5 once and raise the class's event source (Table 16-3). -/
def State.countErr (s : State) (cls : Nat) : State :=
  let s := s.ra .ERR_COUNT_count (cls - 1) 1
  match cls with
  | 1 => s.event 160
  | 3 => s.event 161
  | 4 => s.event 162
  | _ => s

/-- Drop the oldest entry below device-fatal, if there is one. -/
def dropOldest : List ErrEntry → Option (List ErrEntry)
  | [] => none
  | e :: l => if e.cls < 5 then some l else (dropOldest l).map (e :: ·)

/-- Append an entry to the error log: a full log gives up its oldest entry below device-fatal, and counts the new entry
as lost when there is none (R493). The entry's class, unit, status, detail, Camp, address and index are given. -/
def State.logErr (s : State) (cls unit status detail camp addr inst : Nat) : State :=
  let e : ErrEntry := ⟨cls, unit, status, detail, camp, s.devtime, addr, s.log.next, inst⟩
  let next := (s.log.next + 1) % 2 ^ 32
  if s.log.entries.length < 1024 then { s with log := ⟨s.log.entries ++ [e], next⟩ }
  else match dropOldest s.log.entries with
    | some l => { s with log := ⟨l ++ [e], next⟩ }
    | none => { s with log := { s.log with next := next } }.ra .ERR_STATUS_lost 0 1

/-- Entry into HALTED on a device-fatal cause (R498, R499, Table 16-6): logged, ERR_HALT latched if it holds none,
FAULT_N and, where configured, SB_ALERT_N asserted, Uncorrectable Internal Error sent when the link is up and the host has
left it unmasked, both core rails requested at 0.60 V. Only a mode with a running engine can halt (Table 16-1). -/
def State.halt (s : State) (cause unit inst camp addr : Nat) : State :=
  if !s.alive then s else
  let seq := s.log.next
  let s := (s.countErr 5).logErr 5 unit 0x2044 cause camp addr inst
  let s := if s.rg .ERR_HALT_valid 0 = 1 then s else
    (((((s.rs .ERR_HALT_cause 0 cause).rs .ERR_HALT_unit 0 unit).rs .ERR_HALT_instance 0 inst).rs
      .ERR_HALT_seq 0 seq).rs .ERR_HALT_valid 0 1).rs .ERR_STATUS_halted 0 1
  let s := { s with mode := .halted, pins := { s.pins with fault := true } }
  let s := if s.rg .SBI_CTL_alert_fatal 0 = 1 then s.rs .SBI_STAT_alert 0 1 else s
  let masked := bits (mgetD 0 12 s.host.cfg) 22 1 = 1
  let s := if s.host.link.up && !masked then s.emit (.aer .uncorrectableInternal) else s
  ((s.rs .PWR_AVS_vreq 0 600).rs .PWR_AVS_vreq 1 600).emits [.avs 0 600, .avs 1 600]

/-! ### Memory (R5, R310, R311) -/

/-- What a byte of device memory that nothing has written reads as (DESIGN CHOICE, log 3: zero). -/
def memDefault : Byte := 0

/-- The byte at byte address `a` (DA 2a). -/
def memByte : List Host.Cell → Nat → Byte
  | [], _ => memDefault
  | (k, v) :: m, a => if k = a then v else memByte m a

/-- Write one byte, keeping addresses rising and no entry equal to the default. -/
def memSet (m : List Host.Cell) (a : Nat) (v : Byte) : List Host.Cell := mputD memDefault a v m

/-- Read `n` bytes from byte address `a`. -/
def memRead (m : List Host.Cell) (a : Nat) : Nat → Bytes
  | 0 => []
  | n + 1 => memByte m a :: memRead m (a + 1) n

/-- Write bytes from byte address `a` upward. -/
def memWrite (m : List Host.Cell) (a : Nat) : Bytes → List Host.Cell
  | [] => m
  | b :: l => memWrite (memSet m a b) (a + 1) l

/-- The canonical form of memory: addresses strictly rising, no entry equal to the default. -/
def Memory.wf (m : List Host.Cell) : Bool := mwf m && m.all (fun c => c.2 != memDefault)

/-- Does any 32-byte ECC unit of [a, a + n) hold poison (R311)? -/
def poisoned (p : List Nat) (a n : Nat) : Bool := p.any (fun g => decide (32 * g < a + n) && decide (a < 32 * g + 32))

/-- Poison after a write of [a, a + n): every unit the write covers whole is cleared; a partial write leaves it (R311). -/
def clearPoison (p : List Nat) (a n : Nat) : List Nat :=
  p.filter (fun g => !(decide (a ≤ 32 * g) && decide (32 * g + 32 ≤ a + n)))

/-- Poison every unit of [a, a + n), keeping the list strictly rising. -/
def addPoison (p : List Nat) (a n : Nat) : List Nat :=
  if n = 0 then p else
  let lo := a / 32
  let cnt := (a + n - 1) / 32 + 1 - lo
  p.filter (· < lo) ++ (List.range cnt).map (· + lo) ++ p.filter (fun g => decide (lo + cnt ≤ g))

/-- Read bytes of device memory at a physical DA. -/
def State.memGet (s : State) (da n : Nat) : Bytes := memRead s.m.mem (da / 2) n
/-- Write bytes of device memory at a physical DA. -/
def State.memPut (s : State) (da : Nat) (b : Bytes) : State :=
  { s with m := { s.m with mem := memWrite s.m.mem (da / 2) b, poison := clearPoison s.m.poison (da / 2) b.length } }
/-- Is any byte of [da, da + 2n) poisoned? -/
def State.memPoisoned (s : State) (da n : Nat) : Bool := poisoned s.m.poison (da / 2) n

/-! ### Camps (Table 09-1) and charges (R269 to R272) -/

/-- The state of a Camp as CPM_STATE.state codes it (Table 09-1 order). -/
def State.campState (s : State) (c : Nat) : CampState :=
  if c = 0 then (if s.alive then .active else .suspended) else
  match s.rg .CPM_STATE_state c with
  | 1 => .active | 2 => .suspended | 3 => .quarantined | 4 => .teardown | _ => .free

/-- The amount that means unlimited (R269). -/
def unlimited : Nat := 2 ^ 40 - 1

/-- The signed remainder of a component (R269). -/
def State.remain (s : State) (c k : Nat) : Int := sInt 42 (s.rg .CPM_REMAIN_remain (8 * c + k))

/-- Set component k's exhausted bit of a Camp. -/
def State.setExhausted (s : State) (c k : Nat) (b : Bool) : State :=
  let m := s.rg .CPM_STATE_exhausted c
  let m' := if b then m ||| 2 ^ k else m - (if bits m k 1 = 1 then 2 ^ k else 0)
  s.rs .CPM_STATE_exhausted c m'

/-- Charge `n` units of component k to a Camp: the remainder falls, and the component is exhausted from the moment it
reaches 0 or below (R272). Camp 0 and unlimited components are not charged. -/
def State.charge (s : State) (c k n : Nat) : State :=
  if c = 0 || s.rg .CPM_RATION_amount (8 * c + k) = unlimited then s else
  let r := max (s.remain c k - (n : Int)) (-(2 ^ 41 : Nat))
  let s := s.rs .CPM_REMAIN_remain (8 * c + k) (ofInt 42 r)
  if r ≤ 0 then s.setExhausted c k true else s

/-- Is the component exhausted? -/
def State.isExhausted (s : State) (c k : Nat) : Bool := bits (s.rg .CPM_STATE_exhausted c) k 1 = 1

/-- Charge host-link bytes of a transfer made for an I/O queue (R334). -/
def State.chargeHost (s : State) (c n : Nat) : State := s.charge c 3 n

/-- Charge device bytes by tier: near memory below the far region, far memory above (R386, Table 10-1). -/
def State.chargeDev (s : State) (c da n : Nat) : State := s.charge c (if da < 2 ^ 40 then 1 else 2) n

/-- 64 KiB units that hold `n` bytes (R313). -/
def units64k (n : Nat) : Nat := (n + 65535) / 65536

/-- Take near-memory quota in 64 KiB units; none when the quota cannot hold it. -/
def State.takeNear (s : State) (c u : Nat) : Option State :=
  if c = 0 then some s else
  match mget c s.camps with
  | none => none
  | some i => if i.nearUsed + u ≤ i.nearQuota then
      some { s with camps := mput c { i with nearUsed := i.nearUsed + u } s.camps } else none

/-- Give near-memory quota back. -/
def State.giveNear (s : State) (c u : Nat) : State :=
  { s with camps := mmod c (fun i => { i with nearUsed := i.nearUsed - u }) s.camps }

/-! ### MSI-X (R335, R336) -/

/-- Send vector `v` of function `f`, or leave it pending while masked. -/
def State.msixSend (s : State) (f v : Nat) : State :=
  let k := f * 2048 + v
  let e := mgetD ⟨0, 0, true, false⟩ k s.host.msix
  let ctl := mgetD 0 (f * 64 + 6) s.host.cfg
  let on := bits ctl 15 1 = 1 && bits ctl 14 1 = 0
  if on && !e.masked then s.emit (.msix f v)
  else { s with host := { s.host with msix := mput k { e with pending := true } s.host.msix } }

/-! ### Commands: hand-over, retention, cancellation (R345, R352, R356) -/

/-- A completed entry enters a Camp's retained-completion store; a full store discards it and counts it (R341). -/
def State.retain (s : State) (c : Nat) (e : Cqe) : State :=
  let l := mgetD [] c s.host.retained
  if l.length < s.rg .HIF_RETAIN_capacity c then
    { s with host := { s.host with retained := mput c (l ++ [{ e with ret := true, sqHead := 0 }]) s.host.retained } }
  else s.ra .HIF_RETAIN_lost c 1

/-- The status a successful command reports: an excess under TOLERANT is a warning (R354). -/
def Cmd.okStatus (c : Cmd) : Nat := if c.long then warnSt 0x008 else 0

/-- Hand over a command's completion to the CQ write engine (R356): exactly one entry (R345), its detail kept for log
0x05, and the command no longer outstanding. A command whose queues ended at a detach has its entry retained, or
discarded when it is an admin command (Table 11-9). In HALTED and RESET nothing is handed over (R499). -/
def State.handOver (s : State) (c : Cmd) (status result : Nat) : State :=
  if !s.alive then s else
  let e : Cqe := ⟨result, min c.dropped (2 ^ 32 - 1), 0, c.ref.sq, c.ref.cid, false, status⟩
  let h := { s.host with
    cmds := s.host.cmds.filter (fun d => d.uid != c.uid)
    kept := if c.ref.sq = 0 then s.host.kept else mput c.ref.key ⟨c.dropped, status, result⟩ s.host.kept }
  let s := { s with host := h }
  if c.gone then (if c.ref.sq = 0 then s else s.retain c.camp e)
  else { s with host := { s.host with engine := s.host.engine ++ [⟨c.ref.fn, c.cq, c.camp, e⟩] } }

/-- May a waiting command be handed over now: an ABORT whose target has gone, a FLUSH with no earlier command of its SQ,
an SQ_DELETE whose SQ has no command left (R357 to R359)? -/
def waitOver (cmds : List Cmd) (c : Cmd) : Bool :=
  match c.wait with
  | .after u => !cmds.any (fun d => d.uid == u)
  | .flush => !cmds.any (fun d => decide (d.uid < c.uid) && d.ref.fn == c.ref.fn && d.ref.sq == c.ref.sq && d.gone == c.gone)
  | .sqGone q => !cmds.any (fun d => d.uid != c.uid && d.ref.fn == c.ref.fn && d.ref.sq == q && !d.gone)
  | .fetched | .teardown _ | .drain | .exec _ | .thread _ _ | .stream | .digest _ => false

/-- Hand over every command whose wait has ended, oldest first. -/
def settle : Nat → State → State
  | 0, s => s
  | n + 1, s =>
    match s.host.cmds.find? (waitOver s.host.cmds) with
    | some c => settle n (s.handOver c (match c.failed with | some f => f | none => c.okStatus) c.result)
    | none => s

/-- Complete a command: hand it over, then whatever waited for it. The first failure recorded decides (R352). -/
def State.completeCmd (s : State) (c : Cmd) (status result : Nat) : State :=
  let s := s.handOver c (match c.failed with | some f => f | none => status) (match c.failed with | some _ => 0 | none => result)
  settle s.host.cmds.length s

/-- The fetched command with this reference that has not started: the newest use of the CID (R330). -/
def State.findCmd (s : State) (r : CmdRef) : Option Cmd :=
  s.host.cmds.reverse.find? (fun c => c.ref == r && !c.gone && c.wait == .fetched)

/-- The command with this fetch number. -/
def State.cmdByUid (s : State) (u : Nat) : Option Cmd := s.host.cmds.find? (fun c => c.uid == u)

/-- Change the command with this fetch number. -/
def State.modCmd (s : State) (u : Nat) (f : Cmd → Cmd) : State :=
  { s with host := { s.host with cmds := s.host.cmds.map (fun c => if c.uid == u then f c else c) } }

/-- Fail a command with no side effects; the result word holds 0 or what R347 says. -/
def State.failCmd (s : State) (c : Cmd) (status : Nat) (result : Nat := 0) : State :=
  let s := s.handOver c status result
  settle s.host.cmds.length s

/-- STATE_CONFLICT carries the mode and the cause (R347). -/
def State.conflict (s : State) (c : Cmd) (cause : Nat) : State :=
  s.failCmd c stStateConflict (s.mode.code + 256 * cause)

/-- A fault of an execution: its first failure decides, and its other tasks are cancelled (R232, R352). -/
def State.failExec (s : State) (id status : Nat) : State :=
  { s with execs := mmod id (fun e => { e with failed := e.failed.or (some status), cancelled := true }) s.execs }

/-- Every SPDM session and connection ends, its keys discarded with it, root slots 3 to 6 among them (R472, Table 15-15). -/
def State.endSessions (s : State) : State :=
  let t := { s.trust with
    sessions := [], conns := []
    keys := s.trust.keys.filter (fun k => !(decide (515 ≤ k.1) && decide (k.1 ≤ 518))) }
  let r := [3, 4, 5, 6].foldl (fun (r : RegFile) k => r.setRaw .DGE_KEYSTAT k 0) s.regs
  { s with trust := t, regs := r }

/-- Release a Digest Engine context (Table 15-16): it becomes FREE with a new generation, its expected value cleared. -/
def State.dgeRelease (s : State) (k : Nat) : State :=
  if s.rg .DGE_STAT_state k = 0 then s else
  let g := (mgetD DgeCtx.empty k s.trust.ctx).gen
  let s := { s with trust := { s.trust with ctx := mput k { DgeCtx.empty with gen := (g + 1) % 16 } s.trust.ctx } }
  (s.rs .DGE_STAT_state k 0).rs .DGE_STAT_feeds_queued k 0

/-- Cancel a command through the cancel net with a status (R232, R357): an execution is marked and completes when its tasks
have stopped; a command with nothing running completes at once. Only an ABORT's own status replaces an earlier failure. -/
def State.cancelCmd (s : State) (c : Cmd) (status : Nat) (force : Bool) : State :=
  let c' := { c with failed := if force then some status else c.failed.or (some status) }
  let s := s.modCmd c.uid (fun _ => c')
  match c.wait with
  | .exec id => { s with execs := mmod id (fun e =>
      { e with failed := if force then some status else e.failed.or (some status), cancelled := true }) s.execs }
  | .teardown _ | .drain => s
  | .digest k => (s.dgeRelease k).completeCmd c' status 0
  | .fetched | .after _ | .flush | .sqGone _ | .thread _ _ | .stream => s.completeCmd c' status 0

/-- Cancel several commands, oldest first. -/
def State.cancelAll (s : State) (cs : List Cmd) (status : Nat) : State :=
  cs.foldl (fun s c => match s.cmdByUid c.uid with | some c => s.cancelCmd c status false | none => s) s

/-! ### Quarantine (R495, R496) -/

/-- Quarantine a tenant or owner service Camp for a cause (1 violations, 2 STRICT data loss, 3 poisoned translation): a
Camp-fatal log entry, event source 162, state QUARANTINED, and every outstanding command of the Camp cancelled. -/
def State.quarantine (s : State) (c cause : Nat) : State :=
  if c = 0 || s.campState c == .quarantined || s.campState c == .teardown || s.campState c == .free then s else
  let s := s.rs .ERR_CAMP_cause c cause
  let s := (s.countErr 4).logErr 4 0x06 stCampQuarantined cause c 0 0
  let s := if s.rg .SBI_CTL_alert_camp 0 = 1 then s.rs .SBI_STAT_alert 0 1 else s
  let s := s.rs .CPM_STATE_state c 3
  let s := s.cancelAll (s.host.cmds.filter (fun d => d.camp == c && d.ref.sq != 0)) stCampQuarantined
  { s with execs := mmap (fun _ e =>
      if e.camp = c then { e with failed := e.failed.or (some stCampQuarantined), cancelled := true } else e) s.execs }

/-- An isolation violation of a Camp, counted over its life; the limit quarantines it (R495). -/
def State.violation (s : State) (c : Nat) : State :=
  let s := s.ra .ERR_CAMP_violations c 1
  if s.rg .ERR_CAMP_violations c ≥ max 1 (s.rg .ERR_CTL_viol_limit 0) then s.quarantine c 1 else s

end Sys2Proof.Machine
end

