-- ==== Sys2Proof/Machine/Translate.lean ====
section
/-! DEFINITION. The digit address map, translation tables, the walk and its faults (Memory Tiers, Translation and Cluster
Caches). -/

namespace Sys2Proof.Machine

/-- First DA of compute die 1's near memory (Table 10-1). -/
def State.die1Base (s : State) : Nat := if s.h256 then 2 ^ 38 else 2 ^ 39
/-- End of near memory (Table 10-1). -/
def State.nearEnd (s : State) : Nat := 2 * s.die1Base
/-- Far memory in use, in bytes (FMC_CFG). -/
def State.farBytes (s : State) : Nat :=
  if s.rg .FMC_CFG_disabled 0 = 1 || s.rg .FMC_CFG_dimm_size 0 = 0 then 0
  else s.rg .FMC_CFG_dimms 0 * (16 * 2 ^ s.rg .FMC_CFG_dimm_size 0) * 2 ^ 30
/-- End of far memory: its size in digits is twice its capacity (R292). -/
def State.farEnd (s : State) : Nat := 2 ^ 40 + 2 * s.farBytes
/-- Is the DA in a populated region? -/
def State.populated (s : State) (da : Nat) : Bool :=
  decide (da < s.nearEnd) || (decide (2 ^ 40 ≤ da) && decide (da < s.farEnd))
/-- The compute die whose near memory holds the DA. -/
def State.dieOf (s : State) (da : Nat) : Nat := if da < s.die1Base then 0 else 1
/-- The stack a near-memory DA lies in, 0 to 7 (R293). -/
def State.stackOf (s : State) (da : Nat) : Nat :=
  4 * s.dieOf da + ((bits da 9 2 ^^^ bits da 17 2) ^^^ bits da 25 2)
/-- The channel a far-memory DA lies in (R293). -/
def channelOf (da : Nat) : Nat :=
  let f := da - 2 ^ 40
  (bits f 9 3 ^^^ bits f 17 3) ^^^ bits f 25 3

/-- Line number of a DA (R303). -/
def lineOf (da : Nat) : Nat := da / 256
/-- Cache set of a line (R303). -/
def setOf (l : Nat) : Nat := ((l ^^^ (l / 2 ^ 14)) ^^^ (l / 2 ^ 28)) % 2 ^ 14
/-- Tag of a line (R303). -/
def tagOf (l : Nat) : Nat := l / 2 ^ 14 % 2 ^ 24

/-- The line of a cluster's cache, if it is there. -/
def ClusterCache.find (c : ClusterCache) (l : Nat) : Option (Nat × Line) :=
  (List.range 16).findSome? (fun w => match mget (setOf l * 16 + w) c.lines with
    | some x => if x.num = l then some (w, x) else none
    | none => none)

/-- A cluster's cache. -/
def State.cache (s : State) (cl : Nat) : ClusterCache := mgetD ClusterCache.empty cl s.m.caches
/-- Replace a cluster's cache. -/
def State.setCache (s : State) (cl : Nat) (c : ClusterCache) : State :=
  { s with m := { s.m with caches := mputD ClusterCache.empty cl c s.m.caches } }

/-- The 128 bytes a cluster sees at a line: its own copy, a victim it still holds, or memory (R305, R308). No cluster: memory. -/
def State.lineView (s : State) (cl : Option Nat) (l : Nat) : Bytes :=
  match cl with
  | none => s.memGet (256 * l) 128
  | some k =>
    let c := s.cache k
    match c.find l with
    | some (_, x) => x.data
    | none => match c.evb.find? (fun e => e.num == l) with
      | some e => e.data
      | none => s.memGet (256 * l) 128

/-- `n` bytes at a physical DA as a cluster sees them; at most 128 bytes a line. -/
def State.viewGet (s : State) (cl : Option Nat) (da : Nat) : Nat → Nat → Bytes
  | 0, _ => []
  | fuel + 1, n =>
    if n = 0 then [] else
    let off := da % 256 / 2
    let k := min n (128 - off)
    ((s.lineView cl (lineOf da)).drop off).take k ++ s.viewGet cl (da + 2 * k) fuel (n - k)

/-- Bits of the view DA that index a level (Table 10-4). -/
def walkIndex (v lvl : Nat) : Nat :=
  match lvl with
  | 0 => bits v 38 8
  | 1 => bits v 31 7
  | 2 => bits v 22 9
  | _ => bits v 17 5

/-- Page size of a leaf at a level, in digits (Table 10-4). -/
def pageSize (lvl : Nat) : Nat :=
  match lvl with
  | 1 => 2 ^ 31
  | 2 => 2 ^ 22
  | _ => 2 ^ 17

/-- Is [pa, pa + size) wholly inside the populated region of the tier (R299)? -/
def State.inTier (s : State) (tier pa size : Nat) : Bool :=
  if tier = 0 then decide (pa + size ≤ s.nearEnd) else decide (2 ^ 40 ≤ pa) && decide (pa + size ≤ s.farEnd)

/-- A leaf that the walk rejects (R299). -/
def State.badLeaf (s : State) (e pa size : Nat) : Bool :=
  bits e 19 8 != 0 || decide (2 ≤ bits e 2 2) || bits e 4 2 == 3 || (bits e 7 1 == 1 && bits e 8 1 == 1) ||
  pa % size != 0 || !s.inTier (bits e 2 2) pa size

/-- A pointer that the walk rejects (R299). -/
def badPointer (e : Nat) : Bool := bits e 2 7 != 0 || bits e 19 8 != 0

/-- Fault kinds of Table 10-5. -/
def xNotValid : Nat := 1
def xPermission : Nat := 2
def xCampMismatch : Nat := 3
def xMalformed : Nat := 4
def xPoisoned : Nat := 5

/-- Walk the remaining levels from table `t` at level `lvl` (R299): the translation or the fault kind, and the entries read. -/
def State.walkFrom (s : State) (cl : Option Nat) (camp v : Nat) : Nat → Nat → Nat → Nat → (Except Nat Xlt) × Nat
  | 0, _, _, n => (.error xMalformed, n)
  | fuel + 1, lvl, t, n =>
    let da := t + 16 * walkIndex v lvl
    let e := leNat (s.viewGet cl da 2 8)
    let n := n + 1
    if s.memPoisoned da 8 then (.error xPoisoned, n)
    else if bits e 0 1 = 0 then (.error xNotValid, n)
    else if bits e 9 10 != camp then (.error xCampMismatch, n)
    else if bits e 1 1 = 1 then
      if lvl = 0 then (.error xMalformed, n) else
      let size := pageSize lvl
      let pa := bits e 27 37 * 512
      if s.badLeaf e pa size then (.error xMalformed, n)
      else (.ok ⟨camp, v - v % size, size, pa, bits e 2 2, bits e 4 2, bits e 6 1 == 1, bits e 7 1 == 1, bits e 8 1 == 1⟩, n)
    else if lvl = 3 || badPointer e then (.error xMalformed, n)
    else s.walkFrom cl camp v fuel (lvl + 1) (bits e 27 37 * 512) n

/-- The walk of a view DA through a Camp's tables (R299); tables not in use fault NOT_VALID (Table 10-11). -/
def State.walk (s : State) (cl : Option Nat) (camp v : Nat) : (Except Nat Xlt) × Nat :=
  if s.rg .XLT_ROOT_valid camp = 0 then (.error xNotValid, 0)
  else s.walkFrom cl camp (v % 2 ^ 46) 4 0 (s.rg .XLT_ROOT_base camp) 0

/-- The permission an access needs (R299). -/
def Xlt.allows (x : Xlt) (a : Acc) : Bool :=
  match a with
  | .read => x.r
  | .write => x.w
  | .fetch => x.x

/-- The physical DA of a view DA under a translation. -/
def Xlt.pa_of (x : Xlt) (v : Nat) : Nat := x.pa + (v - x.view)

/-- Translate for an access: the physical DA and cache class, or the fault kind. -/
def State.xlate (s : State) (cl : Option Nat) (camp v : Nat) (a : Acc) : Except Nat (Nat × Xlt) :=
  match (s.walk cl camp v).1 with
  | .error k => .error k
  | .ok x => if x.allows a then .ok (x.pa_of (v % 2 ^ 46), x) else .error xPermission

/-- Latch the first translation fault of a cluster or of the DMA engine (R302, Table 10-13). -/
def State.latchXlt (s : State) (inst camp v kind : Nat) : State :=
  let s := s.event 163
  if s.rg .XLT_FAULT_valid inst = 1 then s else
  (((s.rs .XLT_FAULT_view_da inst v).rs .XLT_FAULT_kind inst kind).rs .XLT_FAULT_camp inst camp).rs .XLT_FAULT_valid inst 1

/-- The status of a translation fault (Table 10-5). -/
def xltStatus (kind : Nat) : Nat :=
  if kind = xCampMismatch then stIsolationViolation else if kind = xPoisoned then stDataLoss else stTranslationFault

/-- A translation fault outside a Uliar thread: it is latched and logged; in Camp 0 it is device-fatal; otherwise the execution that made
the access fails, a mismatch counts as an isolation violation, and poisoned tables quarantine the Camp (R302, Table 10-5, R495). -/
def State.xltFault (s : State) (inst camp v kind : Nat) (exec : Option Nat) : State :=
  let s := s.latchXlt inst camp v kind
  if camp = 0 then s.halt 7 0x09 inst 0 v
  else
    let st := xltStatus kind
    let s := (s.countErr 3).logErr 3 0x09 st kind camp v inst
    let s := match exec with
      | some e => s.failExec e st
      | none => s
    if kind = xCampMismatch then s.violation camp
    else if kind = xPoisoned then s.quarantine camp 3 else s

/-- A lookup in a translation cache hits only on its own Camp (R300). -/
def xhit (l : List Xlt) (camp v : Nat) : Option Xlt :=
  l.find? (fun x => x.camp == camp && decide (x.view ≤ v) && decide (v < x.view + x.size))

/-- Put a translation at the head of a cache of `n` entries. -/
def xput (n : Nat) (x : Xlt) (l : List Xlt) : List Xlt := (x :: l.erase x).take n

/-- The cluster of a walker, and its XLT index. -/
def XReq.cluster? : XReq → Option Nat
  | .tile t => some (t / 8)
  | .cluster c => some c
  | .dma => none

/-- Remember a translation where the requester looks it up (R300: 64 entries a tile, 2,048 a cluster, 512 for DMA). -/
def State.xremember (s : State) (q : XReq) (x : Xlt) : State :=
  match q with
  | .tile t => { s with m := { s.m with
      tileXlt := mput t (xput 64 x (mgetD [] t s.m.tileXlt)) s.m.tileXlt
      clusterXlt := mput (t / 8) (xput 2048 x (mgetD [] (t / 8) s.m.clusterXlt)) s.m.clusterXlt } }
  | .cluster c => { s with m := { s.m with clusterXlt := mput c (xput 2048 x (mgetD [] c s.m.clusterXlt)) s.m.clusterXlt } }
  | .dma => { s with m := { s.m with dmaXlt := xput 512 x s.m.dmaXlt } }

/-- TRANSLATION_WALK: a requester that misses its own cache is served by the cluster's shared cache or walks the Camp's tables; the
entries read are charged to the Camp's near-memory bytes (R297 to R302). The access's permission is then checked. -/
def execTranslationWalk (q : XReq) (camp v : Nat) (a : Acc) (exec : Option Nat) (s : State) : Res :=
  if !s.alive then .next s else
  let v := v % 2 ^ 46
  let inst := match q.cluster? with | some c => c | none => 16
  let own := match q with
    | .tile t => mgetD [] t s.m.tileXlt
    | .cluster c => mgetD [] c s.m.clusterXlt
    | .dma => s.m.dmaXlt
  let shared := match q with
    | .tile t => mgetD [] (t / 8) s.m.clusterXlt
    | .cluster _ | .dma => []
  let check (s : State) (x : Xlt) : Res :=
    if x.allows a then .next s else .next (s.xltFault inst camp v xPermission exec)
  match xhit own camp v with
  | some x =>
    let s := match q with
      | .cluster c => s.ra .XLT_STAT_hits c 1
      | .tile _ | .dma => s
    check s x
  | none => match xhit shared camp v with
    | some x => check ((s.ra .XLT_STAT_hits inst 1).xremember q x) x
    | none =>
      let (r, n) := s.walk q.cluster? camp v
      let s := match q with
        | .dma => s
        | .tile _ | .cluster _ => s.ra .XLT_STAT_walks inst 1
      let s := s.charge camp 1 (8 * n)
      match r with
      | .ok x => check (s.xremember q x) x
      | .error k => .next (s.xltFault inst camp v k exec)

/-- Does a cached translation fall under an invalidation (Table 10-12)? -/
def xmatch (camp : Nat) (all : Bool) (start units : Nat) (x : Xlt) : Bool :=
  (all || x.camp == camp) &&
  (units == 0 || (decide (x.view < (start + units) * 2 ^ 17) && decide (start * 2 ^ 17 < x.view + x.size)))

/-- Drop matching entries from every translation cache of the device. -/
def State.xdrop (s : State) (p : Xlt → Bool) : State :=
  let keep (l : List Xlt) : List Xlt := l.filter (fun x => !p x)
  { s with m := { s.m with
    tileXlt := mmap (fun _ l => keep l) s.m.tileXlt
    clusterXlt := mmap (fun _ l => keep l) s.m.clusterXlt
    dmaXlt := keep s.m.dmaXlt } }

/-- A write of XLT_INVAL (Table 10-12, R301): the fields take the value; go starts an invalidation unless one is in progress, and every
translation cache drops the matching entries. -/
def State.xltInval (s : State) (v : Nat) : State :=
  let busy := s.rg .XLT_INVAL_busy 0 = 1
  let s := (((s.rs .XLT_INVAL_camp 0 (bits v 0 10)).rs .XLT_INVAL_all_camps 0 (bits v 10 1)).rs .XLT_INVAL_start 0
    (bits v 13 29)).rs .XLT_INVAL_units 0 (bits v 42 20)
  if busy || bits v 11 1 = 0 then s
  else (s.xdrop (xmatch (bits v 0 10) (bits v 10 1 == 1) (bits v 13 29) (bits v 42 20))).rs .XLT_INVAL_busy 0 1

/-- XLT_INVAL: Camp 0 writes the register (R301 step 3). -/
def execXltInval (v : BitVec 64) (s : State) : Res := if s.alive then .next (s.xltInval v.toNat) else .next s

/-- XLT_INVAL_DONE: every access that used a dropped entry has its response; busy returns to 0 (R301). -/
def execXltInvalDone (s : State) : Res := .next (s.rs .XLT_INVAL_busy 0 0)

end Sys2Proof.Machine
end

