-- ==== Sys2Proof/Machine/Cache.lean ====
section
/-! DEFINITION. Cluster caches: accesses by class, fills, victims, maintenance, races, parity, ECC, poison and patrol scrubbing
(Memory Tiers, Translation and Cluster Caches). -/

namespace Sys2Proof.Machine

/-- Latch the first parity or scratch failure of a cluster (Table 10-21); event source 164. -/
def State.cchErr (s : State) (cl da kind exec : Nat) : State :=
  let s := s.event 164
  if s.rg .CCH_ERRLOG_valid cl = 1 then s else
  (((s.rs .CCH_ERRLOG_da cl da).rs .CCH_ERRLOG_kind cl kind).rs .CCH_ERRLOG_exec cl exec).rs .CCH_ERRLOG_valid cl 1

/-- An execution loses State-class or scratch data: DATA_LOSS, logged; a STRICT command also quarantines its Camp (R309, R351). -/
def State.dataLoss (s : State) (exec unit da inst : Nat) : State :=
  match mget exec s.execs with
  | none => s
  | some e =>
    let s := ((s.countErr 3).logErr 3 unit stDataLoss 0 e.camp da inst).failExec exec stDataLoss
    if e.strict then s.quarantine e.camp 2 else s

/-- Count an access of device memory by its controller (Table 10-23, Table 10-28) and latch the first uncorrectable one. -/
def State.memEcc (s : State) (da : Nat) (ecc : Ecc) (scrub : Bool) : State :=
  match ecc with
  | .ok => s
  | .corrected =>
    let s := if da < 2 ^ 40 then s.ra .NMC_STAT_corrected (s.stackOf da) 1 else s.ra .FMC_STAT_corrected (channelOf da) 1
    (s.countErr 1).event 165
  | .uncorrectable =>
    let s := s.event 165
    if da < 2 ^ 40 then
      let k := s.stackOf da
      let s := s.ra .NMC_STAT_uncorrected k 1
      if s.rg .NMC_ERRLOG_valid k = 1 then s else
      ((s.rs .NMC_ERRLOG_da k da).rs .NMC_ERRLOG_scrub k (if scrub then 1 else 0)).rs .NMC_ERRLOG_valid k 1
    else
      let k := channelOf da
      let s := s.ra .FMC_STAT_uncorrected k 1
      if s.rg .FMC_ERRLOG_valid k = 1 then s else
      -- the slot, rank and device the controller implicates are not given: free
      let (n, s) := s.draw
      let v := (Config.freeWord n).toNat
      (((((s.rs .FMC_ERRLOG_da k da).rs .FMC_ERRLOG_slot k v).rs .FMC_ERRLOG_rank k (v / 2)).rs .FMC_ERRLOG_device k (v / 16 % 20)).rs
        .FMC_ERRLOG_scrub k (if scrub then 1 else 0)).rs .FMC_ERRLOG_valid k 1

/-- Poison every ECC unit of [da, da + 2n). -/
def State.poison (s : State) (da n : Nat) : State :=
  { s with m := { s.m with poison := addPoison s.m.poison (da / 2) n } }

/-! ### Replacement (R306) -/

/-- Follow the pseudo-LRU tree from `node` over `n` ways starting at `lo`, keeping to subtrees that hold a permitted way. -/
def plruVictim (bitsv mask : Nat) : Nat → Nat → Nat → Nat → Nat
  | 0, _, lo, _ => lo
  | fuel + 1, node, lo, n =>
    if n ≤ 1 then lo else
    let h := n / 2
    let left := bits mask lo h != 0
    let right := bits mask (lo + h) h != 0
    let goRight := if left && right then bits bitsv node 1 = 1 else right
    if goRight then plruVictim bitsv mask fuel (2 * node + 2) (lo + h) h
    else plruVictim bitsv mask fuel (2 * node + 1) lo h

/-- Set the tree bits along way `w` so that the tree points away from it (most recently used) or at it (least recently used). -/
def plruTouch (w : Nat) (mru : Bool) : Nat → Nat → Nat → Nat → Nat → Nat
  | 0, _, _, _, b => b
  | fuel + 1, node, lo, n, b =>
    if n ≤ 1 then b else
    let h := n / 2
    let inRight := decide (lo + h ≤ w)
    let want := if mru then !inRight else inRight
    let cur := bits b node 1 = 1
    let b := if want && !cur then b + 2 ^ node else if !want && cur then b - 2 ^ node else b
    if inRight then plruTouch w mru fuel (2 * node + 2) (lo + h) h b else plruTouch w mru fuel (2 * node + 1) lo h b

/-- Mark a way used in its set. -/
def ClusterCache.touch (c : ClusterCache) (set w : Nat) (mru : Bool) : ClusterCache :=
  { c with plru := mputD 0 set (plruTouch w mru 4 0 0 16 (mgetD 0 set c.plru)) c.plru }

/-- The ways a Camp's fills may allocate in (R306, Table 10-15): 0 acts as 0xFFFF. -/
def State.wayMask (s : State) (cl camp : Nat) : Nat :=
  let m := s.rg .CCH_WAYMASK_ways (4 * cl + (if camp = 0 then 0 else s.rg .CCH_CAMPCLASS_class camp))
  if m = 0 then 0xFFFF else m

/-! ### Fills and victims (Table 10-6, Table 10-7) -/

/-- Count a lookup in units of 1,024 (Table 10-19). -/
def State.countLookup (s : State) (cl : Nat) (hit : Bool) : State :=
  let c := s.cache cl
  if hit then
    if c.hitRem + 1 = 1024 then (s.setCache cl { c with hitRem := 0 }).ra .CCH_STAT_hits cl 1
    else s.setCache cl { c with hitRem := c.hitRem + 1 }
  else
    if c.missRem + 1 = 1024 then (s.setCache cl { c with missRem := 0 }).ra .CCH_STAT_misses cl 1
    else s.setCache cl { c with missRem := c.missRem + 1 }

/-- Move the victim in the way a fill takes: a clean line is discarded, a dirty State-class line enters the eviction buffer (replacing
an entry of the same line), a dirty Control-class line goes to memory and the fill waits for it. None: the buffer's 32 entries are taken,
and the victim waits. -/
def ClusterCache.evict (c : ClusterCache) (set w : Nat) : Option (ClusterCache × Option Nat) :=
  match mget (set * 16 + w) c.lines with
  | none => some (c, none)
  | some v =>
    let c' := { c with lines := mdel (set * 16 + w) c.lines }
    if !v.dirty then some (c', none)
    else if v.cls = 1 then
      if c.evb.any (fun e => e.num == v.num) then
        some ({ c' with evb := c.evb.map (fun e => if e.num == v.num then ⟨v.num, v.exec, v.data, v.poison⟩ else e) }, none)
      else if 32 ≤ c.evb.length then none
      else some ({ c' with evb := c.evb ++ [⟨v.num, v.exec, v.data, v.poison⟩] }, none)
    else some ({ c' with ctlWrites := c.ctlWrites ++ [⟨v.num, v.exec, v.data, v.poison⟩] }, some v.num)

/-- Allocate a way for line `l` under a Camp's mask, ways of fills in flight excluded where another is left. -/
def State.allocWay (s : State) (cl camp l : Nat) : Nat :=
  let c := s.cache cl
  let mask := s.wayMask cl camp
  let busy := (c.fills.filter (fun f => setOf f.num == setOf l)).foldl (fun m f => if bits m f.way 1 = 1 then m - 2 ^ f.way else m) mask
  plruVictim (mgetD 0 (setOf l) c.plru) (if busy = 0 then mask else busy) 4 0 0 16

/-- Start a fill of a missing line, or nothing when a fill of it is in flight (one memory read serves both) or when the victim waits for
the eviction buffer (counted in CCH_STAT.evb_stalls). -/
def State.startFill (s : State) (cl camp cls exec l : Nat) (mg : List (Nat × Bytes)) : State :=
  let c := s.cache cl
  if c.fills.any (fun f => f.num == l) then
    s.setCache cl { c with fills := c.fills.map (fun f => if f.num == l then { f with merge := f.merge ++ mg } else f) }
  else
    let w := s.allocWay cl camp l
    match c.evict (setOf l) w with
    | none => s.ra .CCH_STAT_evb_stalls cl 1
    | some (c', wt) =>
      let own := if c.ctlWrites.any (fun e => e.num == l) then some l else wt
      s.setCache cl { c' with fills := c'.fills ++ [⟨l, w, cls, camp, exec, mg, own⟩] }

/-- Bytes `b` put at offset `off` of a line's data. -/
def lineMerge (d : Bytes) (off : Nat) (b : Bytes) : Bytes := d.take off ++ b ++ d.drop (off + b.length)

/-- Insert a line in a way and mark its place in the replacement order. -/
def State.insertLine (s : State) (cl w : Nat) (x : Line) : State :=
  let c := s.cache cl
  s.setCache cl (({ c with lines := mput (setOf x.num * 16 + w) x c.lines }).touch (setOf x.num) w (x.cls != 0))

/-- What parity does to a line met by an access (Table 10-8): nothing, refetch, drop with data loss, or HALTED. -/
def State.parityHit (s : State) (cl w : Nat) (x : Line) (p : Parity) : State :=
  let c := s.cache cl
  let drop := s.setCache cl { c with lines := mdel (setOf x.num * 16 + w) c.lines }
  match p with
  | .ok => s
  | .stateField => (s.cchErr cl (256 * x.num) 5 x.exec).halt 5 0x08 cl 0 (256 * x.num)
  | .data | .tag =>
    if !x.dirty then
      (((drop.ra .CCH_PARITY_corrected cl 1).countErr 1).cchErr cl (if p == .tag then 0 else 256 * x.num) 1 0)
    else if x.cls = 1 then
      ((drop.ra .CCH_PARITY_data_loss cl 1).cchErr cl (if p == .tag then 0 else 256 * x.num) (if p == .tag then 4 else 2) x.exec).dataLoss
        x.exec 0x08 (if p == .tag then 0 else 256 * x.num) cl
    else (s.cchErr cl (256 * x.num) 3 x.exec).halt 5 0x08 cl 0 (256 * x.num)

/-- A read or write of bytes inside one line through a cluster's cache, by the page's class (R303 to R306, R308, R309). -/
def State.cacheAccess (s : State) (cl camp exec da cls : Nat) (wr : Option Bytes) (p : Parity) : State :=
  let l := lineOf da
  let off := da % 256 / 2
  match (s.cache cl).find l with
  | some (w, x) =>
    let s := s.countLookup cl true
    if p != .ok then
      let s' := s.parityHit cl w x p
      if x.dirty || p == .stateField || !s'.alive then s'
      else match wr with
        | some b => if cls = 0 then s'.memPut da b else s'.startFill cl camp cls exec l [(off, b)]
        | none => s'.startFill cl camp cls exec l []
    else
      let s := s.setCache cl ((s.cache cl).touch (setOf l) w true)
      match wr with
      | none => s
      | some b =>
        let y := { x with data := lineMerge x.data off b, dirty := x.cls != 0, exec := exec }
        let s := s.setCache cl { s.cache cl with lines := mput (setOf l * 16 + w) y (s.cache cl).lines }
        if x.cls = 0 then s.memPut da b else s
  | none =>
    let s := s.countLookup cl false
    match (s.cache cl).evb.find? (fun e => e.num == l) with
    | some e => match wr with
      | none => s
      | some b =>
        let w := s.allocWay cl camp l
        match (s.cache cl).evict (setOf l) w with
        | none => s.ra .CCH_STAT_evb_stalls cl 1
        | some (c', _) => (s.setCache cl c').insertLine cl w ⟨l, true, 1, exec, lineMerge e.data off b, e.poison⟩
    | none => match wr with
      | none => s.startFill cl camp cls exec l []
      | some b =>
        if cls = 0 then s.memPut da b
        else if b.length = 128 then
          let w := s.allocWay cl camp l
          match (s.cache cl).evict (setOf l) w with
          | none => s.ra .CCH_STAT_evb_stalls cl 1
          | some (c', none) => (s.setCache cl c').insertLine cl w ⟨l, true, cls, exec, b, false⟩
          | some (c', some v) => s.setCache cl { c' with fills := c'.fills ++ [⟨l, w, cls, camp, exec, [(0, b)], some v⟩] }
        else s.startFill cl camp cls exec l [(off, b)]

/-- CACHE_ACCESS: one access through a cluster's cache at a physical DA, bytes inside one line; `p` is what parity finds on a hit. -/
def execCacheAccess (cl camp exec da cls : Nat) (wr : Option Bytes) (p : Parity) (s : State) : Res :=
  let fits := match wr with
    | some b => decide (0 < b.length) && decide (da % 256 / 2 + b.length ≤ 128)
    | none => true
  if !s.alive || 16 ≤ cl || 3 ≤ cls || !fits || !s.populated da || 2 ≤ s.rg .PWR_CLUSTER_pstate cl then .next s
  else .next (s.cacheAccess cl camp exec da cls wr p)

/-! ### Maintenance (R307, R308) -/

/-- Does an operation cover a line? -/
def Maint.covers (m : Maint) (l : Nat) : Bool := m.lines == 0 || (decide (m.line ≤ l) && decide (l < m.line + m.lines))

/-- Does a covered line have a fill or a write-back in flight, so that the operation waits (Table 10-7)? -/
def ClusterCache.blocks (c : ClusterCache) (m : Maint) : Bool :=
  c.fills.any (fun f => m.covers f.num) || c.evb.any (fun e => m.covers e.num) || c.ctlWrites.any (fun e => m.covers e.num)

/-- Write a line's data back; a poisoned line writes the poison signature (R311). -/
def State.writeBack (s : State) (l : Nat) (d : Bytes) (poison : Bool) : State :=
  let s := s.memPut (256 * l) d
  if poison then s.poison (256 * l) 128 else s

/-- Apply an operation to every covered line of a cluster's array. -/
def State.applyMaint (s : State) (cl : Nat) (m : Maint) : State :=
  (s.cache cl).lines.foldl (fun s p =>
    let x := p.2
    if !m.covers x.num then s else
    let s := if x.dirty && m.op != .invalidate then s.writeBack x.num x.data x.poison else s
    let c := s.cache cl
    match m.op with
    | .flush => s.setCache cl { c with lines := mput p.1 { x with dirty := false } c.lines }
    | .invalidate | .flushInval => s.setCache cl { c with lines := mdel p.1 c.lines }) s

/-- Apply the operations waiting in a cluster in arrival order, up to the first that a race holds back. -/
def drainMaint (cl : Nat) : Nat → State → State
  | 0, s => s
  | n + 1, s =>
    let c := s.cache cl
    match c.maint with
    | [] => s
    | m :: rest =>
      if c.blocks m then s
      else
        let s := s.applyMaint cl m
        drainMaint cl n (s.setCache cl { s.cache cl with maint := rest })

/-- Give an operation to one cluster: a Frozen-cold cluster holds no lines; a Frozen-retained one records up to 256 line operations, and
beyond that performs FLUSH_INVAL on its whole cache at its thaw (R307). -/
def State.maintCluster (s : State) (cl : Nat) (m : Maint) : State :=
  let c := s.cache cl
  match s.rg .PWR_CLUSTER_pstate cl with
  | 3 => s
  | 2 =>
    let n := (c.recorded.map (·.lines)).sum
    if m.lines = 0 || 256 < n + m.lines then s.setCache cl { c with recordAll := true }
    else s.setCache cl { c with recorded := c.recorded ++ [m] }
  | _ =>
    let s := s.setCache cl { c with maint := c.maint ++ [m] }
    drainMaint cl (c.maint.length + 1) s

/-- The clusters an operation reaches. -/
def maintClusters (cl : Nat) (all : Bool) : List Nat := if all then List.range 16 else [cl]

/-- A write of CCH_MAINT: ignored and flagged while an operation is in progress, else the operation starts (Table 10-17, Table 10-18).
The reserved op 3 has no effect beyond the fields. -/
def State.cchMaint (s : State) (cl v : Nat) : State :=
  if s.rg .CCH_MAINT_busy cl = 1 then s.rs .CCH_MAINT_LEN_rejected cl 1
  else
    let s := ((s.rs .CCH_MAINT_da cl (bits v 0 46)).rs .CCH_MAINT_op cl (bits v 46 2)).rs .CCH_MAINT_all_clusters cl (bits v 48 1)
    let op : Option MaintOp := match bits v 46 2 with
      | 0 => some .flush
      | 1 => some .invalidate
      | 2 => some .flushInval
      | _ => none
    match op with
    | none => s
    | some op =>
      let m : Maint := ⟨op, bits v 8 38, s.rg .CCH_MAINT_LEN_lines cl⟩
      let s := s.rs .CCH_MAINT_busy cl 1
      (maintClusters cl (bits v 48 1 == 1)).foldl (fun s k => s.maintCluster k m) s

/-- Start an operation as a write of CCH_MAINT_LEN and CCH_MAINT would. -/
def State.maintRow (s : State) (op cl da lines : Nat) (all : Bool) : Res :=
  if !s.alive || 16 ≤ cl then .next s else
  let s := if s.rg .CCH_MAINT_busy cl = 1 then s else s.rs .CCH_MAINT_LEN_lines cl lines
  .next (s.cchMaint cl (da % 2 ^ 46 + op * 2 ^ 46 + (if all then 2 ^ 48 else 0)))

/-- CACHE_FLUSH: dirty lines are written back and stay valid and clean (R307). -/
def execCacheFlush (cl da lines : Nat) (all : Bool) (s : State) : Res := s.maintRow 0 cl da lines all
/-- CACHE_INVALIDATE: lines are discarded, and dirty data is lost (R307). -/
def execCacheInvalidate (cl da lines : Nat) (all : Bool) (s : State) : Res := s.maintRow 1 cl da lines all
/-- CACHE_FLUSH_INVAL: dirty lines are written back, and the lines are discarded (R307). -/
def execCacheFlushInval (cl da lines : Nat) (all : Bool) (s : State) : Res := s.maintRow 2 cl da lines all

/-- CACHE_MAINT_DONE: every cluster has applied or recorded the operation issued through this cluster's CCH_MAINT; busy returns to 0. -/
def execCacheMaintDone (cl : Nat) (s : State) : Res :=
  if s.rg .CCH_MAINT_busy cl = 0 then .next s
  else if (maintClusters cl (s.rg .CCH_MAINT_all_clusters cl == 1)).all (fun k => (s.cache k).maint.isEmpty) then
    .next (s.rs .CCH_MAINT_busy cl 0)
  else .next s

/-- FILL_COMPLETE: memory answers a fill. Corrected data is delivered and counted; uncorrectable data is poisoned, and a poisoned part poisons
the whole line (R310, R311). The line is inserted with its class, with the write that missed merged into it, and waiting maintenance applies.
A fill behind a Control-class victim waits until that write has completed (Table 10-6). -/
def execFillComplete (cl l : Nat) (ecc : Ecc) (s : State) : Res :=
  if !s.alive then .next s else
  match (s.cache cl).fills.find? (fun f => f.num == l) with
  | none => .next s
  | some f =>
    let waits := match f.waitCtl with
      | some v => (s.cache cl).ctlWrites.any (fun e => e.num == v)
      | none => false
    if waits then .next s
    else
      let s := s.memEcc (256 * l) ecc false
      let s := if ecc == .uncorrectable then s.poison (256 * l) 128 else s
      let bad := s.memPoisoned (256 * l) 128
      let d := s.memGet (256 * l) 128
      let whole := f.merge.any (fun p => decide (p.2.length = 128))
      let d' := f.merge.foldl (fun d p => lineMerge d p.1 p.2) d
      let c := s.cache cl
      let s := s.setCache cl { c with fills := c.fills.erase f }
      let s := s.insertLine cl f.way ⟨l, !f.merge.isEmpty, f.cls, f.exec, d', bad && !whole⟩
      .next (drainMaint cl ((s.cache cl).maint.length) s)

/-- EVICTION_WRITEBACK_DONE: the write-back of a victim completes; memory holds the buffered data, and what waited for it goes on (Table 10-7).
A parity failure in the buffer drops the line and fails its execution (Table 10-8). -/
def execEvictionWritebackDone (cl l : Nat) (parityFail : Bool) (s : State) : Res :=
  if !s.alive then .next s else
  let c := s.cache cl
  match c.evb.find? (fun e => e.num == l) with
  | some e =>
    let s := s.setCache cl { c with evb := c.evb.erase e }
    let s := if parityFail then
        ((s.ra .CCH_PARITY_data_loss cl 1).cchErr cl (256 * l) 2 e.exec).dataLoss e.exec 0x08 (256 * l) cl
      else s.writeBack l e.data e.poison
    .next (drainMaint cl (c.maint.length) s)
  | none => match c.ctlWrites.find? (fun e => e.num == l) with
    | some e =>
      if parityFail then .next ((s.cchErr cl (256 * l) 3 e.exec).halt 5 0x08 cl 0 (256 * l))
      else
        let s := s.setCache cl { c with ctlWrites := c.ctlWrites.erase e }
        .next (drainMaint cl (c.maint.length) (s.writeBack l e.data e.poison))
    | none => .next s

/-- PATROL_SCRUB: the scrubber reads one ECC unit; what it can it corrects in place, what it cannot it poisons in place, and both are logged. A
scrub period of 0 disables it (R312). -/
def execPatrolScrub (da : Nat) (ecc : Ecc) (s : State) : Res :=
  let hours := if da < 2 ^ 40 then s.rg .NMC_CTL_scrub_hours 0 else s.rg .FMC_CTL_scrub_hours 0
  if !s.alive || hours = 0 || !s.populated da then .next s
  else
    let s := s.memEcc da ecc true
    if ecc == .uncorrectable then .next (s.poison (da - da % 64) 32) else .next s

end Sys2Proof.Machine
end

