-- ==== Sys2Proof/Machine/Dma.lean ====
section
/-! DEFINITION. DMA channels: rings, descriptors, pacing, the flush read, completions, bus errors (Work Rings, DMA and the Event
Router). -/

namespace Sys2Proof.Machine

/-- Depth of a channel's ring. -/
def State.dmaDepth (s : State) (ch : Nat) : Nat := 2 ^ s.rg .DMA_RING_size_log2 ch
/-- Taken count. -/
def State.dmaTaken (s : State) (ch : Nat) : Nat := s.rg .DMA_CHSTAT_taken ch
/-- Posted count. -/
def State.dmaPosted (s : State) (ch : Nat) : Nat := s.rg .DMA_POST_posted ch
/-- The lap of the entry at a taken count (R381). -/
def dmaLap (taken n : Nat) : Nat := (taken / 2 ^ n + 1) % 65536

/-- Set the taken count and the lap that follows from it. -/
def State.setTaken (s : State) (ch t : Nat) : State :=
  (s.rs .DMA_CHSTAT_taken ch t).rs .DMA_CHSTAT_lap ch (dmaLap (t % 2 ^ 32) (s.rg .DMA_RING_size_log2 ch))

/-- Replace or end a channel's descriptor in progress. -/
def State.setDma (s : State) (ch : Nat) (d : Option DmaActive) : State :=
  match d with
  | some d => { s with io := { s.io with dma := mput ch d s.io.dma } }.rs .DMA_CHSTAT_active ch 1
  | none => { s with io := { s.io with dma := mdel ch s.io.dma } }.rs .DMA_CHSTAT_active ch 0

/-- A channel reset (R389): staging is discarded, nothing further completes, and taken and posted go to the start of the next lap. -/
def State.dmaReset (s : State) (ch : Nat) : State :=
  let n := s.rg .DMA_RING_size_log2 ch
  let t := (s.dmaTaken ch / 2 ^ n + 1) * 2 ^ n
  let s := (s.setDma ch none).rs .DMA_CHSTAT_halted ch 0
  let s := (s.setTaken ch t).rs .DMA_POST_posted ch t
  { s with io := { s.io with serves := mdel ch s.io.serves } }

/-- A write of DMA_RING (Table 13-11, R379): the base is fixed while the ring is enabled; channel 0 belongs to Camp 0; enabling needs a
size of 1 to 16 and sets both counts to 0 and the lap to 1; clearing enable acts as a channel reset. -/
def State.dmaRing (s : State) (ch v : Nat) : State :=
  let on := s.rg .DMA_RING_enable ch = 1
  let want := bits v 61 1 = 1
  let n := bits v 46 5
  let s1 := if on then s else s.rs .DMA_RING_base ch (bits v 0 46)
  if on && !want then
    let s2 := s1.dmaReset ch
    ((s2.rs .DMA_RING_size_log2 ch n).rs .DMA_RING_camp ch (if ch = 0 then 0 else bits v 51 10)).rs .DMA_RING_enable ch 0
  else
    let s2 := (s1.rs .DMA_RING_size_log2 ch n).rs .DMA_RING_camp ch (if ch = 0 then 0 else bits v 51 10)
    if !on && want && decide (1 ≤ n) && decide (n ≤ 16) then
      ((s2.rs .DMA_RING_enable ch 1).rs .DMA_POST_posted ch 0).setTaken ch 0
    else s2

/-- A write of DMA_POST: a count below taken or above taken + depth is ignored and sets post_err (Table 13-12). -/
def State.dmaPost (s : State) (ch v : Nat) : State :=
  if s.dmaDepth ch < (v % 2 ^ 32 + 2 ^ 32 - s.dmaTaken ch) % 2 ^ 32 then s.rs .DMA_CHSTAT_post_err ch 1
  else s.rs .DMA_POST_posted ch v

/-- A write of DMA_CHCTL (Table 13-14). -/
def State.dmaCtl (s : State) (ch v : Nat) : State :=
  let s := if bits v 0 1 = 1 && s.rg .DMA_CHSTAT_halted ch = 1 then s.rs .DMA_CHSTAT_halted ch 0 else s
  if bits v 1 1 = 1 then s.dmaReset ch else s

/-- DMA_POST: firmware posts entries of a ring by count; `serves` names the commands the new entries work for, in order (R375). -/
def execDmaPost (ch v : Nat) (serves : List (Option Nat)) (s : State) : Res :=
  if !s.alive || 96 ≤ ch then .next s else
  let old := s.dmaPosted ch
  let s' := s.dmaPost ch v
  if s'.dmaPosted ch = old then .next s'
  else .next { s' with io := { s'.io with serves := mput ch (mgetD [] ch s'.io.serves ++ serves) s'.io.serves } }

/-- DMA_RING_ENABLE: Camp 0 binds a ring to a channel and enables it (R379). -/
def execDmaRingEnable (ch base log2 camp : Nat) (s : State) : Res :=
  if !s.alive || 96 ≤ ch then .next s
  else .next (s.dmaRing ch (base % 2 ^ 46 + log2 % 32 * 2 ^ 46 + camp % 1024 * 2 ^ 51 + 2 ^ 61))

/-- DMA_RING_DISABLE: clearing enable acts as a channel reset (Table 13-11). -/
def execDmaRingDisable (ch : Nat) (s : State) : Res :=
  if !s.alive || 96 ≤ ch then .next s
  else .next (s.dmaRing ch ((s.regs.raw .DMA_RING ch).toNat % 2 ^ 61))

/-- DMA_RESUME: a halted channel continues with the next posted entry (R389). -/
def execDmaResume (ch : Nat) (s : State) : Res := if !s.alive || 96 ≤ ch then .next s else .next (s.dmaCtl ch 1)

/-- DMA_RESET (R389). -/
def execDmaReset (ch : Nat) (s : State) : Res := if !s.alive || 96 ≤ ch then .next s else .next (s.dmaCtl ch 2)

/-- The function whose requester ID a channel's host requests carry: the owner's, the PF for Camp 0; none when not attached (R379). -/
def State.dmaFn (s : State) (camp : Nat) : Option Nat :=
  if !s.host.link.up then none
  else if camp = 0 then some 0
  else if s.rg .HIF_ATTACH_attached camp = 1 then some (s.rg .HIF_ATTACH_function camp) else none

/-- Does a request entry break Table 13-4 or the channel's lap (R376, R380, R381)? -/
def dmaMalformed (ch lap : Nat) (e : Bytes) : Bool :=
  let w := word32 e 0
  let typ := bits w 2 6
  let srcHost := bits w 8 1 = 1
  let dstHost := bits w 9 1 = 1
  let len := word32 e 1
  let src := word64 e 2
  let dst := word64 e 4
  let devOk (a : Nat) : Bool := decide (a < 2 ^ 46) && a % 2 == 0
  let zero := typ == 3
  bits w 0 1 != lap % 2 || bits w 1 1 == 1 || !(typ == 2 || typ == 3) || !rz w 11 5 || bits w 16 16 != lap ||
  len == 0 || decide (16777216 < len) ||
  (if ch < 64 then (if zero then srcHost || !dstHost else srcHost == dstHost) else srcHost || dstHost) ||
  (zero && src != 0) || (!zero && !srcHost && !devOk src) || (!dstHost && !devOk dst)

/-- The completed entry (Table 13-5). -/
def dmaEntry (word0 status bytes cookie : Nat) : Bytes :=
  leBytes 4 word0 ++ leBytes 4 status ++ leBytes 4 bytes ++ leBytes 12 0 ++ leBytes 8 cookie

/-- Physical DA of a ring slot, or the fault kind. -/
def State.dmaSlotDa (s : State) (ch slot : Nat) (a : Acc) : Except Nat Nat :=
  match s.xlate none (s.rg .DMA_RING_camp ch) (s.rg .DMA_RING_base ch + 64 * slot) a with
  | .ok (pa, _) => .ok pa
  | .error k => .error k

/-- The command a descriptor served has failed (R388, R377). -/
def State.dmaFailCmd (s : State) (uid : Option Nat) (status : Nat) : State :=
  match uid with
  | none => s
  | some u => match s.cmdByUid u with
    | none => s
    | some c => s.cancelCmd c status false

/-- Write a completed entry into its slot; the write is charged to the ring's Camp (R374, R386). -/
def State.dmaPutEntry (s : State) (ch slot : Nat) (e : Bytes) : State :=
  match s.dmaSlotDa ch slot .write with
  | .ok pa => (s.memPut pa e).chargeDev (s.rg .DMA_RING_camp ch) pa 32
  | .error k => s.xltFault 16 (s.rg .DMA_RING_camp ch) (s.rg .DMA_RING_base ch + 64 * slot) k none

/-- Issue a descriptor's completion: the entry is written after every write has been acknowledged (R384). -/
def State.dmaIssue (s : State) (ch : Nat) (d : DmaActive) : State :=
  let d := { d with completing := true, staged := [], draining := false }
  (s.dmaPutEntry ch d.slot (dmaEntry (d.word0 + 2) d.status d.acked d.cookie)).setDma ch (some d)

/-- The link's max payload size (Table 11-1). -/
def State.mps (s : State) : Nat := min 512 (128 * 2 ^ bits (mgetD 0 7 s.host.cfg) 5 3)

/-- Host writes of a byte string in requests of at most the max payload size, ends excepted (R383). -/
def hostChunks (fn mps addr : Nat) : Nat → Bytes → List Out
  | 0, _ => []
  | fuel + 1, b =>
    if b.isEmpty then [] else
    let k := mps - addr % mps
    .hostWrite fn addr (b.take k) :: hostChunks fn mps (addr + (b.take k).length) fuel (b.drop k)

/-- Write bytes to device memory through a Camp's tables, page by page: what was written, and the fault that stopped it. -/
def dmaDevWrite (camp : Nat) : Nat → Nat → Bytes → State → State × Nat × Option Nat
  | 0, _, _, s => (s, 0, none)
  | fuel + 1, v, b, s =>
    if b.isEmpty then (s, 0, none) else
    match s.xlate none camp v .write with
    | .error k => (s.xltFault 16 camp v k none, 0, some (xltStatus k))
    | .ok (pa, x) =>
      let room := (x.size - (v - x.view)) / 2
      let now := b.take room
      let s := (s.memPut pa now).chargeDev camp pa now.length
      let (s, n, e) := dmaDevWrite camp fuel (v + 2 * now.length) (b.drop room) s
      (s, now.length + n, e)

/-- Drain `n` staged bytes to the destination. -/
def State.dmaDrain (s : State) (ch : Nat) (d : DmaActive) (n : Nat) : State × DmaActive :=
  let now := d.staged.take n
  let rest := d.staged.drop n
  let camp := s.rg .DMA_RING_camp ch
  if now.isEmpty then (s, d)
  else if bits d.word0 9 1 = 1 then
    match s.dmaFn camp with
    | none => (s, { d with status := stHostDetached, staged := [], completing := true })
    | some f => ((s.emits (hostChunks f s.mps (d.dst + d.written) (now.length + 1) now)).chargeHost camp now.length,
                 { d with staged := rest, written := d.written + now.length })
  else
    let (s, k, e) := dmaDevWrite camp (now.length + 1) (d.dst + 2 * d.written) now s
    match e with
    | none => (s, { d with staged := rest, written := d.written + k, acked := d.acked + k })
    | some st => (s, { d with staged := [], written := d.written + k, acked := d.acked + k, status := st })

/-- A channel's marks in bytes; a pair out of range acts as the defaults (Table 13-13). -/
def State.dmaMarks (s : State) (ch : Nat) : Nat × Nat :=
  let a := s.rg .DMA_MARKS_start_mark ch
  let b := s.rg .DMA_MARKS_stop_mark ch
  if a = 0 || 128 < a || a ≤ b then (16 * 256, 4 * 256) else (a * 256, b * 256)

/-- Run the write side under the marks (R383): with the source exhausted, or a failure on the source side, everything drains; otherwise it
starts at start_mark and pauses at stop_mark. When the last byte of a device destination has its response, or nothing was written to the
host, the completion is issued; a host destination waits for its flush read (R384). -/
def State.dmaPace (s : State) (ch : Nat) (d : DmaActive) : State :=
  let done := decide (d.len ≤ d.readOff) || d.status != 0
  let (start, stop) := s.dmaMarks ch
  let fill := d.staged.length
  let n := if done then fill else if start ≤ fill then fill - stop else 0
  let (s, d) := s.dmaDrain ch d n
  let d := { d with draining := false }
  if (done || d.status != 0) && d.staged.isEmpty && !d.completing then
    if bits d.word0 9 1 = 1 && 0 < d.written then s.setDma ch (some { d with draining := true })
    else s.dmaIssue ch d
  else if d.completing then s.dmaIssue ch d
  else s.setDma ch (some d)

/-- Would the descriptor charge an exhausted component (R386)? Host bytes and the device side's tier by its physical address. -/
def State.dmaHeld (s : State) (ch : Nat) (w src dst : Nat) : Bool :=
  let camp := s.rg .DMA_RING_camp ch
  let dev (v : Nat) : Bool := match s.xlate none camp v .read with
    | .ok (pa, _) => s.isExhausted camp (if pa < 2 ^ 40 then 1 else 2)
    | .error _ => false
  let srcHost := bits w 8 1 = 1
  let dstHost := bits w 9 1 = 1
  ((srcHost || dstHost) && s.isExhausted camp 3) || (!srcHost && bits w 2 6 == 2 && dev src) || (!dstHost && dev dst)

/-- A channel takes the next posted entry, when it is of the given type or malformed (R376, R377, R380 to R382, R386, R387). -/
def State.dmaTake (s : State) (ch typ : Nat) : State :=
  if !s.alive || 96 ≤ ch || s.rg .DMA_RING_enable ch = 0 || s.rg .DMA_CHSTAT_halted ch = 1 || mhas ch s.io.dma ||
      s.dmaTaken ch = s.dmaPosted ch then s
  else
    let camp := s.rg .DMA_RING_camp ch
    let n := s.rg .DMA_RING_size_log2 ch
    let t := s.dmaTaken ch
    let slot := t % 2 ^ n
    let lap := dmaLap t n
    let uid := ((mgetD [] ch s.io.serves).head?).join
    let next (s : State) : State :=
      let s := s.setTaken ch (t + 1)
      { s with io := { s.io with serves := mput ch (mgetD [] ch s.io.serves).tail s.io.serves } }
    match s.dmaSlotDa ch slot .read with
    | .error k => (next s).xltFault 16 camp (s.rg .DMA_RING_base ch + 64 * slot) k none
    | .ok pa =>
      let e := s.memGet pa 32
      let w := word32 e 0
      if dmaMalformed ch lap e || s.memPoisoned pa 32 then
        if camp = 0 then
          if s.memPoisoned pa 32 then s.halt 7 0x0C ch 0 pa else s.halt 6 0x11 ch 0 slot
        else
          let s := (next s).chargeDev camp pa 32
          let w0 := lap % 2 + 2 + 4 * bits w 2 6 + 65536 * lap
          let s := s.dmaPutEntry ch slot (dmaEntry w0 stMalformedEntry 0 0)
          (s.event ch).dmaFailCmd uid stMalformedEntry
      else if bits w 2 6 != typ || s.dmaHeld ch w (word64 e 2) (word64 e 4) then s
      else
        let s := (next s).chargeDev camp pa 32
        let d : DmaActive := ⟨slot, w, word32 e 1, word64 e 2, word64 e 4, word64 e 6, 0, [], 0, 0, false, s.ticks, 0, false, uid⟩
        let host := bits w 8 1 = 1 || bits w 9 1 = 1
        if host && (s.dmaFn camp).isNone then s.dmaIssue ch { d with status := stHostDetached }
        else
          let s := match bits w 8 1, s.dmaFn camp with
            | 1, some f => s.emit (.hostRead f d.src d.len)
            | _, _ => s
          s.setDma ch (some d)

/-- DMA_COPY: a channel takes a COPY descriptor. -/
def execDmaCopy (ch : Nat) (s : State) : Res := .next (s.dmaTake ch 2)
/-- DMA_ZERO: a channel takes a ZERO descriptor. -/
def execDmaZero (ch : Nat) (s : State) : Res := .next (s.dmaTake ch 3)

/-- Bytes a channel can read next from device memory at a view DA: at most `n`, inside one page, up to a poisoned line. -/
def State.dmaDevRead (s : State) (camp v n : Nat) : Except Nat (Bytes × Bool × Nat) :=
  match s.xlate none camp v .read with
  | .error k => .error k
  | .ok (pa, x) =>
    let room := min n ((x.size - (v - x.view)) / 2)
    -- whole lines before the first poisoned one
    let firstBad := (List.range (room / 128 + 2)).find? (fun i =>
      let a := pa / 2 / 128 * 128 + 128 * i
      decide (a < pa / 2 + room) && poisoned s.m.poison a 128)
    match firstBad with
    | none => .ok (s.memGet pa room, false, pa)
    | some i => .ok (s.memGet pa (pa / 2 / 128 * 128 + 128 * i - pa / 2), true, pa)

/-- Latch the first bus error (Tables 13-16, 13-17). -/
def State.latchBus (s : State) (ch dir flush kind addr : Nat) : State :=
  let s := s.event 166
  if s.rg .DMA_BUSERR_valid 0 = 1 then s else
  (((((s.rs .DMA_BUSERR_channel 0 ch).rs .DMA_BUSERR_dir 0 dir).rs .DMA_BUSERR_flush 0 flush).rs .DMA_BUSERR_kind 0 kind).rs
    .DMA_BUSERR_valid 0 1).rs .DMA_BUSERR_ADDR_addr 0 addr

/-- A bus error of a request of a channel's descriptor: logged, AER reported, staging discarded, the descriptor completes with DATA_LOSS, and
the channel halts (R388, R389, R505). -/
def State.dmaBus (s : State) (ch : Nat) (d : DmaActive) (kind addr : Nat) (flush : Bool) : State :=
  let camp := s.rg .DMA_RING_camp ch
  let s := s.latchBus ch (if flush || bits d.word0 8 1 = 1 then 0 else 1) (if flush then 1 else 0) kind addr
  let s := (s.countErr 3).logErr 3 0x0C stDataLoss kind camp addr ch
  let s := s.emit (.aer (match kind with
    | 1 => .unsupportedRequest
    | 2 => .completerAbort
    | 3 => .completionTimeout
    | _ => .poisonedTlp))
  (s.rs .DMA_CHSTAT_halted ch 1).dmaIssue ch { d with status := stDataLoss }

/-- DMA_READ_COMPLETION: the read side receives bytes. A host source brings `data` (`ep`: a poisoned completion, a bus error); a device source
brings what memory holds, up to a poisoned line; ZERO brings zeros. The staging buffer holds 32 KiB, and the write side then runs under
the marks (R383, R388). -/
def execDmaReadCompletion (ch : Nat) (data : Bytes) (ep : Bool) (s : State) : Res :=
  if !s.alive then .next s else
  match mget ch s.io.dma with
  | none => .next s
  | some d =>
    if d.completing || d.draining || d.len ≤ d.readOff || d.status != 0 then .next s else
    let camp := s.rg .DMA_RING_camp ch
    let room := min (32768 - d.staged.length) (d.len - d.readOff)
    if room = 0 then .next s
    else if bits d.word0 8 1 = 1 then
      if ep then .next (s.dmaBus ch d 4 (d.src + d.readOff) false)
      else
        let b := data.take room
        let s := s.chargeHost camp b.length
        .next (s.dmaPace ch { d with staged := d.staged ++ b, readOff := d.readOff + b.length,
                                     lastIn := if b.isEmpty then d.lastIn else s.ticks })
    else if bits d.word0 2 6 = 3 then
      .next (s.dmaPace ch { d with staged := d.staged ++ List.replicate room 0, readOff := d.readOff + room, lastIn := s.ticks })
    else match s.dmaDevRead camp (d.src + 2 * d.readOff) room with
      | .error k =>
        .next ((s.xltFault 16 camp (d.src + 2 * d.readOff) k none).dmaPace ch { d with status := xltStatus k })
      | .ok (b, bad, pa) =>
        let s := s.chargeDev camp pa b.length
        .next (s.dmaPace ch { d with staged := d.staged ++ b, readOff := d.readOff + b.length, lastIn := s.ticks,
                                     status := if bad then stDataLoss else 0 })

/-- DMA_IDLE_DRAIN: a fill below start_mark that no byte has entered for idle_ticks is drained completely (R383). -/
def execDmaIdleDrain (dt ch : Nat) (s : State) : Res :=
  let s := s.advance dt
  if !s.alive then .next s else
  match mget ch s.io.dma with
  | none => .next s
  | some d =>
    if d.completing || d.staged.isEmpty || (s.dmaMarks ch).1 ≤ d.staged.length ||
        s.ticks < d.lastIn + s.rg .DMA_MARKS_idle_ticks ch then .next s
    else
      let (s, d) := s.dmaDrain ch d d.staged.length
      if d.completing then .next (s.dmaIssue ch d) else .next (s.setDma ch (some d))

/-- DMA_FLUSH_READ_RETURN: the zero-length read behind the last host write has returned; the host writes are acknowledged, and the completion is
issued (R384, R385). -/
def execDmaFlushReadReturn (ch : Nat) (s : State) : Res :=
  if !s.alive then .next s else
  match mget ch s.io.dma with
  | none => .next s
  | some d => if d.draining && !d.completing then .next (s.dmaIssue ch { d with acked := d.written }) else .next s

/-- DMA_COMPLETION_WRITE_RESPONSE: the completion entry's write has its response; the channel may start its next descriptor, the event is raised when
the descriptor asks for it or failed, and a failed descriptor fails the command it served (R382, R385, R388). -/
def execDmaCompletionWriteResponse (ch : Nat) (s : State) : Res :=
  if !s.alive then .next s else
  match mget ch s.io.dma with
  | none => .next s
  | some d =>
    if !d.completing then .next s
    else
      let s := s.setDma ch none
      let s := if bits d.word0 10 1 = 1 || d.status != 0 then s.event ch else s
      .next (if d.status = 0 then s else s.dmaFailCmd d.uid d.status)

/-- DMA_BUS_ERROR: the host link answers a request of the channel with Unsupported Request (1), Completer Abort (2) or a poisoned completion (4), or
does so on the flush read (R388, Table 13-7). -/
def execDmaBusError (ch kind : Nat) (s : State) : Res :=
  if !s.alive || !(kind == 1 || kind == 2 || kind == 4) then .next s else
  match mget ch s.io.dma with
  | none => .next s
  | some d =>
    if d.completing || 64 ≤ ch then .next s
    else if d.draining then .next (s.dmaBus ch d kind (d.dst + d.written) true)
    else if bits d.word0 8 1 = 1 then .next (s.dmaBus ch d kind (d.src + d.readOff) false)
    else .next (s.dmaBus ch d kind (d.dst + d.written) false)

/-- DMA_COMPLETION_TIMEOUT: a read, or the flush read, has no completion within the timeout the host set in Device Control 2, 50 ms by default; a bus
error of kind 3 (R388). The timeout ranges are the PCIe standard's: the row is the link's word that the time has passed, at least the default
when the host has set none. -/
def execDmaCompletionTimeout (dt ch : Nat) (s : State) : Res :=
  let s := s.advance dt
  if !s.alive then .next s else
  match mget ch s.io.dma with
  | none => .next s
  | some d =>
    let due := mgetD 0 8 s.host.cfg % 16 != 0 || d.lastIn + 50000 * ticksPerUs ≤ s.ticks
    if d.completing || 64 ≤ ch || !due then .next s
    else if d.draining then .next (s.dmaBus ch d 3 (d.dst + d.written) true)
    else if bits d.word0 8 1 = 1 then .next (s.dmaBus ch d 3 (d.src + d.readOff) false)
    else .next s

end Sys2Proof.Machine
end

