-- ==== Sys2Proof/Machine/HostLink.lean ====
section
/-! DEFINITION. The link, the functions and their resets (Host Link and Queue Pairs; Operating Modes, Resets and
Errors): configuration requests, link-up and link-down, PERST_N, function-level resets, VFs, PTM, unsupported accesses. -/

namespace Sys2Proof.Machine

/-- Key of a configuration field of a function. -/
def CfgReg.code : CfgReg → Nat
  | .vendorDevice => 0 | .classRevision => 1 | .subsystem => 2 | .command => 3 | .bar0 => 4 | .bar2 => 5
  | .msixControl => 6 | .deviceControl => 7 | .deviceControl2 => 8 | .linkStatus => 9 | .sriovControl => 10
  | .atsControl => 11 | .aerMask => 12 | .ptmControl => 13 | .pmControl => 14 | .vcControl => 15
  | .capability i => 16 + i % 32

/-- The number of functions that answer: the PF and the enabled VFs. -/
def State.fnOk (s : State) (f : Nat) : Bool := f == 0 || decide (f ≤ s.host.link.vfs)

/-- Store a configuration field. -/
def State.cfgSet (s : State) (f : Nat) (r : CfgReg) (v : Nat) : State :=
  { s with host := { s.host with cfg := mputD 0 (f * 64 + r.code) v s.host.cfg } }

/-- Read a configuration field. -/
def State.cfgGet (s : State) (f : Nat) (r : CfgReg) : Nat := mgetD 0 (f * 64 + r.code) s.host.cfg

/-- Is a capability of Table 11-1 advertised? Numbers follow the rows of the table from 0; ACS, AtomicOps, Resizable BAR
(17), MSI and INTx (18), PASID and PRI (19), link IDE (20) and L1 substates (21) are not. -/
def capAdvertised (f i : Nat) : Bool :=
  decide (i ≤ 16) && (i != 13 || f == 0) && (i != 9 || f == 0)

/-! ### Retained completions at a detach (Table 11-9, R341) -/

/-- The Camp's entries of a list of Camp and entry pairs. -/
def entriesOf (c : Nat) (l : List (Nat × Cqe)) : List Cqe := (l.filter (fun p => p.1 == c)).map (·.2)

/-- Every I/O entry not yet covered by a head doorbell, then every entry that waited in the write engine, enters its
Camp's store; what was being redelivered stays oldest. A full store keeps its oldest and counts the rest as lost. -/
def State.retainAll (s : State) : State :=
  let un := (s.host.cqs.filter (fun q => q.1 % 65536 != 0)).flatMap (fun q => q.2.unacked)
  let adminUn := (s.host.cqs.filter (fun q => q.1 % 65536 == 0)).flatMap (fun q => q.2.unacked.filter (fun p => p.2.ret))
  let old := (adminUn ++ un).filter (fun p => p.2.ret)
  let new := un.filter (fun p => !p.2.ret) ++ (s.host.engine.filter (fun w => w.e.sqId != 0)).map (fun w => (w.camp, w.e))
  let cs := ((old ++ new).map (·.1)).eraseDups
  cs.foldl (fun s c =>
    let l := entriesOf c old ++ mgetD [] c s.host.retained ++ entriesOf c new
    let cap := s.rg .HIF_RETAIN_capacity c
    let keep := (l.take cap).map (fun e => { e with ret := true, sqHead := 0 })
    ({ s with host := { s.host with retained := mputD [] c keep s.host.retained } }).ra .HIF_RETAIN_lost c (l.length - cap)) s

/-- Does a command still need host memory (Table 11-9): data in not yet read, data out not yet written, or an execution with a
RESULT sink bound to a host ring? -/
def needsHost (s : State) (c : Cmd) : Bool :=
  match c.wait with
  | .fetched => c.op != 0x41 && c.op != 0x47 && c.op != 0x49
  | .exec id => match mget id s.execs with
    | some e => e.ring != 0xFFFF
    | none => false
  | .thread _ _ | .stream => true
  | .digest _ => bits (c.cdw.getD 9 0) 8 1 != 1
  | .after _ | .flush | .sqGone _ | .teardown _ | .drain => false

/-- The end of every Camp attachment that a test on the function selects (R324). -/
def State.endAttach (s : State) (p : Nat → Bool) : State :=
  s.camps.foldl (fun s ci =>
    if s.rg .HIF_ATTACH_attached ci.1 = 1 && p (s.rg .HIF_ATTACH_function ci.1) then
      let s := s.rs .HIF_ATTACH_attached ci.1 0
      { s with host := { s.host with repost := mdel ci.1 s.host.repost } }
    else s) s

/-- The reset of a function's own registers and configuration (R320). -/
def State.clearFn (s : State) (f : Nat) : State :=
  let h := s.host
  let s := { s with host := { h with
    cfg := h.cfg.filter (fun p => p.1 / 64 != f)
    msix := h.msix.filter (fun p => p.1 / 2048 != f)
    sqs := h.sqs.filter (fun p => p.1 / 65536 != f)
    cqs := h.cqs.filter (fun p => p.1 / 65536 != f)
    rings := h.rings.filter (fun p => p.1 / 65536 != f)
    engine := h.engine.filter (fun w => w.fn != f)
    streams := h.streams.filter (fun w => w.fn != f) } }
  let s := (s.rs .HIF_CTL_enable f 0).rs .HIF_STATUS_ready f 0
  { s with regs := (s.regs.setRaw .HIF_ASQ f 0).setRaw .HIF_ACQ f 0 }

/-- The functions that exist. -/
def State.fns (s : State) : List Nat := List.range (s.host.link.vfs + 1)

/-- DMA descriptors of host-facing channels complete at once with HOST_DETACHED; the bytes acknowledged stand (R387). -/
def State.dropHostDma (s : State) : State :=
  s.io.dma.foldl (fun s p =>
    if p.1 < 64 && !p.2.completing then s.dmaIssue p.1 { p.2 with status := stHostDetached } else s) s

/-- PERST_N or link-down: every host-facing item ends under R320 and Table 11-9; in SERVICE the device detaches (R340). The
engine, Camps, plans and retained records are not touched (R241). -/
def State.detach (s : State) : State :=
  let s := s.retainAll
  let victims := s.host.cmds.filter (needsHost s)
  let s := { s with host := { s.host with
    cmds := s.host.cmds.map (fun (c : Cmd) => { c with gone := true }), engine := [] } }
  let s := (s.fns.foldl State.clearFn s).endAttach (fun _ => true)
  let s := victims.foldl (fun s c => match s.cmdByUid c.uid with
    | some c => s.cancelCmd c stHostDetached false | none => s) s
  let s := settle s.host.cmds.length s
  let s := { s with host := { s.host with
    cfg := [], msix := [], sqs := [], cqs := [], rings := [], engine := [], streams := [], arb := ⟨0, 0, 0, 0, []⟩,
    link := { s.host.link with up := false, vfs := 0, ide := [] } } }
  let s := ((s.rs .HIF_LINK_ide_streams 0 0).dropHostDma).endSessions
  if s.mode == .service then { s with mode := .detached } else s

/-- The end of a function's queues by a function reset: its outstanding commands are cancelled and no completion is written for
them (R340). -/
def State.killCmds (s : State) (f : Nat) : State :=
  let dead := s.host.cmds.filter (fun c => c.ref.fn == f && !c.gone)
  let s := { s with execs := mmap (fun _ e => match e.by_ with
    | .command u => if dead.any (fun c => c.uid == u) then
        { e with failed := e.failed.or (some stAborted), cancelled := true } else e
    | .standing _ _ | .service _ _ _ _ => e) s.execs }
  let drain := match s.host.drain with
    | some d => if dead.any (fun c => c.uid == d.uid) then none else some d
    | none => none
  let s := { s with host := { s.host with cmds := s.host.cmds.filter (fun c => !(c.ref.fn == f && !c.gone)), drain := drain } }
  settle s.host.cmds.length s

/-- A function reset (FLR, or HIF_CTL.enable cleared): that function's host-facing state; the PF's takes every VF with it,
clears VF Enable, and moves SERVICE to DETACHED (R320, R340, Table 16-2). -/
def State.resetFn (s : State) (f : Nat) : State :=
  let fs := if f = 0 then s.fns else [f]
  let s := fs.foldl (fun s g => ((s.killCmds g).clearFn g)) s
  let s := s.endAttach (fun g => fs.contains g)
  let s := if f = 0 then
      ({ s with host := { s.host with link := { s.host.link with vfs := 0, ide := [] } } }.rs .HIF_LINK_ide_streams 0 0).endSessions
    else s
  let s := if f = 0 && s.mode == .service then { s with mode := .detached } else s
  s.event 133

/-! ### Meanings -/

/-- CONFIG_REQUEST: a configuration read or write from the host (R3, R316, R319). A VF that is not enabled does not answer; until
the function is ready the answer is Request Retry Status; in HALTED only the PF answers. A write of VF Enable, or of Initiate
Function Level Reset, has its effect through VF_ENABLE, VF_DISABLE and FUNCTION_LEVEL_RESET. -/
def execConfigRequest (f : Nat) (q : CfgReq) (s : State) : Res :=
  if s.mode == .reset || !s.host.link.up then .next s
  else if !s.fnOk f || (s.mode == .halted && f != 0) then .next (s.emit (.cfg f .unsupported))
  else if s.ticks < (if f = 0 then s.host.link.readyAt else s.host.link.vfReadyAt) then .next (s.emit (.cfg f .retry))
  else match q.write with
    | some v => match q.reg with
      | .vendorDevice | .classRevision | .subsystem | .linkStatus | .capability _ => .next (s.emit (.cfg f .written))
      | .pmControl =>
        .next (((if v % 4 = 0 || v % 4 = 3 then s.cfgSet f q.reg (v % 4) else s)).emit (.cfg f .written))
      | .vcControl => .next (((s.cfgSet f q.reg v).rs .HIF_LINK_vc1 0 (v % 2)).emit (.cfg f .written))
      | .atsControl => .next (((s.cfgSet f q.reg v).rs .HIF_LINK_ats 0 (bits v 15 1)).emit (.cfg f .written))
      | .command | .bar0 | .bar2 | .msixControl | .deviceControl | .deviceControl2 | .sriovControl | .ptmControl
      | .aerMask => .next ((s.cfgSet f q.reg v).emit (.cfg f .written))
    | none =>
      let v := match q.reg with
        | .vendorDevice => 0x1BE7 + 65536 * (if f = 0 then 0x9640 else 0x9641)
        | .classRevision => 0x02 + 256 * 0x120000
        | .subsystem => mgetD 0x1BE7 (65536 + 2) s.host.cfg
        | .linkStatus => s.rg .HIF_LINK_gen 0 + 16 * s.rg .HIF_LINK_width 0
        | .capability i => if capAdvertised f i then 1 else 0
        | .command | .bar0 | .bar2 | .msixControl | .deviceControl | .deviceControl2 | .sriovControl | .atsControl
        | .ptmControl | .pmControl | .vcControl | .aerMask => s.cfgGet f q.reg
      .next (s.emit (.cfg f (.value v)))

/-- LINK_UP: the link reaches DL_Active with a negotiated speed, width and options (R317, R319, Table 11-17); event source 131. It
needs PERST_N high, a good REFCLK and a width of 4, 8 or 16 lanes. The PF becomes ready within 200 ms in BOOT and within 20 ms in
every later mode; the delay below the bound is free. -/
def execLinkUp (dt gen width : Nat) (flit vc1 tag14 ats : Bool) (s : State) : Res :=
  let s := s.advance dt
  if s.mode == .reset || s.host.link.up || !s.pins.perstHigh || !s.pins.refclkOk ||
      !(width == 4 || width == 8 || width == 16) || gen = 0 || 6 < gen then .next s
  else
    let (k, s) := s.draw
    let bound := if s.mode == .boot then 5000000 else 500000
    let s := { s with host := { s.host with link :=
      { s.host.link with up := true, readyAt := s.ticks + min (Config.freeDelay k) bound, vfs := 0, ide := [] } } }
    let s := (s.rs .HIF_LINK_gen 0 gen).rs .HIF_LINK_width 0 width
    let s := (s.rs .HIF_LINK_flit 0 (if flit || gen = 6 then 1 else 0)).rs .HIF_LINK_vc1 0 (if vc1 then 1 else 0)
    let s := (s.rs .HIF_LINK_tag14 0 (if tag14 then 1 else 0)).rs .HIF_LINK_ats 0 (if ats then 1 else 0)
    .next (s.event 131)

/-- LINK_TRAINING_FAILURE: a link that cannot train at x4 or wider is held in Detect and its cause is logged; the mode does not
change (R317). The manual gives no class or detail code for the entry: both are free, the class below device-fatal. -/
def execLinkTrainingFailure (width : Nat) (s : State) : Res :=
  if s.mode == .reset || s.host.link.up || 4 ≤ width then .next s
  else
    let (k, s) := s.draw
    let v := (Config.freeWord k).toNat
    let cls := 1 + v % 4
    .next ((s.countErr cls).logErr cls 0x0D (v / 4 % 2 ^ 14) (v / 2 ^ 16 % 2 ^ 16) 0 0 0)

/-- LINK_DOWN: a surprise link-down resets host-facing state and, in SERVICE, detaches the device (R340, R488). -/
def execLinkDown (s : State) : Res :=
  if s.mode == .reset || !s.host.link.up then .next s
  else .next (((s.detach).ra .HIF_LINK_link_downs 0 1).event 132)

/-- PERST_ASSERT: as a link-down; PERST_N has no effect in RESET (R320, R340, R517). -/
def execPerstAssert (s : State) : Res :=
  let s := { s with pins := { s.pins with perstHigh := false } }
  if s.mode == .reset then .next s else .next (s.detach.event 132)

/-- PERST_DEASSERT: link training may start once REFCLK has been good for 100 µs (R517). -/
def execPerstDeassert (refclkOk : Bool) (s : State) : Res :=
  .next { s with pins := { s.pins with perstHigh := true, refclkOk := refclkOk } }

/-- FUNCTION_LEVEL_RESET of a function (R320, R340). -/
def execFunctionLevelReset (f : Nat) (s : State) : Res :=
  if s.mode == .reset || !s.host.link.up || !s.fnOk f then .next s else .next (s.resetFn f)

/-- VF_ENABLE: the host sets VF Enable for n VFs, at most 127; they answer within 1 ms (R316, R319). -/
def execVfEnable (n : Nat) (s : State) : Res :=
  if s.mode == .reset || s.mode == .halted || !s.host.link.up || n = 0 || 127 < n then .next s
  else
    let (k, s) := s.draw
    .next { s with host := { s.host with link :=
      { s.host.link with vfs := n, vfReadyAt := s.ticks + min (Config.freeDelay k) 25000 } } }

/-- VF_DISABLE: every VF ends with its queues, rings, commands and attachments (R324, R340). -/
def execVfDisable (s : State) : Res :=
  if s.mode == .reset || s.host.link.vfs = 0 then .next s
  else
    let fs := (List.range s.host.link.vfs).map (· + 1)
    let s := fs.foldl (fun s g => ((s.killCmds g).clearFn g)) s
    let s := s.endAttach (fun g => fs.contains g)
    .next ({ s with host := { s.host with link := { s.host.link with vfs := 0 } } })

/-- Depth of an admin queue from size_m1: a value of 0 acts as 1 (Table 11-16). -/
def adminDepth (m1 : Nat) : Nat := max m1 1 + 1

/-- Set HIF_CTL.enable: the admin queues start; from DETACHED the PF's enable enters SERVICE (R321). -/
def State.hifEnable (s : State) (f : Nat) : State :=
  if !s.alive || !s.host.link.up || !s.fnOk f || s.rg .HIF_CTL_enable f = 1 then s
  else
    let k := fq f 0
    let sq : Sq := ⟨0, 0, adminDepth (s.rg .HIF_ASQ_size_m1 f), 4096 * s.rg .HIF_ASQ_base f, 0, 0⟩
    let cq : Cq := ⟨0, adminDepth (s.rg .HIF_ACQ_size_m1 f), 4096 * s.rg .HIF_ACQ_base f, 0, true, 0, 0, 1, 0, 0, 0, []⟩
    let s := { s with host := { s.host with sqs := mput k sq s.host.sqs, cqs := mput k cq s.host.cqs } }
    let s := ((s.rs .HIF_CTL_enable f 1).rs .HIF_STATUS_ready f 1).event 133
    if f = 0 && s.mode == .detached then { s with mode := .service } else s

/-- Clear HIF_CTL.enable: a function reset (R340). -/
def State.hifDisable (s : State) (f : Nat) : State :=
  if s.mode == .reset || s.rg .HIF_CTL_enable f = 0 then s else s.resetFn f

/-- HIF_ENABLE: the host writes 1 to HIF_CTL.enable of a function (R321). -/
def execHifEnable (f : Nat) (s : State) : Res := .next (s.hifEnable f)

/-- HIF_DISABLE: the host writes 0 to HIF_CTL.enable of a function (R320, R340). -/
def execHifDisable (f : Nat) (s : State) : Res := .next (s.hifDisable f)

/-- PTM_MEASURE: the offset between PTM master time and DEVTIME is measured. An offset of at most 1 ms slews DEVTIME toward master
time, by at most 100 ppm of the interval; a larger one steps it and sets HIF_PTM.stepped (R318). -/
def execPtmMeasure (dt : Nat) (master : BitVec 64) (s : State) : Res :=
  let s := s.advance dt
  if !s.alive || !s.host.link.up || s.rg .HIF_PTM_enable 0 = 0 then .next s
  else
    let off : Int := (master.toNat : Int) - (s.devtime.toNat : Int)
    let lim : Int := (2 ^ 31 : Nat)
    let s := s.rs .HIF_PTM_offset 0 (ofInt 32 (max (-lim) (min (lim - 1) off)))
    if off ≤ 1000000 && -1000000 ≤ off then
      let step : Int := (max 1 (s.rg .HIF_PTM_interval_ms 0) * 100 : Nat)
      let move := max (-step) (min step off)
      .next { s with devtime := BitVec.ofInt 64 ((s.devtime.toNat : Int) + move) }
    else .next ({ s.rs .HIF_PTM_stepped 0 1 with devtime := master }.event 135)

/-- An access the device does not take: a read returns all ones, a write has no effect, and it is counted as a correctable error
(R7, R322). -/
def State.unsupported (s : State) (f : Nat) (write : Bool) : State :=
  let s := s.countErr 1
  if write then s else s.emit (.mmio f (2 ^ 64 - 1))

/-- UNSUPPORTED_HOST_ACCESS: a host access of a size or to an offset the BARs do not take (R7, R322). -/
def execUnsupportedHostAccess (f _bar _off _size : Nat) (write : Bool) (s : State) : Res :=
  if s.mode == .reset || !s.host.link.up || !s.fnOk f then .next s else .next (s.unsupported f write)

/-- IDE_CHECK_FAILED: an integrity failure of a selective stream makes the stream insecure; AER reports it and the log names the
stream (R473, Table 16-10). The manual gives no class and no status for the entry: both are free, the class below
device-fatal. -/
def execIdeCheckFailed (stream : Nat) (s : State) : Res :=
  if s.mode == .reset || !s.host.link.ide.any (fun i => i.id == stream && i.secure) then .next s
  else
    let ide := s.host.link.ide.map (fun i => if i.id == stream then { i with secure := false } else i)
    let s := { s with host := { s.host with link := { s.host.link with ide := ide } } }
    let s := s.rs .HIF_LINK_ide_streams 0 (ide.filter (·.secure)).length
    let (k, s) := s.draw
    let cls := 1 + (Config.freeWord k).toNat % 4
    .next (((s.countErr cls).logErr cls 0x0D ((Config.freeWord k).toNat / 4 % 2 ^ 14) stream 0 0 0).emit (.aer .ideCheckFailed))

/-- MALFORMED_TLP: a TLP the PCIe rules reject (malformed, failed ECRC, unexpected, overflow, link error) is dropped and reported as
those rules define (R505, Table 16-10). -/
def execMalformedTlp (kind : AerError) (s : State) : Res :=
  if s.mode == .reset || !s.host.link.up then .next s
  else match kind with
    | .malformedTlp | .ecrcFailed | .unexpectedCompletion | .receiverOverflow | .linkError => .next (s.emit (.aer kind))
    | .uncorrectableInternal | .completionTimeout | .unsupportedRequest | .completerAbort | .poisonedTlp
    | .ideCheckFailed => .next s

end Sys2Proof.Machine
end

