-- ==== Sys2Proof/Machine/Queues.lean ====
section
/-! DEFINITION. Queue pairs, result rings, MSI-X coalescing and the admission of commands (Host Link and Queue Pairs; Command
Set and Status). -/

namespace Sys2Proof.Machine

/-- I/O queue pairs of a function (R325). -/
def ioQueues (f : Nat) : Nat := if f = 0 then 4096 else 64
/-- Result rings of a function (R337). -/
def ringCount (f : Nat) : Nat := if f = 0 then 4096 else 64
/-- MSI-X vectors of a function (R335). -/
def vectorCount (f : Nat) : Nat := if f = 0 then 2048 else 64

/-! ### Doorbells (R331, Table 11-6) -/

/-- A doorbell write that breaks Table 11-6: ignored, counted, the first latched, event source 136. -/
def State.dbErr (s : State) (f q kind : Nat) : State :=
  let s := s.ra .QUE_DBERR_count f 1
  let s := if s.rg .QUE_DBERR_valid f = 1 then s else
    ((s.rs .QUE_DBERR_qid f q).rs .QUE_DBERR_kind f kind).rs .QUE_DBERR_valid f 1
  s.event 136

/-- The 32-bit value of a doorbell write: a 32-bit write, or a 64-bit write whose upper half is 0 (R331). -/
def doorbellValue (size v : Nat) : Option Nat :=
  if size = 4 then some (v % 2 ^ 32) else if size = 8 && v < 2 ^ 32 then some v else none

/-- Slots from index `a` forward to index `b` in a queue of depth `d`. -/
def slotsFrom (d a b : Nat) : Nat := if a ≤ b then b - a else b + d - a

/-- SQ_TAIL_DOORBELL: the tail moves to the value written; the device fetches up to it (R331). -/
def execSqTailDoorbell (f q size v : Nat) (s : State) : Res :=
  if s.mode == .reset || s.mode == .halted || !s.host.link.up || !s.fnOk f then .next s
  else if ioQueues f < q then .next (s.unsupported f true)
  else match doorbellValue size v with
    | none => .next (s.unsupported f true)
    | some t => match mget (fq f q) s.host.sqs with
      | none => .next (s.dbErr f q 3)
      | some sq =>
        if sq.depth ≤ t then .next (s.dbErr f q 1)
        else .next ({ s with host := { s.host with sqs := mput (fq f q) { sq with tail := t } s.host.sqs } }.event
          (if q = 0 then 128 else 129))

/-- CQ_HEAD_DOORBELL: the host has consumed the entries before the value written; space frees, and the entries it covers are no
longer retained at a detach (R329, R331). -/
def execCqHeadDoorbell (f q size v : Nat) (s : State) : Res :=
  if s.mode == .reset || s.mode == .halted || !s.host.link.up || !s.fnOk f then .next s
  else if ioQueues f < q then .next (s.unsupported f true)
  else match doorbellValue size v with
    | none => .next (s.unsupported f true)
    | some h => match mget (fq f q) s.host.cqs with
      | none => .next (s.dbErr f q 3)
      | some cq =>
        if cq.depth ≤ h || slotsFrom cq.depth cq.head cq.tail < slotsFrom cq.depth cq.head h then .next (s.dbErr f q 2)
        else 
          let cq' := { cq with head := h, unacked := cq.unacked.drop (slotsFrom cq.depth cq.head h) }
          .next ({ s with host := { s.host with cqs := mput (fq f q) cq' s.host.cqs } }.event (if q = 0 then 128 else 129))

/-! ### Coalescing (R336) -/

/-- Account one entry written for a CQ or ring and say whether its message goes at once. `since` and `oldest` are the entries since
the last message and the tick of the first of them. -/
def coalesceNow (since count : Nat) (atOnce : Bool) : Bool := atOnce || decide (count ≤ since + 1)

/-! ### Result rings (R337 to R339) -/

/-- Word 0 to 7 of a completed result-ring entry (Table 11-8). -/
def ringEntry (phase : Bool) (typ status : Nat) (last first : Bool) (bytes rows cid sq cookie batches : Nat) : Bytes :=
  leBytes 4 ((if phase then 1 else 0) + 2 + 4 * typ + 256 * status + (if last then 2 ^ 22 else 0) + (if first then 2 ^ 23 else 0))
  ++ leBytes 4 bytes ++ leBytes 4 rows ++ leBytes 2 cid ++ leBytes 2 sq ++ leBytes 8 cookie ++ leBytes 4 batches ++ leBytes 4 0

/-- Write a completed entry into its slot, charge it, and coalesce its vector (R334, R336). -/
def State.ringComplete (s : State) (f r : Nat) (slot : Nat) (e : Bytes) (status : Nat) : State :=
  match mget (fq f r) s.host.rings with
  | none => s
  | some g =>
    let s := (s.emit (.hostWrite f (g.base + 32 * slot) e)).chargeHost g.camp 32
    let send := coalesceNow g.since g.count (status != 0)
    let g := { g with since := if send then 0 else g.since + 1, oldest := if g.since = 0 then s.ticks else g.oldest }
    let s := { s with host := { s.host with rings := mput (fq f r) g s.host.rings } }
    if send then s.msixSend f g.vector else s

/-- Is a posted entry well formed against the server's phase (R339, R376, Table 11-7)? -/
def postedOk (phase : Bool) (e : Bytes) : Bool :=
  let w0 := word32 e 0
  let len := word32 e 1
  bits w0 0 1 == (if phase then 1 else 0) && bits w0 1 1 == 0 && bits w0 2 6 == 1 && rz w0 8 24 &&
  decide (4096 ≤ len) && decide (len ≤ 16777216) && len % 64 == 0 && word64 e 2 % 64 == 0 && word64 e 6 == 0

/-- Take the entries the doorbell covers, in ring order: a well-formed one is a posted buffer, a malformed one is completed in place
with MALFORMED_ENTRY (R339, R377). -/
def takePosted (f r : Nat) : List Bytes → Nat → State → State
  | _, 0, s => s
  | es, n + 1, s =>
    match mget (fq f r) s.host.rings with
    | none => s
    | some g =>
      let e := bslice (es.headD []) 0 32
      let nxt := if g.next + 1 = g.depth then 0 else g.next + 1
      let ph := if g.next + 1 = g.depth then !g.phase else g.phase
      let s := s.chargeHost g.camp 32
      if postedOk g.phase e then
        let b : PostedBuf := ⟨g.next, g.phase, word32 e 1, word64 e 2, word64 e 4⟩
        let g' := { g with next := nxt, phase := ph, free := g.free ++ [b] }
        takePosted f r es.tail n { s with host := { s.host with rings := mput (fq f r) g' s.host.rings } }
      else
        let c := ringEntry g.phase (bits (word32 e 0) 2 6) stMalformedEntry false false 0 0 0 0 (word64 e 4) 0
        let s := { s with host := { s.host with rings := mput (fq f r) { g with next := nxt, phase := ph } s.host.rings } }
        takePosted f r es.tail n (s.ringComplete f r g.next c stMalformedEntry)

/-- Split a message list after at most `n` bytes: what is placed, rows and record batches ending in it, and the rest. -/
def takeMsgs : Nat → List Msg → Bytes × Nat × Nat × List Msg
  | _, [] => ([], 0, 0, [])
  | n, m :: ms =>
    if m.bytes.length ≤ n then
      let (b, r, k, rest) := takeMsgs (n - m.bytes.length) ms
      (m.bytes ++ b, (if m.batch then m.rows else 0) + r, (if m.batch then 1 else 0) + k, rest)
    else (m.bytes.take n, 0, 0, { m with bytes := m.bytes.drop n } :: ms)

/-- The buffer a stream is filling. -/
def Ring.openOf (g : Ring) (st : Stream) : Option OpenBuf := g.opens.find? (fun o => o.sq == st.sq && o.cid == st.cid)

/-- Replace a stream. -/
def State.setStream (s : State) (st : Stream) : State :=
  { s with host := { s.host with streams := s.host.streams.map (fun x => if x.uid == st.uid then st else x) } }

/-- Place a stream's ready bytes into the buffer it is filling, or into the next posted buffer of its ring (R338); the bytes are host
writes charged to the Camp. A failed stream that has placed bytes takes a buffer to end in. -/
def State.pump (s : State) (uid : Nat) : State :=
  match s.host.streams.find? (fun x => x.uid == uid) with
  | none => s
  | some st => match mget (fq st.fn st.ring) s.host.rings with
    | none => s
    | some g =>
      let failedEnd := match st.ended with
        | some e => e != 0 && st.placed
        | none => false
      let cur := match g.openOf st with
        | some o => some (o, g)
        | none =>
          if st.msgs.isEmpty && !failedEnd then none
          else match g.free with
            | [] => none
            | b :: rest => some (⟨b, st.sq, st.cid, 0, 0, 0, !st.placed, s.ticks⟩, { g with free := rest })
      match cur with
      | none => s
      | some (o, g) =>
        let (b, rows, n, rest) := takeMsgs (o.buf.len - o.bytes) st.msgs
        let o' := { o with bytes := o.bytes + b.length, rows := o.rows + rows, batches := o.batches + n,
                           lastTick := if b.isEmpty then o.lastTick else s.ticks }
        let opens := g.opens.filter (fun x => !(x.sq == st.sq && x.cid == st.cid)) ++ [o']
        let s := { s with host := { s.host with rings := mput (fq st.fn st.ring) { g with opens := opens } s.host.rings } }
        let s := s.setStream { st with msgs := rest, placed := st.placed || !b.isEmpty }
        let s := { s with camps := mmod st.camp (fun i => { i with stagedBytes := i.stagedBytes - b.length }) s.camps }
        if b.isEmpty then s else (s.emit (.hostWrite st.fn (o.buf.addr + o.bytes) b)).chargeHost st.camp b.length

/-- Pump every stream of a ring, oldest command first. -/
def State.pumpRing (s : State) (f r : Nat) : State :=
  (s.host.streams.filter (fun x => x.fn == f && x.ring == r)).foldl (fun s x => s.pump x.uid) s

/-- Complete the buffer a stream is filling (R338): `last` when the stream's end is in it, with the command's status. -/
def State.completeBuf (s : State) (st : Stream) (o : OpenBuf) : State :=
  match mget (fq st.fn st.ring) s.host.rings with
  | none => s
  | some g =>
    let last := st.ended.isSome && st.msgs.isEmpty
    let status := if last then st.ended.getD 0 else 0
    let e := ringEntry o.buf.phase 1 status last o.first o.bytes o.rows o.cid o.sq o.buf.cookie o.batches
    let g := { g with opens := g.opens.filter (fun x => !(x.sq == st.sq && x.cid == st.cid)) }
    let s := { s with host := { s.host with rings := mput (fq st.fn st.ring) g s.host.rings } }
    let s := s.ringComplete st.fn st.ring o.buf.slot e status
    let s := if last then { s with host := { s.host with streams := s.host.streams.filter (fun x => x.uid != st.uid) } }
      else s.pump st.uid
    match s.cmdByUid st.uid with
    | some c => if last && c.wait == .stream then s.completeCmd c c.okStatus c.result else s
    | none => s

/-- The stream of a command on a ring. -/
def State.streamOf (s : State) (f r sq cid : Nat) : Option Stream :=
  s.host.streams.find? (fun x => x.fn == f && x.ring == r && x.sq == sq && x.cid == cid)

/-- RESULT_RING_POST_DOORBELL: the host has posted entries up to the given index; `es` are the newly posted entries as host memory
holds them, in ring order (R331, R337, R339, R375). -/
def execResultRingPostDoorbell (f r size v : Nat) (es : List Bytes) (s : State) : Res :=
  if s.mode == .reset || s.mode == .halted || !s.host.link.up || !s.fnOk f then .next s
  else if ringCount f ≤ r then .next (s.unsupported f true)
  else match doorbellValue size v with
    | none => .next (s.unsupported f true)
    | some p => match mget (fq f r) s.host.rings with
      | none => .next (s.dbErr f r 3)
      | some g =>
        if g.depth ≤ p then .next (s.dbErr f r 4)
        else .next ((((takePosted f r es (slotsFrom g.depth g.next p) s).event 130).pumpRing f r))

/-- RESULT_BUFFER_COMPLETE: a buffer that is full, or holds its stream's end, is completed in place (R338, R385). -/
def execResultBufferComplete (f r sq cid : Nat) (s : State) : Res :=
  if !s.alive then .next s else
  match s.streamOf f r sq cid, mget (fq f r) s.host.rings with
  | some st, some g => match g.openOf st with
    | some o => if o.buf.len ≤ o.bytes || (st.ended.isSome && st.msgs.isEmpty) then .next (s.completeBuf st o) else .next s
    | none => .next s
  | _, _ => .next s

/-- RESULT_BUFFER_TIMEOUT: bytes in a buffer that have waited 50 µs with none of the command ready complete it (R338). -/
def execResultBufferTimeout (dt f r sq cid : Nat) (s : State) : Res :=
  let s := s.advance dt
  if !s.alive then .next s else
  match s.streamOf f r sq cid, mget (fq f r) s.host.rings with
  | some st, some g => match g.openOf st with
    | some o => if 0 < o.bytes && st.msgs.isEmpty && o.lastTick + 50 * ticksPerUs ≤ s.ticks then .next (s.completeBuf st o)
      else .next s
    | none => .next s
  | _, _ => .next s

/-! ### The CQ write engine (R327 to R329, R333) -/

/-- The 16 bytes of a completion entry (Table 11-5). -/
def cqeBytes (e : Cqe) (phase : Bool) : Bytes :=
  leBytes 4 e.result ++ leBytes 4 e.dropped ++ leBytes 2 e.sqHead ++ leBytes 2 e.sqId ++ leBytes 2 e.cid ++
  leBytes 2 ((if phase then 1 else 0) + (if e.ret then 2 else 0) + 4 * e.status)

/-- Is the CQ full: would the next write make the tail equal the head (R329)? -/
def Cq.full (c : Cq) : Bool := (if c.tail + 1 = c.depth then 0 else c.tail + 1) == c.head

/-- Write one entry at the CQ's tail in one write request and signal it as R336 says: an admin entry, a non-zero status and a
retained entry at once. -/
def State.cqPut (s : State) (f q camp : Nat) (cq : Cq) (e : Cqe) : State :=
  let s := s.emit (.hostWrite f (cq.base + 16 * cq.tail) (cqeBytes e cq.phase))
  let s := if q = 0 then s else s.chargeHost camp 16
  let wrap := decide (cq.tail + 1 = cq.depth)
  let send := coalesceNow cq.since cq.count (q == 0 || e.status != 0 || e.ret)
  let cq' := { cq with
    tail := if wrap then 0 else cq.tail + 1
    phase := if wrap then !cq.phase else cq.phase
    since := if send then 0 else cq.since + 1
    oldest := if cq.since = 0 then s.ticks else cq.oldest
    unacked := cq.unacked ++ [(camp, e)] }
  let s := { s with host := { s.host with cqs := mput (fq f q) cq' s.host.cqs } }
  let s := if cq'.full then s.ra .QUE_STAT_cq_full f 1 else s
  if send then s.msixSend f cq.vector else s

/-- CQ_WRITE: the engine writes the oldest completion handed over to this CQ, when the CQ has space (R328, R329, R385). sq_head is
the index of the next entry the device will fetch. -/
def execCqWrite (f q : Nat) (s : State) : Res :=
  if !s.alive || !s.host.link.up then .next s else
  match s.host.engine.find? (fun w => w.fn == f && w.cq == q), mget (fq f q) s.host.cqs with
  | some w, some cq =>
    if cq.full then .next s
    else
      let head := match mget (fq f w.e.sqId) s.host.sqs with
        | some sq => sq.head
        | none => 0
      let s := { s with host := { s.host with engine := s.host.engine.erase w } }
      .next (s.cqPut f q w.camp cq { w.e with sqHead := head })
  | _, _ => .next s

/-- RETAINED_COMPLETION_POST: after a successful PROVE the Camp's oldest retained completion is written to the CQ it named, with
ret = 1 and sq_head 0, as CQ space allows (R343). -/
def execRetainedCompletionPost (c : Nat) (s : State) : Res :=
  if !s.alive || !s.host.link.up || s.rg .HIF_ATTACH_attached c = 0 then .next s else
  match mget c s.host.repost, mgetD [] c s.host.retained with
  | some k, e :: rest => match mget k s.host.cqs with
    | some cq =>
      if cq.full then .next s
      else
        let s := { s with host := { s.host with retained := mputD [] c rest s.host.retained } }
        .next (s.cqPut (k / 65536) (k % 65536) c cq { e with ret := true, sqHead := 0 })
    | none => .next s
  | _, _ => .next s

/-- COALESCE_TIMEOUT: the oldest unsignalled entry of a CQ or ring has waited its coalescing time; a time of 0 disables the test
(R336). -/
def execCoalesceTimeout (dt f : Nat) (isRing : Bool) (q : Nat) (s : State) : Res :=
  let s := s.advance dt
  if !s.alive || !s.host.link.up then .next s
  else if isRing then match mget (fq f q) s.host.rings with
    | some g =>
      if 0 < g.since && 0 < g.timeUs && g.oldest + g.timeUs * ticksPerUs ≤ s.ticks then
        .next ({ s with host := { s.host with rings := mput (fq f q) { g with since := 0 } s.host.rings } }.msixSend f g.vector)
      else .next s
    | none => .next s
  else match mget (fq f q) s.host.cqs with
    | some g =>
      if 0 < g.since && 0 < g.timeUs && g.oldest + g.timeUs * ticksPerUs ≤ s.ticks then
        .next ({ s with host := { s.host with cqs := mput (fq f q) { g with since := 0 } s.host.cqs } }.msixSend f g.vector)
      else .next s
    | none => .next s

/-- MSIX_VECTOR_UNMASK: a vector that became pending while masked is sent once (R335). The function's own enable and mask still
hold it back. -/
def execMsixVectorUnmask (f v : Nat) (s : State) : Res :=
  if s.mode == .reset || s.mode == .halted || !s.host.link.up || !s.fnOk f || vectorCount f ≤ v then .next s
  else
    let k := f * 2048 + v
    let e := mgetD ⟨0, 0, true, false⟩ k s.host.msix
    let s := { s with host := { s.host with msix := mput k { e with masked := false, pending := false } s.host.msix } }
    if e.pending then .next (s.msixSend f v) else .next s

/-- CHALLENGE_EXPIRY: a challenge ends 10 s after it was written (R342). -/
def execChallengeExpiry (dt c : Nat) (s : State) : Res :=
  let s := s.advance dt
  match mget c s.host.challenges with
  | some ch => if ch.expiry ≤ s.ticks then .next { s with host := { s.host with challenges := mdel c s.host.challenges } }
    else .next s
  | none => .next s

/-- CHALLENGE_LOCKOUT_END: the 1 s lockout of CHALLENGE for a Camp ends (R342). -/
def execChallengeLockoutEnd (dt c : Nat) (s : State) : Res :=
  let s := s.advance dt
  match mget c s.host.lockout with
  | some t => if t ≤ s.ticks then .next ({ s with host := { s.host with lockout := mdel c s.host.lockout } }.rs .HIF_ATTACH_streak c 0)
    else .next s
  | none => .next s

/-! ### Admission (Table 12-1) -/

/-- Fixed facts of an opcode (Tables 12-4, 12-7a, 12-10): admin or I/O, PF only, legal in BOOT, SERVICE and MAINTENANCE, exempt from
DRAINING, carries data in, size of its fixed data out (0: none or variable), has data out, and the bits of cdw1 and cdw9 to cdw15 it names. -/
structure OpInfo where
  pfOnly : Bool
  boot : Bool
  service : Bool
  maint : Bool
  exempt : Bool
  dataIn : Bool
  outSize : Nat
  hasOut : Bool
  mask : List Nat
  deriving DecidableEq, Repr

/-- All bits of a word. -/
def allW : Nat := 2 ^ 32 - 1
/-- The low `n` bits. -/
def lowW (n : Nat) : Nat := 2 ^ n - 1

/-- The command table. The mask lists cdw1, cdw9, cdw10, cdw11, cdw12, cdw13, cdw14, cdw15. -/
def opInfo : Nat → Option OpInfo
  | 0x01 => some ⟨false, true, true, true, true, false, 0, true, [lowW 8]⟩
  | 0x02 => some ⟨false, true, true, true, true, false, 0, true, [lowW 9, lowW 10, allW, lowW 16]⟩
  | 0x03 => some ⟨false, true, true, true, true, false, 16, true, [lowW 8, allW, allW]⟩
  | 0x04 => some ⟨false, false, true, true, false, false, 0, false, [lowW 8, allW, allW, allW]⟩
  | 0x05 => some ⟨false, false, true, true, false, false, 0, false, [0, allW, 0xFFFF03FF]⟩
  | 0x06 => some ⟨false, false, true, true, false, false, 0, false, [0, lowW 16]⟩
  | 0x07 => some ⟨false, false, true, true, false, false, 0, false, [0, allW, 0x1FFFFF, 0x3FF01FF]⟩
  | 0x08 => some ⟨false, false, true, true, false, false, 0, false, [0, lowW 16]⟩
  | 0x09 => some ⟨false, false, true, true, false, false, 0, false, [0, allW, 0x1FFFFF, 0x3FF01FF]⟩
  | 0x0A => some ⟨false, false, true, true, false, false, 0, false, [0, lowW 16]⟩
  | 0x10 => some ⟨true, false, true, false, false, true, 0, false, []⟩
  | 0x11 => some ⟨true, false, true, true, false, false, 0, false, [0, lowW 10]⟩
  | 0x12 => some ⟨true, false, true, true, false, true, 0, false, [0, lowW 10, lowW 6]⟩
  | 0x13 => some ⟨false, false, true, false, false, true, 0, true, [1, 0xFFFF03FF]⟩
  | 0x14 => some ⟨false, false, true, true, true, false, 0, false, [0, allW]⟩
  | 0x15 => some ⟨false, false, true, false, false, true, 0, false, [0, lowW 10, lowW 6]⟩
  | 0x18 => some ⟨true, true, true, true, false, true, 0, false, [lowW 8]⟩
  | 0x19 => some ⟨true, true, true, true, false, false, 0, true, [lowW 8]⟩
  | 0x1A => some ⟨true, false, true, true, false, true, 0, false, [1, allW]⟩
  | 0x1B => some ⟨true, false, true, false, false, true, 0, false, [1, allW]⟩
  | 0x1C => some ⟨true, false, false, true, false, false, 0, false, []⟩
  | 0x40 => some ⟨false, false, true, false, false, true, 0, false, []⟩
  | 0x41 => some ⟨false, false, true, false, false, false, 0, false, [0, allW]⟩
  | 0x42 => some ⟨false, false, true, false, false, true, 0, false, [0, allW, allW]⟩
  | 0x43 => some ⟨false, false, true, true, false, false, 64, true, [0, lowW 16, allW, 1]⟩
  | 0x44 => some ⟨false, false, true, false, false, true, 16, true, [0, allW, 1]⟩
  | 0x45 => some ⟨false, false, true, false, false, true, 0, true, [0, lowW 11, lowW 8]⟩
  | 0x46 => some ⟨false, false, true, false, false, true, 0, false, [0, allW, allW, allW, allW, allW, allW]⟩
  | 0x47 => some ⟨false, false, true, false, false, false, 0, false, [0, lowW 10]⟩
  | 0x48 => some ⟨false, false, true, false, false, true, 0, true, [0, lowW 16]⟩
  | 0x49 => some ⟨false, false, true, true, false, false, 0, false, []⟩
  | _ => none

/-- Is the opcode an I/O opcode? -/
def opIsIo (op : Nat) : Bool := decide (0x40 ≤ op)

/-- The Camp an admin command names and whether it must be attached to the issuing function (Table 12-4, Table 12-6, Table 12-8). -/
def adminCamp (f op : Nat) (w : Nat → Nat) : Option (Nat × Bool) :=
  match op with
  | 0x05 | 0x07 | 0x09 => some (bits (w 10) 0 10, true)
  | 0x11 | 0x12 => some (bits (w 9) 0 10, false)
  | 0x13 => some (bits (w 9) 0 10, false)
  | 0x15 => some (bits (w 9) 0 10, true)
  | 0x02 => if bits (w 1) 0 8 = 2 || bits (w 1) 0 8 = 4 || bits (w 1) 0 8 = 6 then some (bits (w 9) 0 10, f != 0) else none
  | 0x03 | 0x04 => if bits (w 1) 0 8 = 4 then some (bits (w 9) 0 10, true) else none
  | _ => none

/-- Is the Camp attached to the function? -/
def State.attachedTo (s : State) (c f : Nat) : Bool := s.rg .HIF_ATTACH_attached c == 1 && s.rg .HIF_ATTACH_function c == f

/-- Does the Camp exist (Table 09-1)? Camp 0 always does. -/
def State.campExists (s : State) (c : Nat) : Bool := c == 0 || s.campState c != .free

/-- Check 6 of Table 12-1 as far as the entry alone decides it: RZ fields 0, pointers aligned, the data-out buffer large enough for
a fixed-size result, scatter elements within Table 11-4. -/
def fieldsOk (op : Nat) (i : OpInfo) (w : Nat → Nat) (sgl : List (Nat × Nat × Nat)) : Bool :=
  let useSgl := bits (w 0) 9 1 = 1
  let named := [w 1, w 9, w 10, w 11, w 12, w 13, w 14, w 15]
  let rzOk := (List.range 8).all (fun k => Nat.land (named.getD k 0) (allW - i.mask.getD k 0) == 0)
  let sglOk := if useSgl then
      decide (1 ≤ bits (w 5) 0 16) && (w 2 + 2 ^ 32 * w 3) % 16 == 0 && sgl.length == bits (w 5) 0 16 &&
      sgl.all (fun e => decide (1 ≤ e.2.1) && decide (e.2.1 < 2 ^ 32) && e.2.2 == 0)
    else bits (w 5) 0 16 == 0
  let outPtr := w 6 + 2 ^ 32 * w 7
  let outOk := if i.hasOut then outPtr % 8 == 0 && decide (i.outSize ≤ w 8) else outPtr == 0 && w 8 == 0
  let dataOk := i.dataIn || (w 4 == 0 && !useSgl)
  let queueBase := op == 0x05 || op == 0x07 || op == 0x09
  let ptrOk := i.dataIn || queueBase || (w 2 == 0 && w 3 == 0)
  rz (w 0) 10 6 && rz (w 5) 16 16 && rzOk && sglOk && outOk && dataOk && ptrOk

/-- Data supplied (R353): the sum of the element lengths, or data_len. -/
def supplied (w : Nat → Nat) (sgl : List (Nat × Nat × Nat)) : Nat :=
  if bits (w 0) 9 1 = 1 then (sgl.map (fun e => e.2.1)).sum else w 4

/-- What the admission checks of Table 12-1 answer for a fetched entry: the status (0: admitted) and the cause of a STATE_CONFLICT. -/
def admission (s : State) (f q camp : Nat) (w : Nat → Nat) (sgl : List (Nat × Nat × Nat)) : Nat × Nat :=
  let op := bits (w 0) 0 8
  let strict := bits (w 0) 8 1 = 1
  match opInfo op with
  | none => (stInvalidOpcode, 0)
  | some i =>
    if opIsIo op == (q == 0) then (stInvalidOpcode, 0)
    else if i.pfOnly && f != 0 then (stNotPermitted, 0)
    else if s.host.drain.isSome && !i.exempt then (stDraining, 0)
    else if !(match s.mode with
        | .boot => i.boot | .service => i.service | .maintenance => i.maint
        | .reset | .detached | .halted => false) then (stStateConflict, s.mode.code)
    else if opIsIo op && s.campState camp == .quarantined then (stCampQuarantined, 0)
    else if (match adminCamp f op w with
        | some (c, att) => !s.campExists c || (att && !s.attachedTo c f)
        | none => false) then (stCampNotFound, 0)
    else if !fieldsOk op i w sgl then (stInvalidField, 0)
    else if i.dataIn && decide (supplied w sgl < w 4) && op != 0x44 then (stLengthShort, 0)
    else if i.dataIn && decide (w 4 < supplied w sgl) && strict then (stLengthLong, 0)
    else (0, 0)

/-! ### Fetch arbitration (R332) -/

/-- May the device fetch from this SQ now? -/
def State.sqReady (s : State) (f : Nat) (sq : Sq) (q : Nat) : Bool :=
  sq.head != sq.tail &&
  (match mget (fq f (if q = 0 then 0 else sq.cq)) s.host.cqs with | some c => !c.full | none => false) &&
  (q == 0 || !s.isExhausted sq.camp 3)

/-- Function f's next I/O SQ that can be fetched, in round-robin order after its pointer. -/
def State.nextSq (s : State) (f : Nat) : Option Nat :=
  let qs := (s.host.sqs.filter (fun p => p.1 / 65536 == f && p.1 % 65536 != 0 && s.sqReady f p.2 (p.1 % 65536))).map (·.1 % 65536)
  let p := mgetD 0 f s.host.arb.ptr
  match qs.find? (fun q => decide (p < q)) with
  | some q => some q
  | none => qs.head?

/-- The functions in round-robin order from `start`. -/
def roundFrom (n start : Nat) : List Nat := (List.range n).map (fun k => (start + k) % n)

/-- The queue the arbiter fetches from next, and the arbiter afterwards. -/
def State.arbitrate (s : State) : Option (Nat × Nat × Arb) :=
  let a := s.host.arb
  let n := s.host.link.vfs + 1
  let adminOk (f : Nat) : Bool := match mget (fq f 0) s.host.sqs with
    | some sq => s.sqReady f sq 0
    | none => false
  match (roundFrom n a.admin).find? adminOk with
  | some f => some (f, 0, { a with admin := (f + 1) % n })
  | none =>
    if s.mode == .boot then none else
    let curOk := match mget (fq a.fn a.sq) s.host.sqs with
      | some sq => decide (0 < a.left) && a.sq != 0 && s.sqReady a.fn sq a.sq
      | none => false
    if curOk then some (a.fn, a.sq, { a with left := a.left - 1 })
    else match (roundFrom n ((a.fn + 1) % n)).find? (fun f => (s.nextSq f).isSome) with
      | some f => match s.nextSq f with
        | some q => some (f, q, { a with fn := f, sq := q, left := 7, ptr := mput f q a.ptr })
        | none => none
      | none => none

/-- A DIGEST update or finish step that fails at admission releases the context it names (R368). -/
def State.dropDigest (s : State) (camp : Nat) (w : Nat → Nat) : State :=
  let k := 256 + bits (w 10) 0 4
  let x := mgetD DgeCtx.empty k s.trust.ctx
  if bits (w 0) 0 8 = 0x44 + 1 && 2 ≤ bits (w 9) 9 2 && x.owner == .command camp && x.gen == bits (w 10) 4 4 then s.dgeRelease k else s

/-- SQ_FETCH: the device fetches the next submission entry under R332 and applies the admission checks of Table 12-1 in order. `entry`
is the 16 words host memory holds in that slot, `sgl` the elements of its scatter list (address, length, word 3). Only the admin queues
run in BOOT; nothing is fetched in RESET, DETACHED or HALTED. -/
def execSqFetch (entry : List Nat) (sgl : List (Nat × Nat × Nat)) (s : State) : Res :=
  if !(s.mode == .boot || s.mode == .service || s.mode == .maintenance) || !s.host.link.up then .next s else
  match s.arbitrate with
  | none => .next s
  | some (f, q, arb) => match mget (fq f q) s.host.sqs with
    | none => .next s
    | some sq =>
      let w (k : Nat) : Nat := entry.getD k 0 % 2 ^ 32
      let sgl' := if bits (w 0) 9 1 = 1 then sgl else []
      let s := { s with host := { s.host with
        arb := arb
        uid := s.host.uid + 1
        sqs := mput (fq f q) { sq with head := if sq.head + 1 = sq.depth then 0 else sq.head + 1 } s.host.sqs } }
      let s := s.ra .QUE_STAT_fetched f 1
      let s := s.emit (.hostRead f (sq.base + 64 * sq.head) 64)
      let s := if q = 0 then s else s.chargeHost sq.camp (64 + 16 * sgl'.length)
      let ref : CmdRef := ⟨f, q, bits (w 0) 16 16⟩
      let sup := supplied w sgl'
      let io := opIsIo (bits (w 0) 0 8)
      let c : Cmd := ⟨s.host.uid - 1, ref, if q = 0 then 0 else sq.cq, if q = 0 then 0 else sq.camp, bits (w 0) 0 8,
        bits (w 0) 8 1 = 1, (List.range 16).map w, min sup (w 4), decide (sup < w 4), decide (w 4 < sup), false, .fetched, 0, none, 0⟩
      let s := { s with host := { s.host with cmds := s.host.cmds ++ [c], kept := mdel ref.key s.host.kept } }
      let s := if io && q != 0 && !sgl'.isEmpty then s.emit (.hostRead f (w 2 + 2 ^ 32 * w 3) (16 * sgl'.length)) else s
      match admission s f q sq.camp w sgl' with
      | (0, _) => .next s
      | (st, r) => .next ((if io && q != 0 then s.dropDigest sq.camp w else s).failCmd c st r)

end Sys2Proof.Machine
end

