-- ==== Sys2Proof/Machine/Sha.lean ====
section
/-! DEFINITION. The secure hashes and what is built on them: SHA-256, SHA-384 and SHA-512 (FIPS 180-4, which the manual names and
supports), one compression a block, HMAC and the HKDF of the key hierarchy. Words are numbers below 2 ^ w. -/

namespace Sys2Proof.Machine

/-- The hash algorithms of the Digest Engine (R478). -/
inductive HashAlg where
  | sha256 | sha384 | sha512
  deriving DecidableEq, Repr

/-- Word width. -/
def HashAlg.w : HashAlg → Nat
  | .sha256 => 32
  | .sha384 | .sha512 => 64
/-- Block length in bytes. -/
def HashAlg.block : HashAlg → Nat
  | .sha256 => 64
  | .sha384 | .sha512 => 128
/-- Digest length in bytes. -/
def HashAlg.size : HashAlg → Nat
  | .sha256 => 32
  | .sha384 => 48
  | .sha512 => 64

/-- The round constants of SHA-256. -/
def shaK256 : List Nat :=
  [0x428a2f98, 0x71374491, 0xb5c0fbcf, 0xe9b5dba5, 0x3956c25b, 0x59f111f1, 0x923f82a4, 0xab1c5ed5,
   0xd807aa98, 0x12835b01, 0x243185be, 0x550c7dc3, 0x72be5d74, 0x80deb1fe, 0x9bdc06a7, 0xc19bf174] ++
  [0xe49b69c1, 0xefbe4786, 0x0fc19dc6, 0x240ca1cc, 0x2de92c6f, 0x4a7484aa, 0x5cb0a9dc, 0x76f988da,
   0x983e5152, 0xa831c66d, 0xb00327c8, 0xbf597fc7, 0xc6e00bf3, 0xd5a79147, 0x06ca6351, 0x14292967] ++
  [0x27b70a85, 0x2e1b2138, 0x4d2c6dfc, 0x53380d13, 0x650a7354, 0x766a0abb, 0x81c2c92e, 0x92722c85,
   0xa2bfe8a1, 0xa81a664b, 0xc24b8b70, 0xc76c51a3, 0xd192e819, 0xd6990624, 0xf40e3585, 0x106aa070] ++
  [0x19a4c116, 0x1e376c08, 0x2748774c, 0x34b0bcb5, 0x391c0cb3, 0x4ed8aa4a, 0x5b9cca4f, 0x682e6ff3,
   0x748f82ee, 0x78a5636f, 0x84c87814, 0x8cc70208, 0x90befffa, 0xa4506ceb, 0xbef9a3f7, 0xc67178f2]

/-- The round constants of SHA-512. -/
def shaK512 : List Nat :=
  [0x428a2f98d728ae22, 0x7137449123ef65cd, 0xb5c0fbcfec4d3b2f, 0xe9b5dba58189dbbc,
   0x3956c25bf348b538, 0x59f111f1b605d019, 0x923f82a4af194f9b, 0xab1c5ed5da6d8118,
   0xd807aa98a3030242, 0x12835b0145706fbe, 0x243185be4ee4b28c, 0x550c7dc3d5ffb4e2,
   0x72be5d74f27b896f, 0x80deb1fe3b1696b1, 0x9bdc06a725c71235, 0xc19bf174cf692694] ++
  [0xe49b69c19ef14ad2, 0xefbe4786384f25e3, 0x0fc19dc68b8cd5b5, 0x240ca1cc77ac9c65,
   0x2de92c6f592b0275, 0x4a7484aa6ea6e483, 0x5cb0a9dcbd41fbd4, 0x76f988da831153b5,
   0x983e5152ee66dfab, 0xa831c66d2db43210, 0xb00327c898fb213f, 0xbf597fc7beef0ee4,
   0xc6e00bf33da88fc2, 0xd5a79147930aa725, 0x06ca6351e003826f, 0x142929670a0e6e70] ++
  [0x27b70a8546d22ffc, 0x2e1b21385c26c926, 0x4d2c6dfc5ac42aed, 0x53380d139d95b3df,
   0x650a73548baf63de, 0x766a0abb3c77b2a8, 0x81c2c92e47edaee6, 0x92722c851482353b,
   0xa2bfe8a14cf10364, 0xa81a664bbc423001, 0xc24b8b70d0f89791, 0xc76c51a30654be30,
   0xd192e819d6ef5218, 0xd69906245565a910, 0xf40e35855771202a, 0x106aa07032bbd1b8] ++
  [0x19a4c116b8d2d0c8, 0x1e376c085141ab53, 0x2748774cdf8eeb99, 0x34b0bcb5e19b48a8,
   0x391c0cb3c5c95a63, 0x4ed8aa4ae3418acb, 0x5b9cca4f7763e373, 0x682e6ff3d6b2b8a3,
   0x748f82ee5defb2fc, 0x78a5636f43172f60, 0x84c87814a1f0ab72, 0x8cc702081a6439ec,
   0x90befffa23631e28, 0xa4506cebde82bde9, 0xbef9a3f7b2c67915, 0xc67178f2e372532b] ++
  [0xca273eceea26619c, 0xd186b8c721c0c207, 0xeada7dd6cde0eb1e, 0xf57d4f7fee6ed178,
   0x06f067aa72176fba, 0x0a637dc5a2c898a6, 0x113f9804bef90dae, 0x1b710b35131c471b,
   0x28db77f523047d84, 0x32caab7b40c72493, 0x3c9ebe0a15c9bebc, 0x431d67c49c100d4c,
   0x4cc5d4becb3e42b6, 0x597f299cfc657e2a, 0x5fcb6fab3ad6faec, 0x6c44198c4a475817]

/-- The initial hash value. -/
def HashAlg.init : HashAlg → List Nat
  | .sha256 => [0x6a09e667, 0xbb67ae85, 0x3c6ef372, 0xa54ff53a,
    0x510e527f, 0x9b05688c, 0x1f83d9ab, 0x5be0cd19]
  | .sha384 => [0xcbbb9d5dc1059ed8, 0x629a292a367cd507, 0x9159015a3070dd17, 0x152fecd8f70e5939,
    0x67332667ffc00b31, 0x8eb44a8768581511, 0xdb0c2e0d64f98fa7, 0x47b5481dbefa4fa4]
  | .sha512 => [0x6a09e667f3bcc908, 0xbb67ae8584caa73b, 0x3c6ef372fe94f82b, 0xa54ff53a5f1d36f1,
    0x510e527fade682d1, 0x9b05688c2b3e6c1f, 0x1f83d9abfb41bd6b, 0x5be0cd19137e2179]

/-- The round constants. -/
def HashAlg.consts : HashAlg → List Nat
  | .sha256 => shaK256
  | .sha384 | .sha512 => shaK512

/-- Rotate right by `n` in `w` bits. -/
def rotr (w n x : Nat) : Nat := (x / 2 ^ n) + (x % 2 ^ n) * 2 ^ (w - n)

/-- Two rotations and a third rotation, exclusive-ored. -/
def rot3 (w a b c x : Nat) : Nat := rotr w a x ^^^ rotr w b x ^^^ rotr w c x
/-- Two rotations and a shift, exclusive-ored. -/
def rot2s (w a b c x : Nat) : Nat := rotr w a x ^^^ rotr w b x ^^^ (x / 2 ^ c)

/-- Σ0 of the rounds. -/
def HashAlg.bigS0 (a : HashAlg) : Nat → Nat := match a with
  | .sha256 => rot3 32 2 13 22
  | .sha384 | .sha512 => rot3 64 28 34 39
/-- Σ1 of the rounds. -/
def HashAlg.bigS1 (a : HashAlg) : Nat → Nat := match a with
  | .sha256 => rot3 32 6 11 25
  | .sha384 | .sha512 => rot3 64 14 18 41
/-- σ0 of the schedule. -/
def HashAlg.smallS0 (a : HashAlg) : Nat → Nat := match a with
  | .sha256 => rot2s 32 7 18 3
  | .sha384 | .sha512 => rot2s 64 1 8 7
/-- σ1 of the schedule. -/
def HashAlg.smallS1 (a : HashAlg) : Nat → Nat := match a with
  | .sha256 => rot2s 32 17 19 10
  | .sha384 | .sha512 => rot2s 64 19 61 6

/-- The rounds over the constants, the message schedule kept as its next 16 words. -/
def shaRounds (a : HashAlg) : List Nat → List Nat → List Nat → List Nat
  | [], _, st => st
  | k :: ks, win, st =>
    let m := 2 ^ a.w
    let g (i : Nat) : Nat := st.getD i 0
    let x (i : Nat) : Nat := win.getD i 0
    let ch := (g 4 &&& g 5) ^^^ ((m - 1 - g 4) &&& g 6)
    let maj := (g 0 &&& g 1) ^^^ (g 0 &&& g 2) ^^^ (g 1 &&& g 2)
    let t1 := g 7 + a.bigS1 (g 4) + ch + k + x 0
    let t2 := a.bigS0 (g 0) + maj
    let nw := (a.smallS1 (x 14) + x 9 + a.smallS0 (x 1) + x 0) % m
    shaRounds a ks (win.tail ++ [nw]) [(t1 + t2) % m, g 0, g 1, g 2, (g 3 + t1) % m, g 4, g 5, g 6]

/-- Cut a byte string into big-endian words. -/
def toWords (wb : Nat) : Nat → Bytes → List Nat
  | 0, _ => []
  | n + 1, b => beNat (b.take wb) :: toWords wb n (b.drop wb)

/-- One compression: a hash state and a block (R478: the unit of DGE_BLOCK). -/
def shaBlock (a : HashAlg) (st : List Nat) (b : Bytes) : List Nat :=
  let r := shaRounds a a.consts (toWords (a.w / 8) 16 b) st
  (st.zip r).map (fun p => (p.1 + p.2) % 2 ^ a.w)

/-- The padding of a message of `n` bytes. -/
def shaPad (a : HashAlg) (n : Nat) : Bytes :=
  let l := a.w / 4
  let z := (2 * a.block - (n + 1 + l) % a.block) % a.block
  0x80 :: List.replicate z 0 ++ beBytes l (8 * n)

/-- Fold whole blocks into a hash state. -/
def shaFold (a : HashAlg) : Nat → List Nat → Bytes → List Nat
  | 0, st, _ => st
  | n + 1, st, b => shaFold a n (shaBlock a st (b.take a.block)) (b.drop a.block)

/-- The digest bytes of a hash state. -/
def shaOut (a : HashAlg) (st : List Nat) : Bytes := (st.flatMap (beBytes (a.w / 8))).take a.size

/-- The hash of a message. -/
def sha (a : HashAlg) (m : Bytes) : Bytes :=
  let p := m ++ shaPad a m.length
  shaOut a (shaFold a (p.length / a.block) a.init p)

/-- An HMAC key as a block: hashed when longer than a block, padded with zeros. -/
def hmacKey (a : HashAlg) (k : Bytes) : Bytes :=
  let k := if a.block < k.length then sha a k else k
  k ++ List.replicate (a.block - k.length) 0

/-- HMAC. -/
def hmac (a : HashAlg) (k m : Bytes) : Bytes :=
  let k := hmacKey a k
  sha a (k.map (· ^^^ 0x5c) ++ sha a (k.map (· ^^^ 0x36) ++ m))

/-- HKDF-Extract with a salt. -/
def hkdfExtract (a : HashAlg) (salt ikm : Bytes) : Bytes := hmac a salt ikm

/-- HKDF-Expand: `n` output blocks' worth, truncated by the caller. -/
def hkdfExpandBlocks (a : HashAlg) (prk info : Bytes) : Nat → Nat → Bytes → Bytes
  | 0, _, _ => []
  | n + 1, i, t =>
    let t' := hmac a prk (t ++ info ++ [BitVec.ofNat 8 i])
    t' ++ hkdfExpandBlocks a prk info n (i + 1) t'

/-- HKDF-Expand to `n` bytes. -/
def hkdfExpand (a : HashAlg) (prk info : Bytes) (n : Nat) : Bytes :=
  (hkdfExpandBlocks a prk info ((n + a.size - 1) / a.size) 1 []).take n

end Sys2Proof.Machine
end

