-- ==== Sys2Proof/Machine/Admin.lean ====
section
/-! DEFINITION. Admin commands over queues, Camp Rations, attachment, aborts and flushes (Command Set and Status). -/

namespace Sys2Proof.Machine

/-- Word `k` of a command's entry. -/
def Cmd.w (c : Cmd) (k : Nat) : Nat := c.cdw.getD k 0
/-- The data pointer of a command. -/
def Cmd.dataPtr (c : Cmd) : Nat := c.w 2 + 2 ^ 32 * c.w 3
/-- The data-out pointer of a command. -/
def Cmd.outPtr (c : Cmd) : Nat := c.w 6 + 2 ^ 32 * c.w 7

/-- The step of a fetched command with a given opcode: nothing happens where none waits, or where the engine does not run. -/
def State.withCmd (s : State) (r : CmdRef) (op : Nat) (f : Cmd → State) : Res :=
  if !s.alive then .next s else
  match s.findCmd r with
  | some c => if c.op = op then .next (f c) else .next s
  | none => .next s

/-- Write a command's data out; I/O data is charged to the Camp (R334). -/
def State.dataOut (s : State) (c : Cmd) (b : Bytes) : State :=
  if b.isEmpty then s else
  let s := s.emit (.hostWrite c.ref.fn c.outPtr b)
  if c.ref.sq = 0 then s else s.chargeHost c.camp b.length

/-- Read a command's data in: the bytes processed of what the host holds; I/O data is charged to the Camp (R334, R353). -/
def State.dataIn (s : State) (c : Cmd) (d : Bytes) : Bytes × State :=
  let b := d.take c.avail
  (b, if c.ref.sq = 0 then s else s.chargeHost c.camp b.length)

/-- Return data of variable length (R355): all of it, with its length as the result; or its first out_len bytes with OUT_TRUNCATED and the
full length. -/
def State.varOut (s : State) (c : Cmd) (b : Bytes) : State :=
  if c.w 8 < b.length then
    (s.dataOut c (b.take (c.w 8))).completeCmd c stOutTruncated b.length
  else (s.dataOut c b).completeCmd c c.okStatus b.length

/-- The length rules of a whole command whose content declares `n` bytes (R353, R354): the failing status, or the command with its excess
noted. -/
def wholeLen (c : Cmd) (n : Nat) : Except Nat Cmd :=
  if c.avail < n then .error stLengthShort
  else if n < c.avail && c.strict then .error stLengthLong
  else .ok { c with long := c.long || decide (n < c.avail) }

/-! ### Queues and rings (R325, R337, R362) -/

/-- SQ_CREATE. -/
def State.doSqCreate (s : State) (c : Cmd) : State :=
  let f := c.ref.fn
  let q := bits (c.w 9) 0 16
  let camp := bits (c.w 10) 0 10
  let cqId := bits (c.w 10) 16 16
  if c.dataPtr % 4096 != 0 || bits (c.w 9) 16 16 = 0 then s.failCmd c stInvalidField
  else if q = 0 || ioQueues f < q || mhas (fq f q) s.host.sqs then s.failCmd c stQueueInvalid
  else match mget (fq f cqId) s.host.cqs with
    | none => s.failCmd c stQueueInvalid
    | some cq =>
      if cqId = 0 || cq.camp != camp then s.failCmd c stQueueInvalid
      else
        let sq : Sq := ⟨camp, cqId, bits (c.w 9) 16 16 + 1, c.dataPtr, 0, 0⟩
        { s with host := { s.host with sqs := mput (fq f q) sq s.host.sqs } }.completeCmd c c.okStatus 0

/-- SQ_DELETE: outstanding commands of the SQ complete with ABORTED first (R359). -/
def State.doSqDelete (s : State) (c : Cmd) : State :=
  let f := c.ref.fn
  let q := bits (c.w 9) 0 16
  if q = 0 || !mhas (fq f q) s.host.sqs then s.failCmd c stQueueInvalid
  else
    let s := { s with host := { s.host with sqs := mdel (fq f q) s.host.sqs } }
    let s := s.modCmd c.uid (fun c => { c with wait := .sqGone q })
    let s := s.cancelAll (s.host.cmds.filter (fun d => d.ref.fn == f && d.ref.sq == q && !d.gone)) stAborted
    settle s.host.cmds.length s

/-- Coalescing fields of cdw11 in range: count 1 to 256 (R336). -/
def coalesceOk (w : Nat) : Bool := decide (1 ≤ bits w 0 9) && decide (bits w 0 9 ≤ 256)

/-- CQ_CREATE. -/
def State.doCqCreate (s : State) (c : Cmd) : State :=
  let f := c.ref.fn
  let q := bits (c.w 9) 0 16
  if c.dataPtr % 4096 != 0 || bits (c.w 9) 16 16 = 0 || vectorCount f ≤ bits (c.w 10) 10 11 || !coalesceOk (c.w 11) then
    s.failCmd c stInvalidField
  else if q = 0 || ioQueues f < q || mhas (fq f q) s.host.cqs then s.failCmd c stQueueInvalid
  else
    let cq : Cq := ⟨bits (c.w 10) 0 10, bits (c.w 9) 16 16 + 1, c.dataPtr, 0, true, 0, bits (c.w 10) 10 11, bits (c.w 11) 0 9,
      bits (c.w 11) 16 10, 0, 0, []⟩
    { s with host := { s.host with cqs := mput (fq f q) cq s.host.cqs } }.completeCmd c c.okStatus 0

/-- CQ_DELETE: STATE_CONFLICT, cause 4, while an SQ names the CQ. -/
def State.doCqDelete (s : State) (c : Cmd) : State :=
  let f := c.ref.fn
  let q := bits (c.w 9) 0 16
  if q = 0 || !mhas (fq f q) s.host.cqs then s.failCmd c stQueueInvalid
  else if s.host.sqs.any (fun p => p.1 / 65536 == f && p.1 % 65536 != 0 && p.2.cq == q) then s.conflict c 4
  else { s with host := { s.host with cqs := mdel (fq f q) s.host.cqs } }.completeCmd c c.okStatus 0

/-- RING_CREATE. -/
def State.doRingCreate (s : State) (c : Cmd) : State :=
  let f := c.ref.fn
  let q := bits (c.w 9) 0 16
  if c.dataPtr % 4096 != 0 || bits (c.w 9) 16 16 = 0 || vectorCount f ≤ bits (c.w 10) 10 11 || !coalesceOk (c.w 11) then
    s.failCmd c stInvalidField
  else if ringCount f ≤ q || mhas (fq f q) s.host.rings then s.failCmd c stQueueInvalid
  else
    let g : Ring := ⟨bits (c.w 10) 0 10, bits (c.w 9) 16 16 + 1, c.dataPtr, 0, true, bits (c.w 10) 10 11, bits (c.w 11) 0 9,
      bits (c.w 11) 16 10, 0, 0, [], []⟩
    { s with host := { s.host with rings := mput (fq f q) g s.host.rings } }.completeCmd c c.okStatus 0

/-- Does an outstanding command name the ring? -/
def namesRing (f r : Nat) (c : Cmd) : Bool :=
  c.ref.fn == f && !c.gone && ((c.op == 0x42 && bits (c.w 10) 0 16 == r) || (c.op == 0x43 && bits (c.w 9) 0 16 == r))

/-- RING_DELETE: STATE_CONFLICT, cause 4, while an outstanding command names the ring. -/
def State.doRingDelete (s : State) (c : Cmd) : State :=
  let f := c.ref.fn
  let q := bits (c.w 9) 0 16
  if !mhas (fq f q) s.host.rings then s.failCmd c stQueueInvalid
  else if s.host.cmds.any (namesRing f q) then s.conflict c 4
  else { s with host := { s.host with rings := mdel (fq f q) s.host.rings } }.completeCmd c c.okStatus 0

/-- SQ_CREATE (R325, R362). -/
def execSqCreate (r : CmdRef) (s : State) : Res := s.withCmd r 0x05 s.doSqCreate
/-- SQ_DELETE (R359, R362). -/
def execSqDelete (r : CmdRef) (s : State) : Res := s.withCmd r 0x06 s.doSqDelete
/-- CQ_CREATE (R325, R336, R362). -/
def execCqCreate (r : CmdRef) (s : State) : Res := s.withCmd r 0x07 s.doCqCreate
/-- CQ_DELETE (R362). -/
def execCqDelete (r : CmdRef) (s : State) : Res := s.withCmd r 0x08 s.doCqDelete
/-- RING_CREATE (R337, R362). -/
def execRingCreate (r : CmdRef) (s : State) : Res := s.withCmd r 0x09 s.doRingCreate
/-- RING_DELETE (R362). -/
def execRingDelete (r : CmdRef) (s : State) : Res := s.withCmd r 0x0A s.doRingDelete

/-! ### Features (Table 12-8) -/

/-- A read of HIF_STATUS with the mode of the device (Table 11-14). -/
def State.hifStatus (s : State) (f : Nat) : Nat :=
  s.mode.code + 8 * s.rg .HIF_STATUS_ready f + 16 * s.rg .HIF_STATUS_reset_busy f

/-- GET_FEATURE. -/
def State.doGetFeature (s : State) (c : Cmd) : State :=
  let f := c.ref.fn
  let q := bits (c.w 9) 0 16
  let ok (b : Bytes) : State := (s.dataOut c (bslice b 0 16)).completeCmd c c.okStatus 0
  match bits (c.w 1) 0 8 with
  | 1 => if c.w 9 = 0 && c.w 10 = 0 then ok (leBytes 8 (s.hifStatus f) ++ leBytes 8 s.devtime.toNat) else s.failCmd c stInvalidField
  | 2 => if c.w 9 != q || c.w 10 != 0 then s.failCmd c stInvalidField else
    match mget (fq f q) s.host.cqs with
    | some g => if q = 0 then s.failCmd c stQueueInvalid else ok (leBytes 4 (g.count + 65536 * g.timeUs))
    | none => s.failCmd c stQueueInvalid
  | 3 => if c.w 9 != q || c.w 10 != 0 then s.failCmd c stInvalidField else
    match mget (fq f q) s.host.rings with
    | some g => ok (leBytes 4 (g.count + 65536 * g.timeUs))
    | none => s.failCmd c stQueueInvalid
  | 4 => if c.w 9 < 1024 && c.w 10 = 0 then ok (leBytes 8 (s.regs.raw .CPM_TRACE (c.w 9)).toNat) else s.failCmd c stInvalidField
  | _ => s.failCmd c stInvalidField

/-- SET_FEATURE: coalescing applies to the next entry; a trace ring's new location starts a new ring. -/
def State.doSetFeature (s : State) (c : Cmd) : State :=
  let f := c.ref.fn
  let q := bits (c.w 9) 0 16
  let v := c.w 11
  let bad := c.w 9 != q || c.w 10 != 0 || !coalesceOk v || !rz v 9 7 || !rz v 26 6
  match bits (c.w 1) 0 8 with
  | 2 => if bad then s.failCmd c stInvalidField else
    match mget (fq f q) s.host.cqs with
    | some g => if q = 0 then s.failCmd c stQueueInvalid else
      let g := { g with count := bits v 0 9, timeUs := bits v 16 10 }
      { s with host := { s.host with cqs := mput (fq f q) g s.host.cqs } }.completeCmd c c.okStatus 0
    | none => s.failCmd c stQueueInvalid
  | 3 => if bad then s.failCmd c stInvalidField else
    match mget (fq f q) s.host.rings with
    | some g =>
      let g := { g with count := bits v 0 9, timeUs := bits v 16 10 }
      { s with host := { s.host with rings := mput (fq f q) g s.host.rings } }.completeCmd c c.okStatus 0
    | none => s.failCmd c stQueueInvalid
  | 4 => if 1024 ≤ c.w 9 || !rz v 19 13 then s.failCmd c stInvalidField else
    let s := { s with regs := s.regs.setRaw .CPM_TRACE (c.w 9) (BitVec.ofNat 64 (c.w 10 + 2 ^ 32 * v)), traceSeq := mdel (2 + c.w 9) s.traceSeq }
    s.completeCmd c c.okStatus 0
  | _ => s.failCmd c stInvalidField

/-- GET_FEATURE (Table 12-8). -/
def execGetFeature (r : CmdRef) (s : State) : Res := s.withCmd r 0x03 s.doGetFeature
/-- SET_FEATURE (Table 12-8). -/
def execSetFeature (r : CmdRef) (s : State) : Res := s.withCmd r 0x04 s.doSetFeature

/-! ### Camps -/

/-- CPM_STATE.kind (Table 09-12). -/
def State.campKind (s : State) (c : Nat) : Nat := s.rg .CPM_STATE_kind c

/-- CAMP_RATION: new amounts from the next period boundary (R269, R271, R363). -/
def State.doCampRation (s : State) (c : Cmd) (data : Bytes) : State :=
  let (b, s) := s.dataIn c data
  let camp := bits (c.w 9) 0 10
  match wholeLen c 48 with
  | .error st => s.failCmd c st
  | .ok c =>
    let ks := (List.range 6).filter (fun k => bits (c.w 10) k 1 == 1)
    if camp = 0 || ks.any (fun k => word64 b (2 * k) == 0) || (List.range 6).any (fun k => decide (2 ^ 40 ≤ word64 b (2 * k))) then
      s.failCmd c stInvalidField
    else
      let rn := ks.foldl (fun m k => mput (8 * camp + k) (word64 b (2 * k)) m) s.rationNext
      { s with rationNext := rn }.completeCmd c c.okStatus 0

/-- CAMP_RATION. -/
def execCampRation (r : CmdRef) (data : Bytes) (s : State) : Res := s.withCmd r 0x12 (fun c => s.doCampRation c data)

/-- Put a Camp into TEARDOWN (R363): its commands complete with ABORTED, its executions stop, its attachment, queues and rings end. -/
def State.startTeardown (s : State) (camp : Nat) : State :=
  let s := s.rs .CPM_STATE_state camp 4
  let s := s.cancelAll (s.host.cmds.filter (fun d => d.camp == camp && d.ref.sq != 0)) stAborted
  let s := { s with execs := mmap (fun _ e =>
      if e.camp = camp then { e with failed := e.failed.or (some stAborted), cancelled := true } else e) s.execs }
  let s := s.rs .HIF_ATTACH_attached camp 0
  { s with host := { s.host with
    sqs := s.host.sqs.filter (fun p => p.2.camp != camp || p.1 % 65536 == 0)
    cqs := s.host.cqs.filter (fun p => p.2.camp != camp || p.1 % 65536 == 0)
    rings := s.host.rings.filter (fun p => p.2.camp != camp)
    repost := mdel camp s.host.repost
    challenges := mdel camp s.host.challenges } }

/-- CAMP_DESTROY: it completes when the Camp is FREE (R363). -/
def State.doCampDestroy (s : State) (c : Cmd) : State :=
  let camp := bits (c.w 9) 0 10
  if camp = 0 || s.campKind camp != 1 then s.failCmd c stInvalidField
  else
    let s := if s.campState camp == .teardown then s else s.startTeardown camp
    s.modCmd c.uid (fun c => { c with wait := .teardown camp })

/-- CAMP_DESTROY. -/
def execCampDestroy (r : CmdRef) (s : State) : Res := s.withCmd r 0x11 s.doCampDestroy

/-! ### ATTACH (R342, R343) -/

/-- The conflict of an ATTACH of a Camp that is attached to another function (R324). -/
def State.attachedElsewhere (s : State) (c : Cmd) (camp : Nat) : Bool :=
  s.rg .HIF_ATTACH_attached camp == 1 && s.rg .HIF_ATTACH_function camp != c.ref.fn

/-- The answer to that conflict: STATE_CONFLICT, cause 2, to the PF; CAMP_NOT_FOUND to a VF (R349). -/
def State.attachConflict (s : State) (c : Cmd) : State :=
  if c.ref.fn = 0 then s.conflict c 2 else s.failCmd c stCampNotFound

/-- `n` fresh random bytes of draw `k` (R342). -/
def freshBytes (k n : Nat) : Bytes := (List.range n).map (Config.entropyByte k)

/-- ATTACH CHALLENGE. -/
def State.doAttachChallenge (s : State) (c : Cmd) : State :=
  let camp := bits (c.w 9) 0 10
  if c.w 1 != 0 then s
  else if camp = 0 || s.campKind camp = 2 || bits (c.w 9) 16 16 != 0 || c.w 8 < 32 || c.w 4 != 0 then s.failCmd c stInvalidField
  else if s.attachedElsewhere c camp then s.attachConflict c
  else if mhas camp s.host.lockout then s.failCmd c stBusy
  else
    let (k, s) := s.draw
    let b := freshBytes k 32
    let ch : Challenge := ⟨c.ref.fn, b, s.ticks + 250000000⟩
    let s := { s with host := { s.host with challenges := mput camp ch s.host.challenges } }
    (s.dataOut c b).completeCmd c c.okStatus 0

/-- The credential a PROVE must carry (R342). -/
def attachCredential (key : Bytes) (camp fn : Nat) (challenge : Bytes) : Bytes :=
  hmac .sha384 key ([0x4B, 0x56, 0x54, 0x2D, 0x41, 0x54, 0x54, 0x41, 0x43, 0x48] ++ leBytes 2 camp ++ leBytes 1 fn ++ challenge)

/-- A denial: counted; the fourth in a row locks CHALLENGE out for 1 s (R342). -/
def State.attachDeny (s : State) (c : Cmd) (camp : Nat) : State :=
  let s := s.ra .HIF_ATTACH_denied camp 1
  let n := s.rg .HIF_ATTACH_streak camp + 1
  let s := s.rs .HIF_ATTACH_streak camp (min n 4)
  let s := if 4 ≤ n then { s with host := { s.host with lockout := mput camp (s.ticks + 25000000) s.host.lockout } } else s
  s.failCmd c stAttachDenied

/-- ATTACH PROVE: the CQ, then the challenge, then the credential; success attaches the Camp and starts the redelivery of its retained
completions to the CQ named. -/
def State.doAttachProve (s : State) (c : Cmd) (data : Bytes) : State :=
  let camp := bits (c.w 9) 0 10
  let cq := bits (c.w 9) 16 16
  if c.w 1 != 1 then s else
  match wholeLen c 48 with
  | .error st => s.failCmd c st
  | .ok c =>
    if camp = 0 || s.campKind camp = 2 then s.failCmd c stInvalidField
    else if s.attachedElsewhere c camp then s.attachConflict c
    else if !mhas (fq c.ref.fn cq) s.host.cqs then s.failCmd c stQueueInvalid
    else
      let ch := mget camp s.host.challenges
      let s := { s with host := { s.host with challenges := mdel camp s.host.challenges } }
      let key := match mget camp s.camps with
        | some i => i.key
        | none => []
      match ch with
      | none => s.attachDeny c camp
      | some ch =>
        if ch.fn = c.ref.fn && s.ticks < ch.expiry && data.take 48 == attachCredential key camp c.ref.fn ch.bytes then
          let s := ((s.rs .HIF_ATTACH_streak camp 0).rs .HIF_ATTACH_function camp c.ref.fn).rs .HIF_ATTACH_attached camp 1
          let s := { s with host := { s.host with repost := mput camp (fq c.ref.fn cq) s.host.repost } }
          s.completeCmd c c.okStatus 0
        else s.attachDeny c camp

/-- ATTACH_CHALLENGE. -/
def execAttachChallenge (r : CmdRef) (s : State) : Res := s.withCmd r 0x13 s.doAttachChallenge
/-- ATTACH_PROVE. -/
def execAttachProve (r : CmdRef) (data : Bytes) (s : State) : Res := s.withCmd r 0x13 (fun c => s.doAttachProve c data)

/-! ### ABORT and FLUSH (R357, R358) -/

/-- Commands no ABORT catches (Table 12-4a). -/
def notAbortable (op : Nat) : Bool := op == 0x14 || op == 0x1A || op == 0x1B || op == 0x1C || op == 0x11

/-- ABORT: CAUGHT, MISSED, NOT_FOUND or NOT_ABORTABLE; its own completion follows the original's. -/
def State.doAbort (s : State) (c : Cmd) : State :=
  let ref : CmdRef := ⟨c.ref.fn, bits (c.w 9) 0 16, bits (c.w 9) 16 16⟩
  match s.host.cmds.reverse.find? (fun d => d.ref == ref && !d.gone && d.uid != c.uid) with
  | some d =>
    if notAbortable d.op then s.completeCmd c 0 4
    else
      let s := s.modCmd c.uid (fun c => { c with wait := .after d.uid, result := 1 })
      let s := s.cancelCmd d stAborted true
      settle s.host.cmds.length s
  | none =>
    if ref == c.ref then s.completeCmd c 0 4
    else
      let mine (e : Cqe) : Bool := e.sqId == ref.sq && e.cid == ref.cid && !e.ret
      let waiting := s.host.engine.any (fun w => w.fn == ref.fn && mine w.e)
      let unread := s.host.cqs.any (fun p => p.1 / 65536 == ref.fn && p.2.unacked.any (fun u => mine u.2))
      s.completeCmd c 0 (if waiting || unread then 2 else 3)

/-- ABORT. -/
def execAbort (r : CmdRef) (s : State) : Res := s.withCmd r 0x14 s.doAbort

/-- FLUSH completes after every command fetched earlier from the same SQ has passed its commit point. -/
def execFlush (r : CmdRef) (s : State) : Res :=
  s.withCmd r 0x49 (fun c =>
    let s := s.modCmd c.uid (fun c => { c with wait := .flush })
    settle s.host.cmds.length s)

end Sys2Proof.Machine
end

