-- ==== Sys2Proof/Machine/Aes.lean ====
section
/-! DEFINITION. AES-256 in Galois/Counter Mode (FIPS 197 and NIST SP 800-38D, which R475 names), the decryption with a 12-byte IV and a 16-byte tag. -/

namespace Sys2Proof.Machine

/-- The S-box, entry 0 as the most significant byte. -/
def aesSbox : Nat :=
  0x637c777bf26b6fc53001672bfed7ab76ca82c97dfa5947f0add4a2af9ca472c0b7fd9326363ff7cc34a5e5f171d8311504c723c31896059a071280e2eb27b27509832c1a1b6e5aa0523bd6b329e32f8453d100ed20fcb15b6acbbe394a4c58cfd0efaafb434d338545f9027f503c9fa851a3408f929d38f5bcb6da2110fff3d2cd0c13ec5f974417c4a77e3d645d197360814fdc222a908846eeb814de5e0bdbe0323a0a4906245cc2d3ac629195e479e7c8376d8dd54ea96c56f4ea657aae08ba78252e1ca6b4c6e8dd741f4bbd8b8a703eb5664803f60e613557b986c11d9ee1f8981169d98e949b1e87e9ce5528df8ca1890dbfe6426841992d0fb054bb16

/-- One byte through the S-box. -/
def aesSub (b : Byte) : Byte := BitVec.ofNat 8 (aesSbox >>> (8 * (255 - b.toNat)))

/-- Multiplication by x in the AES field. -/
def aesXtime (b : Byte) : Byte := (b <<< 1) ^^^ (if b.getLsbD 7 then 0x1B else 0)

/-- Bytewise exclusive or, as long as the shorter. -/
def xorBytes (a b : Bytes) : Bytes := List.zipWith (· ^^^ ·) a b

/-- The round keys as words of four bytes, `n` more of them after the first eight; the newest first. -/
def aesExpand : Nat → List Bytes → List Bytes
  | 0, ws => ws
  | n + 1, ws =>
    let i := ws.length
    let t := ws.headD []
    let t := if i % 8 = 0 then
        xorBytes (((t.drop 1) ++ (t.take 1)).map aesSub) [(List.range (i / 8 - 1)).foldl (fun b _ => aesXtime b) 1, 0, 0, 0]
      else if i % 8 = 4 then t.map aesSub
      else t
    aesExpand n (xorBytes ((ws[7]?).getD []) t :: ws)

/-- The fifteen round keys of a 32-byte key, 16 bytes each. -/
def aesKeys (key : Bytes) : List Bytes :=
  let ws := (aesExpand 52 ((List.range 8).map (fun i => bslice key (4 * i) 4)).reverse).reverse.flatten
  (List.range 15).map (fun i => bslice ws (16 * i) 16)

/-- ShiftRows of a 16-byte state, columns of four bytes. -/
def aesShift (b : Bytes) : Bytes := (List.range 16).map (fun i => b.getD ((i + 4 * (i % 4)) % 16) 0)

/-- MixColumns: each byte from the four of its column. -/
def aesMix (b : Bytes) : Bytes :=
  (List.range 16).map (fun i =>
    let at_ (k : Nat) : Byte := b.getD (4 * (i / 4) + (i + k) % 4) 0
    aesXtime (at_ 0) ^^^ (aesXtime (at_ 1) ^^^ at_ 1) ^^^ at_ 2 ^^^ at_ 3)

/-- One block through AES-256. -/
def aesBlock (keys : List Bytes) (b : Bytes) : Bytes :=
  let b := (List.range 13).foldl (fun b i => xorBytes (aesMix (aesShift (b.map aesSub))) (keys.getD (i + 1) [])) (xorBytes b (keys.getD 0 []))
  xorBytes (aesShift (b.map aesSub)) (keys.getD 14 [])

/-- The product in the field of GHASH, blocks as 128-bit numbers whose most significant bit is bit 0 of the standard. -/
def ghashMul (x y : Nat) : Nat :=
  ((List.range 128).foldl (fun (q : Nat × Nat) i =>
    (if x.testBit (127 - i) then q.1 ^^^ q.2 else q.1, if q.2 % 2 = 1 then (q.2 / 2) ^^^ (0xE1 <<< 120) else q.2 / 2)) (0, y)).1

/-- Zero bytes to a multiple of 16. -/
def ghashPad (b : Bytes) : Bytes := b ++ List.replicate ((16 - b.length % 16) % 16) 0

/-- GHASH of the additional data and the ciphertext. -/
def ghash (h : Nat) (aad text : Bytes) : Nat :=
  let all := ghashPad aad ++ ghashPad text ++ beBytes 8 (8 * aad.length) ++ beBytes 8 (8 * text.length)
  (List.range (all.length / 16)).foldl (fun x i => ghashMul (x ^^^ beNat (bslice all (16 * i) 16)) h) 0

/-- Counter mode from counter 2 on, as the text's blocks take it. -/
def gcmText (keys : List Bytes) (iv text : Bytes) : Bytes :=
  ((List.range ((text.length + 15) / 16)).map (fun i => xorBytes (bslice text (16 * i) 16) (aesBlock keys (iv ++ beBytes 4 (i + 2))))).flatten.take text.length

/-- AES-256-GCM decryption: key, IV of 12 bytes, additional data, ciphertext and tag; none where the tag does not match. -/
def gcmOpen (key iv aad text tag : Bytes) : Option Bytes :=
  let keys := aesKeys key
  let h := beNat (aesBlock keys (List.replicate 16 0))
  if beBytes 16 (ghash h aad text ^^^ beNat (aesBlock keys (iv ++ [0, 0, 0, 1]))) = tag then some (gcmText keys iv text) else none

end Sys2Proof.Machine
end

