-- ==== Sys2Proof/Machine/Camps.lean ====
section
/-! DEFINITION. Camp descriptors, creation, wrapped keys and key slots (R253, R313, R363, R364, R474 to R477). -/

namespace Sys2Proof.Machine

/-! ### Camp descriptors (Table 12-9) -/

/-- Bytes of an ASCII label. -/
def label (s : String) : Bytes := s.toList.map (fun c => BitVec.ofNat 8 c.toNat)

/-- The fields of a Camp descriptor that are within their ranges, RZ bits 0 and no Ration amount 0 (R363 check 1). -/
def descFieldsOk (d : Bytes) : Bool :=
  let w := word32 d
  let amounts := (List.range 6).map (fun k => word64 d (8 + 2 * k))
  decide (1 ≤ bits (w 0) 4 10) && decide (bits (w 0) 14 6 ≤ 50) && bits (w 0) 21 2 != 0 && rz (w 0) 23 9 &&
  decide (1 ≤ bits (w 1) 0 15) && decide (bits (w 1) 0 15 ≤ 16384) && decide (bits (w 1) 15 11 ≤ 1024) && rz (w 1) 26 6 &&
  decide (bits (w 2) 0 9 ≤ 256) && decide (bits (w 2) 9 7 ≤ 64) && rz (w 2) 16 16 && w 7 == 0 &&
  amounts.all (fun a => a != 0 && decide (a < 2 ^ 40)) && (List.range 12).all (fun k => w (20 + k) == 0)

/-- Does the Moraine fit the quota it counts against (R313, R363)? -/
def descMoraineOk (far : Bool) (d : Bytes) : Bool :=
  if far then decide (word32 d 5 ≤ word32 d 4) else decide (word32 d 5 ≤ word32 d 3)

/-- What the descriptor reserves (R313): near and far 64 KiB units, matching-store units, plans, standing queries, ternary and
automaton units. Result staging lies in near memory (R339). -/
def descReserve (d : Bytes) : List Nat :=
  let w := word32 d
  [w 3 + w 6, w 4, bits (w 0) 4 10, bits (w 1) 0 15, bits (w 1) 15 11, bits (w 2) 0 9, bits (w 2) 9 7]

/-- What an existing Camp holds reserved, in the order of `descReserve`. -/
def CampInfo.reserve (s : State) (c : Nat) (i : CampInfo) : List Nat :=
  [i.nearQuota + i.staging, i.farQuota, s.rg .CPM_STATE_mse_allot c, i.planAllot, i.standingAllot, i.segUnits, i.autUnits]

/-- The device's capacity of each kind (Table 10-1, R210, R255; Match Unit: Ternary associative store, MAT_CTL). -/
def State.capacity (s : State) : List Nat :=
  [s.nearEnd / 2 ^ 17, s.farBytes / 65536, 1024, 16384, 1024, 256, (((List.range 16).map (fun c => min (s.rg .MAT_CTL_aut_states c) 262144 / 4096)).min?).getD 0]

/-- Free capacity: the device's capacity less what Camp 0 and every existing Camp hold reserved (R363 check 3). -/
def State.freeCapacity (s : State) : List Nat :=
  s.camps.foldl (fun a p => List.zipWith (· - ·) a (p.2.reserve s p.1))
    (List.zipWith (· - ·) s.capacity (s.trust.rootReserve ++ List.replicate (7 - s.trust.rootReserve.length) 0))

/-- Does a descriptor's reservation fit? -/
def State.fits (s : State) (d : Bytes) : Bool :=
  (List.zipWith (fun (a b : Nat) => decide (a ≤ b)) (descReserve d) s.freeCapacity).all id

/-- The default estimate of a task class: the ESTIMATE record's, or one within R277's range that the manual does not fix. -/
def State.seedEst (s : State) (c k : Nat) : State :=
  match s.trust.cfg.estimates with
  | e :: _ => s.rs .PWR_EST_estimate (16 * c + k) (e.getD k 1000)
  | [] =>
    let (n, s) := s.draw
    s.rs .PWR_EST_estimate (16 * c + k) (1000 + (Config.freeWord n).toNat % 15999001)

/-- Firmware writes translation entries (R298): 64-bit values at physical DAs. -/
def State.putEntries (s : State) (es : List (Nat × BitVec 64)) : State :=
  es.foldl (fun s e => s.memPut e.1 (leBytes 8 e.2.toNat)) s

/-- Create a Camp from its descriptor: its fixed registers, its Ration with a full remainder, its partition class, its estimates, its
retention capacity and its translation root. `units` is the near memory its tables take (R298). -/
def State.createCamp (s : State) (id kind : Nat) (d key : Bytes) (ext : Option Nat) (root units : Nat) : State :=
  let w := word32 d
  let s := (((s.rs .CPM_STATE_kind id kind).rs .CPM_STATE_state id 1).rs .CPM_STATE_prio_ceiling id (bits (w 0) 0 4)).rs
    .CPM_STATE_mse_allot id (bits (w 0) 4 10)
  let s := ((s.rs .CPM_STATE_urgent_reserve id (bits (w 0) 14 6)).rs .CPM_STATE_trace_bucket id (bits (w 0) 20 1)).rs
    .CPM_STATE_exhausted id 0
  let s := (List.range 6).foldl (fun s k =>
    let a := word64 d (8 + 2 * k) % 2 ^ 40
    (s.rs .CPM_RATION_amount (8 * id + k) a).rs .CPM_REMAIN_remain (8 * id + k) (if a = unlimited then 0 else a)) s
  let s := { s with regs := (s.regs.setRaw .ERR_CAMP id 0).setRaw .HIF_ATTACH id 0 }
  let s := s.rs .CCH_CAMPCLASS_class id (bits (w 0) 21 2)
  let r := s.trust.cfg.retain.headD ⟨0, 0, 0, 0⟩
  let s := s.rs .HIF_RETAIN_capacity id (if kind = 2 then r.serviceEntries else r.tenantEntries)
  let s := (s.rs .XLT_ROOT_base id root).rs .XLT_ROOT_valid id 1
  let s := (List.range 16).foldl (fun s k => s.seedEst id k) s
  let moraineNear := s.farBytes == 0
  let i : CampInfo := ⟨w 3, w 4, w 5, w 6, bits (w 1) 0 15, bits (w 1) 15 11, bits (w 2) 0 9, bits (w 2) 9 7,
    units + (if moraineNear then w 5 else 0), if moraineNear then 0 else w 5, 0, 0, key, ext, 1⟩
  { s with camps := mput id i s.camps }

/-! ### Wrapped keys (R474, R475) -/

/-- Is the blob's structure that of Table 15-14 (R475)? -/
def blobOk (b : Bytes) : Bool :=
  let w := word32 b
  let n := bits (w 0) 24 8
  bits (w 0) 0 16 == 0x3B7E && bits (w 0) 16 8 == 1 && decide (16 ≤ n) && decide (n ≤ 128) && n % 8 == 0 &&
  decide (bits (w 1) 0 8 ≤ 1) && decide (bits (w 1) 8 8 ≤ 1) && rz (w 1) 16 16 && w 6 == 0 && w 7 == 0 &&
  (bits (w 1) 8 8 != 1 || n == 48)

/-- Unwrap a well-formed blob for a target Camp (none: CAMP_CREATE) from a function, for a purpose. `owner` is the target Camp's credential
key. None is AUTH_FAILED. -/
def State.unwrap (s : State) (b : Bytes) (fn : Nat) (target : Option Nat) (owner : Bytes) (purpose : Nat) : Option Bytes :=
  let w := word32 b
  let n := bits (w 0) 24 8
  let aad := bslice b 0 32 ++ leBytes 2 (match target with | some c => c | none => 0xFFFF)
  let openWith (k : Bytes) : Option Bytes := gcmOpen k (bslice b 12 12) aad (bslice b 32 n) (bslice b (32 + n) 16)
  if bits (w 1) 8 8 != purpose then none
  else if bits (w 1) 0 8 = 0 then
    if fn != 0 then none
    else match s.trust.sessions.find? (fun x => x.id == w 2 && x.established) with
      | some x => openWith (hkdfExpand .sha384 x.secret (label "KVT-WRAP") 32)
      | none => none
  else match target with
    | some _ => openWith ((hmac .sha384 owner (label "KVT-KEK")).take 32)
    | none => none

/-! ### Key slots (R476, R477) -/

/-- The engines that a load or release reaches at once: a frozen cluster's engine takes it at its thaw (R285, R477). -/
def State.liveEngines (s : State) : List Nat :=
  (List.range 17).filter (fun e => e == 16 || decide (s.rg .PWR_CLUSTER_pstate e < 2))

/-- Load a key into the same slot of every engine. -/
def State.loadSlot (s : State) (slot camp : Nat) (key : Bytes) : State :=
  let ks := s.liveEngines.foldl (fun m e => mput (e * 32 + slot) key m) s.trust.keys
  let s := { s with trust := { s.trust with keys := ks, copies := mput slot ⟨camp, key⟩ s.trust.copies } }
  ((s.rs .DGE_KEYSTAT_loaded slot 1).rs .DGE_KEYSTAT_camp slot camp).rs .DGE_KEYSTAT_key_len slot key.length

/-- Zero a slot in every engine, and its copy. -/
def State.zeroSlot (s : State) (slot : Nat) : State :=
  let ks := s.trust.keys.filter (fun p => p.1 % 32 != slot || !s.liveEngines.contains (p.1 / 32))
  let s := { s with trust := { s.trust with keys := ks, copies := mdel slot s.trust.copies } }
  { s with regs := s.regs.setRaw .DGE_KEYSTAT slot 0 }

/-- Put a key in a root slot (Table 15-15). -/
def State.rootSlot (s : State) (slot : Nat) (key : Bytes) : State :=
  let s := { s with trust := { s.trust with keys := mput (16 * 32 + slot) key s.trust.keys } }
  (s.rs .DGE_KEYSTAT_loaded slot 1).rs .DGE_KEYSTAT_key_len slot key.length

/-- Clear a root slot. -/
def State.clearRootSlot (s : State) (slot : Nat) : State :=
  { s with
    trust := { s.trust with keys := mdel (16 * 32 + slot) s.trust.keys }
    regs := s.regs.setRaw .DGE_KEYSTAT slot 0 }

/-- Does a Camp own a slot? -/
def State.ownsSlot (s : State) (camp slot : Nat) : Bool :=
  match mget slot s.trust.copies with
  | some k => decide (8 ≤ slot) && k.camp == camp
  | none => false

/-- KEY_LOAD (R364): allocate, replace or free a slot of the named Camp. -/
def State.doKeyLoad (s : State) (c : Cmd) (data : Bytes) : State :=
  let camp := bits (c.w 9) 0 10
  let slot := bits (c.w 10) 0 5
  let free := bits (c.w 10) 5 1 = 1
  let owner := match mget camp s.camps with | some i => i.key | none => []
  if free then
    if s.ownsSlot camp slot then (s.zeroSlot slot).completeCmd c c.okStatus slot else s.failCmd c stKeyNotFound
  else
    let dest := if slot = 0 then ((List.range 24).map (· + 8)).find? (fun k => !mhas k s.trust.copies)
      else if s.ownsSlot camp slot then some slot else none
    match dest with
    | none => s.failCmd c (if slot = 0 then stNoResource else stKeyNotFound)
    | some k =>
      let (b, s) := s.dataIn c data
      if b.length < 4 then s.failCmd c stLengthShort
      else
        let n := bits (word32 b 0) 24 8
        match wholeLen c (48 + n) with
        | .error st => s.failCmd c (if blobOk b || b.length < 32 then st else stInvalidField)
        | .ok c =>
          if !blobOk b then s.failCmd c stInvalidField
          else match s.unwrap b c.ref.fn (some camp) owner 0 with
            | none => s.failCmd c stAuthFailed
            | some key => (s.loadSlot k camp key).completeCmd c c.okStatus k

/-- KEY_LOAD. -/
def execKeyLoad (r : CmdRef) (data : Bytes) (s : State) : Res := s.withCmd r 0x15 (fun c => s.doKeyLoad c data)

/-! ### CAMP_CREATE (R363) -/

/-- CAMP_CREATE: the checks in order, then a tenant Camp. `id`, the translation entries, the root and the near units of the tables are firmware's
choice; an ID that is not free is no choice it makes. -/
def State.doCampCreate (s : State) (c : Cmd) (data : Bytes) (id root units : Nat) (es : List (Nat × BitVec 64)) : State :=
  let (d, s) := s.dataIn c data
  match wholeLen c 224 with
  | .error st => s.failCmd c st
  | .ok c =>
    let far := s.farBytes != 0
    let blob := bslice d 128 96
    if !descFieldsOk d || !descMoraineOk far d || !blobOk blob then s.failCmd c stInvalidField
    else match s.unwrap blob c.ref.fn none [] 1 with
      | none => s.failCmd c stAuthFailed
      | some key =>
        let ids := ((List.range 1023).map (· + 1)).filter (fun k => s.campState k == .free)
        if ids.isEmpty || !s.fits d then s.failCmd c stNoResource
        else if !ids.contains id || word32 d 3 < units then s
        else ((s.putEntries es).createCamp id 1 d key none root units).completeCmd c c.okStatus id

/-- CAMP_CREATE. -/
def execCampCreate (r : CmdRef) (data : Bytes) (id root units : Nat) (es : List (Nat × BitVec 64)) (s : State) : Res :=
  s.withCmd r 0x10 (fun c => s.doCampCreate c data id root units es)

end Sys2Proof.Machine
end

