-- ==== Sys2Proof/Machine/P384.lean ====
section
/-! DEFINITION. ECDSA on the P-384 curve with SHA-384 (FIPS 186-5, which R451, R458, R464 and R469 name). Coordinates are numbers below
the field's prime; a point is given by three of them, x / z² and y / z³, and the point at infinity has z = 0. -/

namespace Sys2Proof.Machine

/-- The prime of the field. -/
def p384p : Nat := 2 ^ 384 - 2 ^ 128 - 2 ^ 96 + 2 ^ 32 - 1
/-- The order of the P-384 group. -/
def p384n : Nat := 0xFFFFFFFFFFFFFFFFFFFFFFFFFFFFFFFFFFFFFFFFFFFFFFFFC7634D81F4372DDF581A0DB248B0A77AECEC196ACCC52973
/-- The curve y² = x³ - 3x + b. -/
def p384b : Nat := 0xb3312fa7e23ee7e4988e056be3f82d19181d9c6efe8141120314088f5013875ac656398d8a2ed19d2a85c8edd3ec2aef

/-- A point. -/
structure EcPoint where
  x : Nat
  y : Nat
  z : Nat
  deriving DecidableEq, Repr

/-- The base point. -/
def ecBase : EcPoint :=
  ⟨0xaa87ca22be8b05378eb1c71ef320ad746e1d3b628ba79b9859f741e082542a385502f25dbf55296c3a545e3872760ab7,
   0x3617de4a96262c6f5d9e98bf9292dc29f8f41dbd289a147ce9da3113b5f0b8c00a60b1ce1d7e819d7a431d7c90ea0e5f, 1⟩

/-- Difference of two reduced numbers. -/
def fieldSub (m a b : Nat) : Nat := (a + m - b) % m

/-- x ^ e modulo m, the exponent taken a bit at a time. -/
def powMod (m : Nat) : Nat → Nat → Nat → Nat
  | 0, _, _ => 1 % m
  | fuel + 1, x, e =>
    let h := powMod m fuel (x * x % m) (e / 2)
    if e % 2 = 1 then x * h % m else h

/-- The inverse modulo a prime below 2 ^ 384. -/
def invMod (m x : Nat) : Nat := powMod m 384 x (m - 2)

/-- Twice a point. -/
def EcPoint.dbl (a : EcPoint) : EcPoint :=
  let m := p384p
  let d := a.z * a.z % m
  let g := a.y * a.y % m
  let b := a.x * g % m
  let t := 3 * (fieldSub m a.x d * (a.x + d)) % m
  let x := fieldSub m (t * t % m) (8 * b % m)
  ⟨x, fieldSub m (t * fieldSub m (4 * b % m) x % m) (8 * (g * g) % m), 2 * (a.y * a.z) % m⟩

/-- The sum of two points. -/
def EcPoint.add (a b : EcPoint) : EcPoint :=
  let m := p384p
  if a.z = 0 then b else if b.z = 0 then a else
  let za := a.z * a.z % m
  let zb := b.z * b.z % m
  let u := a.x * zb % m
  let s := a.y * (b.z * zb % m) % m
  let h := fieldSub m (b.x * za % m) u
  let r := fieldSub m (b.y * (a.z * za % m) % m) s
  if h = 0 then (if r = 0 then a.dbl else ⟨1, 1, 0⟩) else
  let hh := h * h % m
  let hhh := h * hh % m
  let v := u * hh % m
  let x := fieldSub m (r * r % m) ((hhh + 2 * v) % m)
  ⟨x, fieldSub m (r * fieldSub m v x % m) (s * hhh % m), a.z * b.z % m * h % m⟩

/-- k times a point, for k below 2 ^ 384. -/
def EcPoint.times (k : Nat) (a : EcPoint) : EcPoint :=
  (List.range 384).foldl (fun (q : EcPoint) i => if k.testBit (383 - i) then q.dbl.add a else q.dbl) ⟨1, 1, 0⟩

/-- The x and y of a point that is not at infinity. -/
def EcPoint.affine (a : EcPoint) : Nat × Nat :=
  let i := invMod p384p a.z
  let j := i * i % p384p
  (a.x * j % p384p, a.y * (i * j % p384p) % p384p)

/-- Is (x, y) a public key: reduced and on the curve? -/
def ecOnCurve (x y : Nat) : Bool :=
  decide (x < p384p) && decide (y < p384p) && y * y % p384p == (x * x * x + (p384p - 3) * x + p384b) % p384p

/-- ECDSA verification: the public key's x and y, a SHA-384 digest, r and s, all big-endian. -/
def ecdsaVerify (key digest r s : Bytes) : Bool :=
  let x := beNat (bslice key 0 48)
  let y := beNat (bslice key 48 48)
  let r := beNat r
  let s := beNat s
  if !ecOnCurve x y || r == 0 || s == 0 || decide (p384n ≤ r) || decide (p384n ≤ s) then false
  else
    let w := invMod p384n s
    let q := (EcPoint.times (beNat digest * w % p384n) ecBase).add (EcPoint.times (r * w % p384n) ⟨x, y, 1⟩)
    q.z != 0 && q.affine.1 % p384n == r

/-- The public key of a secret key: x then y (R458). -/
def p384Public (secret : Bytes) : Bytes :=
  let q := (EcPoint.times (beNat secret % p384n) ecBase).affine
  beBytes 48 q.1 ++ beBytes 48 q.2

/-- An ECDSA signature with a secret key over a SHA-384 digest: r and s (R464, R471). Its per-message secret number, from 1 to n - 1, is free. -/
def ecdsaSign (secret digest : Bytes) (draw : Nat) : Bytes × Bytes :=
  let k := Config.signNonce draw % (p384n - 1) + 1
  let r := (EcPoint.times k ecBase).affine.1 % p384n
  (beBytes 48 r, beBytes 48 (invMod p384n k * (beNat digest + r * beNat secret) % p384n))

end Sys2Proof.Machine
end

