-- ==== Sys2Proof/Machine/Boot.lean ====
section
/-! DEFINITION. Boot: signed components, the configuration image, the Cairn log, memory training and the boot flow (Measured
Boot, Attestation and the Digest Engine; Memory Tiers). -/

namespace Sys2Proof.Machine

/-! ### Fuses and keys (R446, R458, R466) -/

/-- Number of blown bits of a bank. -/
def blown (b : BitVec 64) : Nat := ((List.range 64).filter (fun i => b.getLsbD i)).length

/-- The fuse minimum of a stage (R466). -/
def Fuses.minSvn (f : Fuses) (stage : Nat) : Nat := blown (f.svn.getD stage 0)

/-- Is OWNER_KEY_HASH all zero (R448)? -/
def Fuses.ownerless (f : Fuses) : Bool := f.owner.all (· == 0)

/-- key_from of R458. -/
def keyFrom (x : Bytes) : Bytes := beBytes 48 (beNat x % (p384n - 1) + 1)

/-- The DeviceID key: it depends only on UDS (R458, R459). -/
def Fuses.devidKey (f : Fuses) : Bytes := keyFrom (hmac .sha384 f.uds (label "KVT-DEVID"))

/-- SHA-384 of the DeviceID public key (Table 15-12). -/
def Fuses.devidHash (f : Fuses) : Bytes := sha .sha384 (p384Public f.devidKey)

/-! ### Image directory (R450) -/

/-- One entry of a directory. -/
structure DirEntry where
  type : Nat
  ext : Nat
  offset : Nat
  length : Nat
  deriving DecidableEq, Repr

/-- Bytes of an image's window of 32 MiB. -/
def imageBytes : Nat := 0x2000000

/-- Do two stretches overlap? -/
def overlap (a b : DirEntry) : Bool := decide (a.offset < b.offset + b.length) && decide (b.offset < a.offset + a.length)

/-- No two of the entries overlap. -/
def disjoint : List DirEntry → Bool
  | [] => true
  | e :: l => l.all (fun x => !overlap e x) && disjoint l

/-- The directory of an image, when it is valid (R450, Table 15-2). -/
def directory (b : Bytes) : Option (List DirEntry) :=
  let w := word32 b
  let n := bits (w 0) 24 5
  let es := (List.range n).map (fun i => (⟨bits (w (4 + 4 * i)) 0 8, bits (w (4 + 4 * i)) 8 4, w (5 + 4 * i), w (6 + 4 * i)⟩ : DirEntry))
  let headOk := bits (w 0) 0 16 == 0xD17E && bits (w 0) 16 8 == 1 && decide (4 ≤ n) && decide (n ≤ 20) && rz (w 0) 29 3 &&
    w 1 == 0 && w 2 == 0 && w 3 == 0
  let rzOk := (List.range n).all (fun i => rz (w (4 + 4 * i)) 12 20 && w (7 + 4 * i) == 0)
  let typesOk := [1, 2, 3, 4].all (fun t => (es.filter (fun e => e.type == t)).length == 1) &&
    es.all (fun e => decide (1 ≤ e.type) && decide (e.type ≤ 5) && (e.type == 5 || e.ext == 0))
  let exts : List Nat := (es.filter (fun e => e.type == 5)).map (·.ext)
  let extOk := decide (exts.length ≤ 16) && decide exts.Nodup
  let placeOk := es.all (fun e => e.offset % 256 == 0 && decide (e.offset + e.length ≤ imageBytes) && decide (e.offset + e.length ≤ b.length))
  if headOk && rzOk && typesOk && extOk && placeOk && disjoint es then some es else none

/-! ### Components (R451) -/

/-- Stage and signer of a component type (Table 15-3). -/
def stageOf (t : Nat) : Nat := t - 1
/-- Does the owner sign this type? -/
def ownerSigned (t : Nat) : Bool := decide (4 ≤ t)

/-- A component that passed its checks: measurement, svn, version and body. -/
structure Checked where
  digest : Bytes
  svn : Nat
  version : Nat
  body : Bytes
  deriving DecidableEq, Repr

/-- The checks of R451, in order; the fallback cause of the first that fails. -/
def checkComponent (f : Fuses) (e : DirEntry) (image : Bytes) : Except Nat Checked :=
  let c := bslice image e.offset e.length
  let w := word32 c
  let signer := bits (w 2) 16 1
  let svn := bits (w 2) 0 16
  let body := c.drop 256
  let key := bslice c 16 96
  let headOk := bits (w 0) 0 16 == 0x5C0E && bits (w 0) 16 8 == 1 && bits (w 0) 24 8 == e.type && (signer == 1) == ownerSigned e.type &&
    rz (w 2) 17 15 && (List.range 12).all (fun k => w (52 + k) == 0) && w 1 + 256 == e.length
  if !headOk then .error 2
  else if sha .sha384 key != (if signer = 1 then f.owner else f.vendor) then .error 3
  else
    let m := sha .sha384 (bslice c 0 112 ++ body)
    if !ecdsaVerify key m (bslice c 112 48) (bslice c 160 48) then .error 4
    else if svn < f.minSvn (stageOf e.type) then .error 5
    else .ok ⟨m, svn, w 3, body⟩

/-! ### The configuration image (R452, R453) -/

/-- One record: its rtype and its bytes, first word included. -/
structure CfgRec where
  rtype : Nat
  bytes : Bytes
  deriving DecidableEq, Repr

/-- The records of a body, when they end exactly at its end and every length is legal. -/
def cfgRecords : Nat → Bytes → Option (List CfgRec)
  | 0, b => if b.isEmpty then some [] else none
  | n + 1, b =>
    if b.isEmpty then some [] else
    let len := bits (word32 b 0) 16 16
    if b.length < 8 || len < 8 || len % 8 != 0 || b.length < len then none
    else match cfgRecords n (b.drop len) with
      | some l => some (⟨bits (word32 b 0) 0 16, b.take len⟩ :: l)
      | none => none

/-- A register and value that a REG record sets; none where it is not legal: no register with cfg fields, a bit of another field set, or a
field outside its range. -/
def regRecord (h256 : Bool) (r : CfgRec) : Option (Reg × Nat × Nat) :=
  let da := word64 r.bytes 1
  let v := word64 r.bytes 3
  if r.bytes.length < 24 || da < 0x3F0000000000 || da % 16 != 0 then none
  else match regOfKey ((da - 0x3F0000000000) / 16) with
    | none => none
    | some (g, i) =>
      let fs := g.fields.filter (fun f => f.cfg && (f.acc == .rwl || f.acc == .rw))
      let cover := fs.foldl (fun a f => a ||| (f.mask (BitVec.allOnes 64)).toNat) 0
      let fld (f : Fld) : Nat := bits v f.lo f.w
      let inRange := match g with
        | .PWR_LIMIT => let x := fld .PWR_LIMIT_sustained
          if h256 then decide (400 ≤ x) && decide (x ≤ 760) else decide (450 ≤ x) && decide (x ≤ 850)
        | .PWR_EST => decide (1000 ≤ fld .PWR_EST_estimate) && decide (fld .PWR_EST_estimate ≤ 16000000)
        | .THM_CTL => decide (70 ≤ fld .THM_CTL_t_throttle) && decide (fld .THM_CTL_t_throttle ≤ 100)
        | .PWR_CTL => decide (16 ≤ fld .PWR_CTL_f_eff) && decide (fld .PWR_CTL_f_eff ≤ 40)
        | .HIF_PTM => decide (fld .HIF_PTM_interval_ms ≤ 1000)
        | .MAT_CTL => fld .MAT_CTL_aut_states % 4096 == 0
        | .ULR_RSBASE => fld .ULR_RSBASE_base % 2 ^ 21 == 0
        | _ => true
      if fs.isEmpty || Nat.land v (2 ^ 64 - 1 - cover) != 0 || !inRange then none else some (g, i, v)

/-- Are the numbers of records and what they say within Table 15-5? `exts` are the ext_index values of the image's type-5 components. -/
def contentOk (rs : List CfgRec) (c : CfgContent) (exts : List Nat) : Bool :=
  let n (t : Nat) : Nat := (rs.filter (fun r => r.rtype == t)).length
  let known := rs.all (fun r => decide (2 ^ 15 ≤ r.rtype) || (decide (1 ≤ r.rtype) && decide (r.rtype ≤ 10)))
  let counts := n 2 == c.identity.length && decide (n 2 ≤ 1) && n 3 == c.policy.length && n 3 == 1 && n 4 == c.retain.length && n 4 == 1 &&
    n 5 == c.exts.length && n 5 == exts.length && n 6 == c.grants.length && n 7 == c.timers.length && n 8 == c.events.length &&
    n 9 == c.estimates.length && decide (n 9 ≤ 1) && n 10 == c.ownerCert.length && decide (n 10 ≤ 1)
  let ids := c.identity.all (fun p => decide (p.1 < 2 ^ 16) && decide (p.2 < 2 ^ 16))
  let pol := c.policy.all (fun p => decide (p.jtag ≤ 2) && decide (p.uart ≤ 2))
  let ext := exts.all (fun x => (c.exts.filter (fun e => e.index == x)).length == 1) &&
    c.exts.all (fun e => e.desc.length == 224 && descFieldsOk e.desc && (e.desc.drop 128).all (· == 0) && decide (e.slots < 2 ^ 32))
  let grants := c.grants.all (fun g => decide (g.ext ≤ 15) && decide (g.services < 2 ^ 64) && decide (g.lo < 1024) && decide (g.hi < 1024) &&
    decide (g.classes < 16))
  let timers := c.timers.all (fun t => decide (t.ext ≤ 15) && decide (t.service ≤ 63))
  let events := c.events.all (fun e => decide (192 ≤ e.source) && decide (e.source ≤ 511) && decide (e.ext ≤ 15) && decide (e.service ≤ 63))
  let ests := c.estimates.all (fun l => l.length == 16 && l.all (fun e => decide (1000 ≤ e) && decide (e ≤ 16000000)))
  known && counts && ids && pol && ext && grants && timers && events && ests

/-- The register writes of a configuration image's body, in record order; none where the image is invalid (cause 6). -/
def parseCfg (h256 : Bool) (body : Bytes) (c : CfgContent) (exts : List Nat) : Option (List (Reg × Nat × Nat)) :=
  match cfgRecords body.length body with
  | none => none
  | some rs =>
    let regs := (rs.filter (fun r => r.rtype == 1)).map (regRecord h256)
    if contentOk rs c exts && regs.all (·.isSome) then some (regs.filterMap id) else none

/-! ### The Cairn log (R461 to R464) -/

/-- The device state record (Table 15-9). -/
def stateRecord (strapBoot : Nat) (dbg : Bool) (img fallback : Nat) (f : Fuses) : Bytes :=
  leBytes 4 (strapBoot % 4 + (if dbg then 4 else 0) + 8 * img + 16 * fallback + 256 * Config.romRev.toNat + 2 ^ 16 * 0x02) ++
  leBytes 1 (f.minSvn 0) ++ leBytes 1 (f.minSvn 1) ++ leBytes 1 (f.minSvn 2) ++ leBytes 1 (f.minSvn 3) ++ leBytes 4 (f.minSvn 4) ++
  List.replicate 20 0

/-- A measurement entry (Table 15-10). -/
def cairnEntry (index img seq svn version ticks offset length : Nat) (digest detail : Bytes) : Bytes :=
  leBytes 4 (0xCA12 + 2 ^ 16 + 2 ^ 24) ++ leBytes 4 (index + 256 * img + 2 ^ 16 * seq) ++ leBytes 4 svn ++ leBytes 4 version ++
  leBytes 8 ticks ++ leBytes 4 offset ++ leBytes 4 length ++ bslice digest 0 48 ++ bslice detail 0 32 ++ List.replicate 16 0

/-- The first 120 bytes of the seal (Table 15-11). -/
def sealHead (count : Nat) (nonce : BitVec 64) (ticks : Nat) (entries aliasPub : Bytes) : Bytes :=
  leBytes 4 (0xCA12 + 2 ^ 16 + 2 * 2 ^ 24) ++ leBytes 4 (count + 2 ^ 16 * count) ++ leBytes 8 nonce.toNat ++ leBytes 8 ticks ++
  sha .sha384 entries ++ sha .sha384 aliasPub

/-- The log's bytes: the entries, then the seal (R465). -/
def TrustState.log (t : TrustState) : Bytes := t.cairn.flatten ++ t.sealed

/-- Append an entry: the log, and BOT_CAIRN with it (Table 15-24). -/
def State.cairnAdd (s : State) (index img svn version offset length : Nat) (digest detail : Bytes) : State :=
  if 126 ≤ s.trust.cairn.length then s else
  let e := cairnEntry index img s.trust.cairn.length svn version (s.ticks - s.trust.step1) offset length digest detail
  let s := { s with trust := { s.trust with cairn := s.trust.cairn ++ [e] } }
  (s.rs .BOT_CAIRN_entries 0 s.trust.cairn.length).rs .BOT_CAIRN_bytes 0 s.trust.log.length

/-! ### Warm restart (R457, Table 16-2) -/

/-- Firmware's configuration fields return to their defaults, so that the boot reloads them (Table 16-2). -/
def RegFile.dropCfg (m : RegFile) : RegFile :=
  m.foldl (fun (a : RegFile) p => match regOfKey p.1 with
    | some (r, i) => (r.fields.filter (·.cfg)).foldl (fun (a : RegFile) f => a.set f i f.reset) a
    | none => a) m

/-- A Camp's plans, tables and standing queries are dropped (R239); slots keep their generations (R208). -/
def PlanState.dropCamp (p : PlanState) (c : Nat) : PlanState where
  plans := mmap (fun _ (q : PlanSlot) => if q.camp = c then { q with plan := none, units := 0, damaged := false } else q) p.plans
  tables := mmap (fun _ (q : TableSlot) => match q.tab with
    | some t => if t.camp = c then { q with tab := none } else q
    | none => q) p.tables
  standing := p.standing.filter (fun q => q.2.camp != c)

/-- Every plan, standing query and execution is dropped (Table 16-2, R491), and what they held of their Camps' quotas is free again. -/
def State.dropPlans (s : State) : State :=
  let held (c : Nat) : Nat := (s.execs.map (fun e => if e.2.camp = c then e.2.nearUnits else 0)).sum +
    (s.plans.plans.map (fun q => if q.2.camp = c then q.2.units else 0)).sum
  { s with
    camps := mmap (fun c (i : CampInfo) => { i with nearUsed := i.nearUsed - held c, moraineUsed := 0 }) s.camps
    plans := { s.plans with plans := mmap (fun _ (q : PlanSlot) => { q with plan := none, units := 0, damaged := false }) s.plans.plans, standing := [] }
    execs := []
    dies := []
    run := ⟨[], 0, [], [], [], [], 0, 0⟩
    ulr := ⟨[], [], [], [], [], 0⟩ }

/-- The registers a Camp's life ends with: state, Ration, attachment, translation root. -/
def State.freeCampRegs (s : State) (c : Nat) : State :=
  let r := s.regs
  let r := ((((r.setRaw .CPM_STATE c 0).setRaw .ERR_CAMP c 0).setRaw .HIF_ATTACH c 0).setRaw .XLT_ROOT c 0).setRaw .CCH_CAMPCLASS c 0
  let r := (List.range 6).foldl (fun (r : RegFile) k => (r.setRaw .CPM_RATION (8 * c + k) 0).setRaw .CPM_REMAIN (8 * c + k) 0) r
  { s with
    regs := (r.setRaw .HIF_RETAIN c 0).setRaw .CPM_TRACE c 0
    camps := mdel c s.camps
    plans := s.plans.dropCamp c
    records := mdel c s.records
    rationNext := s.rationNext.filter (fun p => p.1 / 8 != c)
    traceSeq := mdel (2 + c) s.traceSeq
    host := { s.host with
      retained := mdel c s.host.retained
      challenges := mdel c s.host.challenges
      lockout := mdel c s.host.lockout
      repost := mdel c s.host.repost } }

/-- Is the Camp an owner service Camp? -/
def State.isService (s : State) (c : Nat) : Bool := s.campKind c == 2

/-- Entry to MAINTENANCE suspends every tenant and owner service Camp; each remembers the state it held (R254). -/
def State.suspendCamps (s : State) : State :=
  s.camps.foldl (fun (s : State) p =>
    ({ s with camps := mput p.1 { p.2 with former := s.rg .CPM_STATE_state p.1 } s.camps }).rs .CPM_STATE_state p.1 2) s

/-- Exit from MAINTENANCE returns each Camp to the state it held before (R254). -/
def State.resumeCamps (s : State) : State :=
  s.camps.foldl (fun (s : State) p => if s.rg .CPM_STATE_state p.1 = 2 then s.rs .CPM_STATE_state p.1 p.2.former else s) s

/-- BOT_EVENTS at entry to MAINTENANCE: the entry itself, and the debug ports the policy enables there (R462, R489). -/
def State.maintEvents (s : State) : State :=
  let s := s.rs .BOT_EVENTS_maint 0 1
  let s := if s.trust.cfg.pol.jtag != 0 then s.rs .BOT_EVENTS_jtag 0 1 else s
  if s.trust.cfg.pol.uart != 0 then s.rs .BOT_EVENTS_uart 0 1 else s

/-- Start a warm restart (R457, R491, Table 16-2): every function's host-facing state is reset while the link stays up; plans, standing
queries and executions are dropped; key slots are zeroed; SPDM sessions end; the configuration, the boot lock, the Cairn log and BOT_EVENTS
are given up for the boot to rebuild. ACTIVATE keeps tenant Camps, and keeps retained records and completions only under
POLICY.keep_on_activate; HALT_RESTART keeps no Camp. -/
def State.warmStart (s : State) (kind : BootKind) : State :=
  let keep := kind == .activate && s.trust.cfg.pol.keep
  let s := (if s.mode == .maintenance then s.resumeCamps else s)
  let s := { s with mode := .boot }.resetFn 0
  let (k, s) := s.draw
  let s := { s with host := { s.host with
    cmds := [], engine := [], streams := [], kept := [], challenges := [], lockout := [], drain := none,
    retained := if keep then s.host.retained else []
    link := { s.host.link with readyAt := s.ticks + min (Config.freeDelay k) 500000 } } }
  let gone := (s.camps.map (·.1)).filter (fun c => kind != .activate || (s.isService c && !keep))
  let s := gone.foldl State.freeCampRegs s.dropPlans
  let s := (List.range 32).foldl (fun (s : State) k => { s with regs := s.regs.setRaw .DGE_KEYSTAT k 0 }) s
  let s := (List.range 272).foldl (fun (s : State) k =>
    { s with regs := ((s.regs.setRaw .DGE_CTL k 0).setRaw .DGE_STAT k 0).setRaw .DGE_DEST k 0 }) s
  let t := { s.trust with
    kind := kind, cairn := [], sealed := [], aliasKey := [], keys := [], conns := [], sessions := [], ctx := [], rr := [],
    copies := if kind == .activate then s.trust.copies else [] }
  let r := ((s.regs.dropCfg.setRaw .BOT_STATUS 0 0).setRaw .BOT_EVENTS 0 0).setRaw .BOT_CAIRN 0 0
  { s with
    trust := t
    regs := r
    rationNext := if kind == .activate then s.rationNext else []
    records := if keep then s.records else []
    io := { s.io with dma := [], serves := [], tokens := [] }
    pins := { s.pins with fault := false }
    mode := .boot }

/-! ### Boot flow (R454 to R456, Table 15-7) -/

/-- The images tried (R454): 0 A, 1 B. -/
def imagesTried (strap : Nat) : List Nat :=
  match strap % 4 with
  | 0 => [0] | 1 => [1] | 2 => [0, 1] | _ => [1, 0]

/-- Time passes from one boot step to the next. -/
def State.bootDelay (s : State) (b : BootInputs) (k : Nat) : State := s.advance (b.delays.getD k 0)

/-- Append a checked component's entry: its offset in flash and the bytes measured after the header's 112. -/
def State.cairnComponent (s : State) (img : Nat) (e : DirEntry) (c : Checked) (index : Nat) : State :=
  s.cairnAdd index img c.svn c.version (img * imageBytes + e.offset) (e.length - 256) c.digest []

/-- Check and log the components of types 2 to 5 in turn (step 4). -/
def bootComponents (img : Nat) (f : FlashImage) (b : Bytes) (exts : List Nat) : List DirEntry → State → List (DirEntry × Checked) →
    State × Except Nat (List (DirEntry × Checked))
  | [], s, acc => (s, .ok acc)
  | e :: l, s, acc =>
    match checkComponent s.trust.fuses e b with
    | .error c => (s, .error c)
    | .ok c =>
      if e.type = 4 && (parseCfg s.h256 c.body f.cfg exts).isNone then (s, .error 6)
      else
        let index := if e.type = 5 then 16 + e.ext else e.type + 1
        bootComponents img f b exts l (s.cairnComponent img e c index) (acc ++ [(e, c)])

/-- Type-5 entries in ascending ext_index. -/
def extsInOrder (es : List DirEntry) : List DirEntry :=
  (List.range 16).filterMap (fun x => es.find? (fun e => e.type == 5 && e.ext == x))

/-- Steps 2 to 4 with one image: the log is started afresh, and the components are checked and logged; the cause where the image fails. -/
def State.tryImage (s : State) (b : BootInputs) (img fallback : Nat) : State × Except Nat (List (DirEntry × Checked)) :=
  let f := if img = 0 then b.imageA else b.imageB
  let s := { s with trust := { s.trust with cairn := [], aliasKey := [] } }
  let s := { s with regs := s.regs.setRaw .BOT_CAIRN 0 0 }
  let s := (s.rs .BOT_STATUS_image 0 img).rs .BOT_STATUS_fallback 0 fallback
  let s := s.rootSlot 0 s.trust.fuses.uds
  match f.bytes with
  | none => (s, .error 1)
  | some bytes =>
    match directory bytes with
    | none => (s, .error 1)
    | some es =>
      let s := s.rs .BOT_STATUS_step 0 2
      let srec := stateRecord (s.rg .BOT_STATUS_strap_boot 0) s.pins.strapDbg img fallback s.trust.fuses
      match es.find? (fun e => e.type == 1) with
      | none => (s, .error 1)
      | some e1 =>
        match checkComponent s.trust.fuses e1 bytes with
        | .error c => (s, .error c)
        | .ok c1 =>
          let m1 := sha .sha384 srec
          let s := (s.cairnAdd 1 img 0 0 0 32 m1 srec).cairnComponent img e1 c1 2
          let cdi1 := hmac .sha384 s.trust.fuses.uds (label "KVT-CDI1" ++ m1 ++ c1.digest)
          let s := (s.rootSlot 1 cdi1).clearRootSlot 0
          let s := s.rs .BOT_STATUS_step 0 3
          let rest := [2, 3, 4].filterMap (fun t => es.find? (fun e => e.type == t)) ++ extsInOrder es
          let exts := (extsInOrder es).map (·.ext)
          match bootComponents img f bytes exts rest s [] with
          | (s, .error c) => (s, .error c)
          | (s, .ok l) =>
            let x := hmac .sha384 cdi1 (label "KVT-ALIAS" ++ l.flatMap (fun p => p.2.digest))
            ({ s with trust := { s.trust with aliasKey := keyFrom x } }.rs .BOT_STATUS_step 0 4, .ok ((e1, c1) :: l))

/-- No image remains (R448, R456): the device halts, with halt_cause 2 while no owner is provisioned and 1 otherwise. -/
def State.noImage (s : State) : State :=
  let cause := if s.trust.fuses.ownerless then 2 else 1
  (((s.clearRootSlot 0).clearRootSlot 1).rs .BOT_STATUS_halt_cause 0 cause).halt cause 0x0F 0 0 0

/-- Try the images in turn (R456): the nonce is kept, the first failure's cause is recorded, and the log and keys of a failed image are discarded when
another is tried. -/
def bootImages (b : BootInputs) : List Nat → Nat → State → State × Option (Nat × List (DirEntry × Checked))
  | [], _, s => (s.noImage, none)
  | img :: l, fallback, s =>
    match s.tryImage b img fallback with
    | (s, .ok cs) => (s, some (img, cs))
    | (s, .error c) =>
      if l.isEmpty then (s.noImage, none)
      else
        let s := { s with trust := { s.trust with cairn := [], aliasKey := [] } }
        bootImages b l (if fallback = 0 then c else fallback) ((s.clearRootSlot 0).clearRootSlot 1)

/-- Effective limit and bucket caps from the configuration (R276, R280, Table 09 field maps). -/
def State.setLimit (s : State) : State :=
  let sus := s.rg .PWR_LIMIT_sustained 0
  let cap := s.rg .PWR_LIMIT_bmc_cap 0
  let p := if cap = 0 then sus else min sus cap
  (List.range 16).foldl (fun s c => s.rs .PWR_BUCKET_cap c (p * 9375)) (s.rs .PWR_LIMIT_effective 0 p)

/-- Step 5: the configuration is applied (R453); a BMC cap outside the new range is cleared (Table 16-2); debug ports the policy always allows
are enabled (R462). -/
def State.applyCfg (s : State) (img : FlashImage) (cs : List (DirEntry × Checked)) : State :=
  let exts := (cs.filter (fun p => p.1.type == 5)).map (fun p => p.1.ext)
  let regs := match cs.find? (fun p => p.1.type == 4) with
    | some p => (parseCfg s.h256 p.2.body img.cfg exts).getD []
    | none => []
  let s := { s with trust := { s.trust with cfg := img.cfg } }
  let s : State := regs.foldl (fun (s : State) (x : Reg × Nat × Nat) => (x.1.fields.filter (fun f => f.cfg && f.acc != .ro)).foldl
    (fun (s : State) f => s.rs f x.2.1 (bits x.2.2 f.lo f.w)) s) s
  let pol := s.trust.cfg.pol
  let cap := s.rg .PWR_LIMIT_bmc_cap 0
  let s := if cap != 0 && (cap < pol.capMin || pol.capMax < cap) then s.rs .PWR_LIMIT_bmc_cap 0 0 else s
  let s := s.setLimit
  let s := if pol.jtag = 2 then s.rs .BOT_EVENTS_jtag 0 1 else s
  let s := if pol.uart = 2 then s.rs .BOT_EVENTS_uart 0 1 else s
  let s := match s.trust.cfg.identity with
    | p :: _ => { s with host := { s.host with cfg := mput (65536 + 2) (p.1 + 65536 * p.2) s.host.cfg } }
    | [] => s
  let svns := (List.range 5).map (fun st => ((cs.filter (fun p => stageOf p.1.type == st)).map (fun p => p.2.svn)))
  let s := (List.range 5).foldl (fun s st => s.rs .BOT_SVN_running_svn st (((svns.getD st []).min?).getD 0)) s
  s.rs .BOT_STATUS_step 0 5

/-- Step 8: near-memory training (R294). A stack that fails halts the device and is named by the log entry. -/
def State.trainNear (s : State) (b : BootInputs) : State :=
  let s := (List.range 8).foldl (fun s k =>
    let t := b.hbm.getD k ⟨0, true⟩
    (s.rs .NMC_STAT_lanes_repaired k t.repaired).rs .NMC_STAT_trained k (if t.ok then 1 else 0)) s
  match (List.range 8).find? (fun k => !(b.hbm.getD k ⟨0, true⟩).ok) with
  | some k => s.halt 3 0x0A k 0 k
  | none => s.rs .BOT_STATUS_step 0 8

/-- FMC_CFG.dimm_size code of a capacity; 7 where it is none of R295's. -/
def dimmSize : Nat → Nat
  | 32 => 1 | 64 => 2 | 128 => 3 | 256 => 4 | _ => 7

/-- Why far memory is disabled as a whole (R296): 1 the population breaks R295, 2 a DIMM below DDR5-4800, 3 a channel fails training; with the slot
concerned. -/
def farFault (ds : List Dimm) : Option (Nat × Nat) :=
  let slots := ds.map (·.slot)
  let one := [0, 2, 4, 6, 8, 10, 12, 14]
  let same (d e : Dimm) : Bool := d.gib == e.gib && d.ranks == e.ranks && d.height == e.height && d.density == e.density
  let okPlace := (ds.length == 8 && one.all slots.contains) || (ds.length == 16 && (List.range 16).all slots.contains)
  match ds with
  | [] => none
  | d0 :: _ =>
    if !okPlace then some (1, d0.slot)
    else match ds.find? (fun d => !same d0 d || !d.rdimmX4 || dimmSize d.gib == 7 || !(d.ranks == 1 || d.ranks == 2) || decide (2 < d.height)) with
      | some d => some (1, d.slot)
      | none => match ds.find? (fun d => decide (d.maxSpeed < 12)) with
        | some d => some (2, d.slot)
        | none => (ds.find? (fun d => !d.trains)).map (fun d => (3, d.slot))

/-- Step 9: far memory is discovered and trained (R295, R296). The manual gives no class, status or cause code for the entry that records the
cause: class and status are free, the class below device-fatal, and the detail is the number of R296's condition. -/
def State.trainFar (s : State) (b : BootInputs) : State :=
  let s := b.dimms.foldl (fun s d =>
    let s := ((s.rs .FMC_DIMM_present d.slot 1).rs .FMC_DIMM_trained d.slot (if d.trains then 1 else 0)).rs .FMC_DIMM_size d.slot (dimmSize d.gib)
    ((s.rs .FMC_DIMM_ranks d.slot d.ranks).rs .FMC_DIMM_height d.slot d.height).rs .FMC_DIMM_max_speed d.slot d.maxSpeed) s
  let s := match farFault b.dimms, b.dimms with
    | some (cause, slot), _ =>
      let (k, s) := s.draw
      let v := (Config.freeWord k).toNat
      let cls := 1 + v % 4
      ((s.rs .FMC_CFG_disabled 0 1).countErr cls).logErr cls 0x0B (v / 4 % 2 ^ 14) cause 0 slot (slot / 2)
    | none, d :: _ =>
      let n := b.dimms.length
      let top := if n = 8 then 16 else 14
      let speed := b.dimms.foldl (fun (m : Nat) (d : Dimm) => min m d.maxSpeed) top
      ((s.rs .FMC_CFG_dimms 0 n).rs .FMC_CFG_dimm_size 0 (dimmSize d.gib)).rs .FMC_CFG_speed 0 speed
    | none, [] => s
  if s.farBytes < s.trust.cfg.pol.farMinGib * 2 ^ 30 then s.halt 4 0x0B 0 0 0 else s.rs .BOT_STATUS_step 0 9

/-- Recreate the owner service Camps (step 10): an extension still installed whose data is kept keeps its Camp; the others take the IDs firmware
chose. -/
def State.serviceCamps (s : State) (b : BootInputs) (cs : List (DirEntry × Checked)) : State :=
  let exts := cs.filter (fun p => p.1.type == 5)
  let old := s.camps.filter (fun p => p.2.ext.isSome)
  let keepId (x : Nat) : Option Nat := (old.find? (fun p => p.2.ext == some x)).map (·.1)
  let lost := old.filter (fun p => match p.2.ext with | some x => !exts.any (fun q => q.1.ext == x) | none => true)
  let s := lost.foldl (fun s p => s.freeCampRegs p.1) s
  let root (c : Nat) : Nat := (b.roots.find? (fun r => r.1 == c)).elim 0 (·.2)
  let fresh (s : State) (ids : List Nat) : Option (Nat × List Nat) :=
    (ids.find? (fun c => decide (1 ≤ c) && decide (c < 1024) && s.campState c == .free)).map (fun c => (c, ids.filter (· != c)))
  (exts.foldl (fun (a : State × List Nat) (p : DirEntry × Checked) =>
    let (s, ids) := a
    let desc := ((s.trust.cfg.exts.find? (fun e => e.index == p.1.ext)).elim [] (·.desc))
    let put (s : State) (c : Nat) (ids : List Nat) : State × List Nat :=
      ({ s with trust := { s.trust with exts := s.trust.exts ++ [⟨p.1.ext, c, p.2.svn, p.2.body⟩] } }, ids)
    match keepId p.1.ext with
    | some c => put (s.rs .CPM_STATE_state c 1) c ids
    | none => match fresh s ids with
      | some (c, ids) => put (s.createCamp c 2 desc [] (some p.1.ext) (root c) 0) c ids
      | none => (s, ids)) ({ s with trust := { s.trust with exts := [] } }, b.serviceCamps)).1

/-- Firmware loads a context: a management core starts at its code word; a thread of Camp 0 is a READY thread task of its die (R434). -/
def State.startCtx (s : State) (x : CtxInit) : State :=
  let crs := x.crs.foldl (fun (m : Map UWord) p => mputD 0 p.1 (BitVec.ofNat 36 p.2) m) []
  let u : UCtx := { UCtx.empty with cr := crs, pos := ⟨x.word, false⟩ }
  let key := x.core * 32 + x.slot
  if 128 ≤ x.core then { s with ulr := { s.ulr with ctxs := mput key u s.ulr.ctxs } }
  else
    let d := x.core / 64
    let die := mgetD DieState.empty d s.dies
    let e := mgetD Entry.fresh x.tag die.entries
    if e.state != .free || 65536 ≤ x.tag then s else
    let e' : Entry := { Entry.fresh with
      state := .ready, epoch := e.epoch, taskClass := 15, arrived := 1, thread := true, since := s.ticks, body := .thread x.core x.slot, place := .tile x.core, tile := x.core }
    { s with
      dies := mput d { die with entries := mput x.tag e' die.entries, ready := die.ready ++ [⟨0, 0, x.tag⟩] } s.dies
      ulr := { s.ulr with ctxs := mput key { u with entry := some (d, x.tag) } s.ulr.ctxs } }

/-- Step 10: Camp 0's tables and the service Camps; after an ACTIVATE the slots 8 to 31 of surviving Camps are reloaded from the copies in all 17
engines (R477). -/
def State.bootStep10 (s : State) (b : BootInputs) (cs : List (DirEntry × Checked)) : State :=
  let s := { s with trust := { s.trust with rootReserve := b.rootReserve } }
  let s := s.putEntries b.entries
  let s := match b.roots.find? (fun r => r.1 == 0) with
    | some r => (s.rs .XLT_ROOT_base 0 r.2).rs .XLT_ROOT_valid 0 1
    | none => s
  let s := s.serviceCamps b cs
  let s := (b.contexts.filter (fun x => decide (x.core < 132) && decide (x.slot < if x.core < 128 then 32 else 1))).foldl State.startCtx s
  let cp := s.trust.copies.filter (fun p => mhas p.2.camp s.camps)
  let s := { s with trust := { s.trust with copies := [] } }
  let s := cp.foldl (fun s p => s.loadSlot p.1 p.2.camp p.2.key) s
  s.rs .BOT_STATUS_step 0 10

/-- Step 11: the seal (R464), the boot lock, and the mode after BOOT (R321, Table 16-1). -/
def State.bootStep11 (s : State) : State :=
  let nonce := s.regs.raw .BOT_NONCE 0
  let head := sealHead s.trust.cairn.length nonce (s.ticks - s.trust.step1) s.trust.cairn.flatten (p384Public s.trust.aliasKey)
  let (k, s) := s.draw
  let sig := ecdsaSign s.trust.aliasKey (sha .sha384 head) k
  let sb := head ++ bslice sig.1 0 48 ++ bslice sig.2 0 48 ++ List.replicate 40 0
  let s := { s with trust := { s.trust with sealed := sb } }
  let s := ((s.rs .BOT_CAIRN_bytes 0 s.trust.log.length).rs .BOT_STATUS_sealed 0 1).rs .BOT_STATUS_locked 0 1
  let s := s.rs .BOT_STATUS_step 0 11
  let s : State := { s with power := { s.power with bootEnd := s.ticks }, ulr := { s.ulr with bootTime := s.devtime } }
  if s.pins.strapDbg && s.trust.cfg.pol.maintAllowed then
    let s := s.maintEvents
    { s.suspendCamps with mode := .maintenance }
  else if s.rg .HIF_CTL_enable 0 = 1 then { s with mode := .service } else { s with mode := .detached }

/-- BOOT_ROM_START: the boot ROM starts on core 128 and runs the boot flow through to the seal and boot lock (R455). A warm restart runs steps 1 to 6, 10
and 11 (R457). Each step's state is what the device holds when the step ends; a device-fatal condition ends the flow in HALTED. -/
def execBootRomStart (b : BootInputs) (s : State) : Res :=
  if s.mode != .boot || s.rg .BOT_STATUS_locked 0 = 1 then .next s else
  let s : State := { s with trust := { s.trust with step1 := s.ticks } }
  let (k, s) := s.draw
  let s : State := { s with regs := s.regs.setRaw .BOT_NONCE 0 (Config.entropy64 k) }
  let s := s.rs .BOT_STATUS_step 0 1
  let s := if s.pins.strapDbg then s.rs .BOT_EVENTS_strap_dbg 0 1 else s
  let s := s.bootDelay b 0
  let s : State := if s.trust.kind == .cold then s else { s with pins := { s.pins with strapBoot := b.strapBoot } }
  let s := s.rs .BOT_STATUS_strap_boot 0 s.pins.strapBoot
  let s : State := (List.range 5).foldl (fun (s : State) st => s.rs .BOT_SVN_fuse_min st (s.trust.fuses.minSvn st)) s
  match bootImages b (imagesTried s.pins.strapBoot) 0 s with
  | (s, none) => .next s
  | (s, some (img, cs)) =>
    let s : State := (s.bootDelay b 1).applyCfg (if img = 0 then b.imageA else b.imageB) cs
    let s := ((s.bootDelay b 2).clearRootSlot 1).rs .BOT_STATUS_step 0 6
    let s := if s.trust.kind == .cold then (s.bootDelay b 3).trainNear b else s
    if s.mode == .halted then .next s else
    let s := if s.trust.kind == .cold then (s.bootDelay b 4).trainFar b else s
    if s.mode == .halted then .next s else
    let s := (s.bootDelay b 5).bootStep10 b cs
    .next ((s.bootDelay b 6).bootStep11)

end Sys2Proof.Machine
end

