-- ==== Sys2Proof/Machine/Digest.lean ====
section
/-! DEFINITION. The Digest Engines: contexts, feeds, blocks, results, and the DIGEST command (R478 to R484, R368). A context's key is
16 * engine + context. -/

namespace Sys2Proof.Machine

/-- Read `n` bytes at a view DA through a Camp's tables, page by page: the bytes and whether any was poisoned, or the fault and where. -/
def State.viewBytes (s : State) (cl : Option Nat) (camp : Nat) : Nat → Nat → Nat → Except (Nat × Nat) (Bytes × Bool)
  | 0, _, _ => .ok ([], false)
  | fuel + 1, v, n =>
    if n = 0 then .ok ([], false) else
    match s.xlate cl camp v .read with
    | .error k => .error (k, v)
    | .ok (pa, x) =>
      let room := min n ((x.size - (v % 2 ^ 46 - x.view)) / 2)
      match s.viewBytes cl camp fuel (v + 2 * room) (n - room) with
      | .error e => .error e
      | .ok (b, p) => .ok (s.viewGet cl pa (room / 128 + 2) room ++ b, s.memPoisoned pa room || p)

/-- Pages that `n` bytes can touch. -/
def pagesOf (n : Nat) : Nat := n / 65536 + 2

/-- A context. -/
def State.dctx (s : State) (k : Nat) : DgeCtx := mgetD DgeCtx.empty k s.trust.ctx
/-- Replace a context. -/
def State.setDctx (s : State) (k : Nat) (x : DgeCtx) : State := { s with trust := { s.trust with ctx := mput k x s.trust.ctx } }

/-- The algorithm of an alg field: 3 acts as 0 (Table 15-26). -/
def algOf (n : Nat) : HashAlg := match n with | 1 => .sha384 | 2 => .sha512 | _ => .sha256

/-- Claim the lowest free context of an engine (R480): its number, or none, counted in DGE_ENGSTAT.busy. -/
def State.dgeClaim (s : State) (e : Nat) (o : DgeOwner) : Option Nat × State :=
  match (List.range 16).find? (fun c => s.rg .DGE_STAT_state (16 * e + c) == 0) with
  | none => (none, s.ra .DGE_ENGSTAT_busy e 1)
  | some c =>
    let k := 16 * e + c
    let s := { s with regs := s.regs.setRaw .DGE_STAT k 1 }
    (some c, s.setDctx k { DgeCtx.empty with gen := (s.dctx k).gen, owner := o })

/-- A read of DGE_ALLOC (Table 15-25). -/
def State.dgeAllocRead (s : State) (e : Nat) : Nat × State :=
  match s.dgeClaim e .regs with
  | (some c, s) => (c + 16, s)
  | (none, s) => (0, s)

/-- The key of a slot as an engine holds it, when the Camp may use it: slots 8 to 31 by ownership, 0 to 7 by Camp 0 (Table 15-26). -/
def State.dgeKey (s : State) (e slot camp : Nat) : Option Bytes :=
  if slot < 8 then (if camp = 0 then mget (e * 32 + slot) s.trust.keys else none)
  else match mget slot s.trust.copies with
    | some c => if c.camp = camp then mget (e * 32 + slot) s.trust.keys else none
    | none => none

/-- Chaining values after the inner and outer pad blocks of a key (R478). -/
def padStates (a : HashAlg) (key : Bytes) : List Nat × List Nat :=
  let k := hmacKey a key
  (shaBlock a a.init (k.map (· ^^^ 0x36)), shaBlock a a.init (k.map (· ^^^ 0x5C)))

/-- Raise a context's event when its DGE_CTL.event asks for it (R483). -/
def State.dgeEvent (s : State) (k : Nat) : State :=
  if s.rg .DGE_CTL_event k = 1 then s.event (if k / 16 = 16 then 96 else 97 + k / 16) else s

/-- A context enters ERROR with a cause (Table 15-16, Table 15-29). -/
def State.dgeError (s : State) (k err : Nat) : State := ((s.rs .DGE_STAT_state k 4).rs .DGE_STAT_err k err).dgeEvent k

/-- A message begins: the counters move and the running chaining value is the start value, or the key's inner pad state. -/
def State.dgeBegin (s : State) (k : Nat) : State :=
  let x := s.dctx k
  let a := algOf x.alg
  let s := (s.rs .DGE_STAT_state k 2).rs .DGE_STAT_msgs k (s.rg .DGE_STAT_msgs k + 1)
  let s := s.rs .DGE_STAT_outcome k 0
  s.setDctx k { x with
    chain := if x.inner.isEmpty then a.init else x.inner
    total := if x.inner.isEmpty then 0 else a.block
    buf := [], feeds := [], finish := false, tail := [], outerRun := false, result := [] }

/-- START (Table 15-16): from CLAIMED or DONE, with the key captured (R477); a slot the Camp does not own is an error. -/
def State.dgeStart (s : State) (k : Nat) : State :=
  let st := s.rg .DGE_STAT_state k
  if st != 1 && st != 3 then s else
  let alg := s.rg .DGE_CTL_alg k
  let a := algOf alg
  if s.rg .DGE_CTL_hmac k = 1 then
    match s.dgeKey (k / 16) (s.rg .DGE_CTL_slot k) (s.rg .DGE_CTL_camp k) with
    | none => s.dgeError k 3
    | some key =>
      let p := padStates a key
      (s.setDctx k { s.dctx k with alg := alg, inner := p.1, outer := p.2 }).dgeBegin k
  else (s.setDctx k { s.dctx k with alg := alg, inner := [], outer := [] }).dgeBegin k

/-- A FEED of bytes at a view DA (R481): appended in ACTIVE, a new message in DONE, ignored otherwise; a poisoned read or a translation fault is an
error (R484). -/
def State.dgeFeed (s : State) (k da n : Nat) : State :=
  if n = 0 then s else
  let st := s.rg .DGE_STAT_state k
  if st = 4 then s
  else if st < 2 then s.rs .DGE_STAT_feed_err k 1
  else
    let s := if st = 3 then s.dgeBegin k else s
    let x := s.dctx k
    if 4 ≤ x.feeds.length then s.rs .DGE_STAT_feed_err k 1
    else
      let camp := s.rg .DGE_CTL_camp k
      let cl := if k / 16 = 16 then none else some (k / 16)
      match s.viewBytes cl camp (pagesOf n) da n with
      | .error (kind, v) => (s.xltFault (if k / 16 = 16 then 16 else k / 16) camp v kind none).dgeError k 2
      | .ok (_, true) => s.dgeError k 1
      | .ok (b, false) => (s.setDctx k { x with feeds := x.feeds ++ [⟨b, false⟩] }).rs .DGE_STAT_feeds_queued k (x.feeds.length + 1)

/-- FINISH: the message is padded and completes after its queued feeds. -/
def State.dgeFinish (s : State) (k : Nat) : State :=
  if s.rg .DGE_STAT_state k != 2 then s else s.setDctx k { s.dctx k with finish := true }

/-- A write of DGE_CTL (Table 15-26): alg moves only in CLAIMED; the other fields take effect; then the operation. -/
def State.dgeCtl (s : State) (k v : Nat) : State :=
  let s := if s.rg .DGE_STAT_state k = 1 then s.rs .DGE_CTL_alg k (bits v 0 2) else s
  let s := ((s.rs .DGE_CTL_hmac k (bits v 2 1)).rs .DGE_CTL_slot k (bits v 3 5)).rs .DGE_CTL_dest k (bits v 8 2)
  let s := (s.rs .DGE_CTL_camp k (bits v 10 10)).rs .DGE_CTL_event k (bits v 20 1)
  match bits v 21 3 with
  | 1 => s.dgeStart k
  | 2 => s.dgeFinish k
  | 3 => s.dgeRelease k
  | _ => s

/-- A write of word w of DGE_EXPECT (Table 15-31). -/
def State.dgeExpect (s : State) (k w v : Nat) : State := s.setDctx k { s.dctx k with expect := mput w v (s.dctx k).expect }

/-- Move bytes of the queued feeds into the block buffer until it holds a block. -/
def gather (blk : Nat) : Nat → DgeCtx → DgeCtx
  | 0, x => x
  | n + 1, x =>
    match x.feeds with
    | [] => x
    | f :: fs =>
      if blk ≤ x.buf.length then x
      else
        let need := blk - x.buf.length
        if f.data.length ≤ need then gather blk n { x with buf := x.buf ++ f.data, feeds := fs }
        else { x with buf := x.buf ++ f.data.take need, feeds := ⟨f.data.drop need, f.poison⟩ :: fs }

/-- May the engine take a block from this context: ACTIVE, a full block or a pending finish, and its Camp's Digest component not exhausted (R479, R484)? -/
def State.dgeReady (s : State) (k : Nat) : Bool :=
  let x := s.dctx k
  let a := algOf x.alg
  s.rg .DGE_STAT_state k == 2 && x.result.isEmpty &&
  (decide (a.block ≤ x.buf.length + (x.feeds.map (·.data.length)).sum) || x.finish) &&
  !(s.rg .DGE_CTL_camp k != 0 && s.isExhausted (s.rg .DGE_CTL_camp k) 5)

/-- The context an engine takes its next block from: round robin after the last one (R479). -/
def State.dgeNext (s : State) (e : Nat) : Option Nat :=
  let p := mgetD 15 e s.trust.rr
  (((List.range 16).map (fun i => (p + 1 + i) % 16)).find? (fun c => s.dgeReady (16 * e + c))).map (16 * e + ·)

/-- Process one block of a context: a message block, a padding block, or the HMAC outer block. -/
def DgeCtx.step (x0 : DgeCtx) : DgeCtx :=
  let a := algOf x0.alg
  let x := gather a.block (x0.feeds.length + 1) x0
  if x.outerRun then
    let b := shaOut a x.chain
    let t := b ++ shaPad a (a.block + b.length)
    { x with result := shaOut a (shaBlock a x.outer (t.take a.block)), outerRun := false }
  else
    let x := if x.tail.isEmpty && x.finish && decide (x.buf.length < a.block) && x.feeds.isEmpty then
        { x with tail := x.buf ++ shaPad a (x.total + x.buf.length), buf := [] }
      else x
    if x.tail.isEmpty then
      { x with chain := shaBlock a x.chain (x.buf.take a.block), buf := x.buf.drop a.block, total := x.total + a.block }
    else
      let c := shaBlock a x.chain (x.tail.take a.block)
      let rest := x.tail.drop a.block
      if rest.isEmpty then
        if x.outer.isEmpty then { x with chain := c, tail := [], result := shaOut a c }
        else { x with chain := c, tail := [], outerRun := true }
      else { x with chain := c, tail := rest }

/-- DGE_BLOCK: an engine processes its next block, charged as one Digest block to the context's Camp (R479, R484). -/
def execDgeBlock (e : Nat) (s : State) : Res :=
  if !s.alive || 17 ≤ e then .next s else
  match s.dgeNext e with
  | none => .next s
  | some k =>
    let x := (s.dctx k).step
    let s := (s.setDctx k x).rs .DGE_STAT_feeds_queued k x.feeds.length
    let s := (s.ra .DGE_ENGSTAT_blocks e 1).charge (s.rg .DGE_CTL_camp k) 5 1
    .next { s with trust := { s.trust with rr := mput e (k % 16) s.trust.rr } }

/-- The bytes of the expected value loaded so far, when all of the digest's length is there (R482). -/
def DgeCtx.expected (x : DgeCtx) (n : Nat) : Option Bytes :=
  let ws := (List.range (n / 8)).map (fun w => mget w x.expect)
  if ws.all (·.isSome) then some (ws.flatMap (fun w => leBytes 8 (w.getD 0))) else none

/-- Put a digest in DGE_RESULT (Table 15-30). -/
def State.dgeResult (s : State) (k : Nat) (b : Bytes) : State :=
  (List.range 8).foldl (fun s w =>
    { s with regs := s.regs.setRaw .DGE_RESULT (8 * k + w) (BitVec.ofNat 64 (leNat (bslice b (8 * w) 8))) }) s

/-- Bytes written through a Camp's tables; the fault that stopped it. -/
def State.viewPut (s : State) (inst camp v : Nat) (b : Bytes) : State × Option Nat :=
  let (s, _, e) := dmaDevWrite camp (b.length + 1) v b s
  (s, e)

/-- Deliver a finished digest where dest says (R482): registers, memory, or the comparison's outcome alone. -/
def State.dgeDeliver (s : State) (k : Nat) : State :=
  let x := s.dctx k
  let b := x.result
  let done (s : State) : State := (s.rs .DGE_STAT_state k 3).dgeEvent k
  let s := s.setDctx k { x with result := [] , finish := false }
  match s.rg .DGE_CTL_dest k with
  | 0 => done (s.dgeResult k b)
  | 1 =>
    match s.viewPut 16 (s.rg .DGE_CTL_camp k) (s.rg .DGE_DEST_da k) b with
    | (s, none) => done s
    | (s, some _) => s.dgeError k 2
  | _ =>
    let hit := x.expected b.length == some b
    let s := (s.dgeResult k []).rs .DGE_STAT_outcome k (if hit then 1 else 2)
    done (if hit then s else s.ra .DGE_ENGSTAT_mismatches (k / 16) 1)

/-! ### The DIGEST command (R368) -/

/-- A DIGEST that waits for its context completes: the digest as data out, or 1 MATCH and 2 MISMATCH; the context is released. -/
def State.digestDone (s : State) (k : Nat) (c : Cmd) : State :=
  let x := s.dctx k
  let b := x.result
  let s := s.setDctx k { x with result := [] }
  if bits (c.w 9) 8 1 = 1 then
    let hit := x.expected b.length == some b
    let s := if hit then s else s.ra .DGE_ENGSTAT_mismatches (k / 16) 1
    (s.dgeRelease k).completeCmd c c.okStatus (if hit then 1 else 2)
  else ((s.dgeRelease k).dataOut c b).completeCmd c c.okStatus 0

/-- Append message bytes of the command interface to a context. -/
def State.digestData (s : State) (k : Nat) (b : Bytes) : State :=
  s.setDctx k { s.dctx k with feeds := (s.dctx k).feeds ++ [⟨b, false⟩] }

/-- Load the expected value that precedes the message; what remains. -/
def State.digestExpect (s : State) (k n : Nat) (b : Bytes) : Bytes × State :=
  let e := b.take n
  let full := e.length / 8
  (b.drop n, (List.range full).foldl (fun s w => s.dgeExpect k w (leNat (bslice e (8 * w) 8))) s)

/-- Finish a command's message: it waits for the engine. -/
def State.digestFinish (s : State) (c : Cmd) (k n : Nat) (b : Bytes) : State :=
  let (b, s) := if bits (c.w 9) 8 1 = 1 then s.digestExpect k n b else (b, s)
  ((s.digestData k b).dgeFinish k).modCmd c.uid (fun d => { d with wait := .digest k, long := c.long })

/-- DIGEST: one-shot, start, update or finish on the root engine. -/
def State.doDigest (s : State) (c : Cmd) (data : Bytes) : State :=
  let (b, s) := s.dataIn c data
  let w := c.w 9
  let alg := bits w 0 2
  let step := bits w 9 2
  let h := c.w 10
  let k := 256 + bits h 0 4
  let x := s.dctx k
  let mine := x.owner == .command c.camp && s.rg .DGE_STAT_state k == 2 && x.gen == bits h 4 4 && !x.finish
  let cont := 2 ≤ step
  let drop (s : State) : State := if cont && mine then s.dgeRelease k else s
  match wholeLen c (c.w 4) with
  | .error st => (drop s).failCmd c st
  | .ok c =>
    let size := (algOf (if cont then x.alg else alg)).size
    let needOut := (step = 0 || step = 3) && bits w 8 1 = 0
    if alg = 3 || (needOut && c.w 8 < size) then (drop s).failCmd c stInvalidField
    else if cont then
      if !mine then s.failCmd c stInvalidField
      else if step = 2 then (s.digestData k b).completeCmd c c.okStatus 0
      else s.digestFinish c k size b
    else if bits w 2 1 = 1 && !s.ownsSlot c.camp (bits w 3 5) then s.failCmd c stKeyNotFound
    else match s.dgeClaim 16 (.command c.camp) with
      | (none, s) => s.failCmd c stBusy
      | (some n, s) =>
        let k := 256 + n
        let s := (s.rs .DGE_CTL_alg k alg).dgeCtl k (bits w 0 8 + 2 ^ 10 * c.camp + 2 ^ 21)
        if s.rg .DGE_STAT_state k != 2 then (s.dgeRelease k).failCmd c stKeyNotFound
        else if step = 1 then (s.digestData k b).completeCmd c c.okStatus (n + 16 * (s.dctx k).gen)
        else s.digestFinish c k size b

/-- DIGEST. -/
def execDigest (r : CmdRef) (data : Bytes) (s : State) : Res := s.withCmd r 0x45 (fun c => s.doDigest c data)

/-- DGE_ALLOC_READ: Camp 0 reads DGE_ALLOC of an engine (R480). -/
def execDgeAllocRead (e : Nat) (s : State) : Res :=
  if !s.alive || 17 ≤ e then .next s else
  let (v, s) := s.dgeAllocRead e
  .next (s.emit (.window v))

/-- DGE_START: Camp 0 writes op = START with a configuration (R481). -/
def execDgeStart (e c : Nat) (v : BitVec 64) (s : State) : Res :=
  if !s.alive || 17 ≤ e || 16 ≤ c then .next s else .next (s.dgeCtl (16 * e + c) (bits v.toNat 0 21 + 2 ^ 21))
/-- DGE_FEED: Camp 0 writes DGE_FEED (R481). -/
def execDgeFeed (e c da n : Nat) (s : State) : Res :=
  if !s.alive || 17 ≤ e || 16 ≤ c then .next s else .next (s.dgeFeed (16 * e + c) (da % 2 ^ 46) (n % 2 ^ 18))
/-- DGE_FINISH: Camp 0 writes op = FINISH (R481). -/
def execDgeFinish (e c : Nat) (s : State) : Res :=
  if !s.alive || 17 ≤ e || 16 ≤ c then .next s else .next (s.dgeFinish (16 * e + c))
/-- DGE_RELEASE: Camp 0 writes op = RELEASE (R481). -/
def execDgeRelease (e c : Nat) (s : State) : Res :=
  if !s.alive || 17 ≤ e || 16 ≤ c then .next s else .next (s.dgeRelease (16 * e + c))

end Sys2Proof.Machine
end

