-- ==== Sys2Proof/Machine/Events.lean ====
section
/-! DEFINITION. The Event Router: eligibility, selection, vectored delivery, claim mode, thread targets (Work Rings, DMA and the Event
Router). -/

namespace Sys2Proof.Machine

/-- Group of a source (R390). -/
def groupOf (n : Nat) : Nat := n / 16

/-- Is a source eligible for its target, the core's own request apart (R393)? -/
def State.srcReady (s : State) (n : Nat) : Bool :=
  s.rg .EVR_SRC_pending n == 1 && s.rg .EVR_SRC_mask n == 0 && s.rg .EVR_SRC_in_service n == 0 &&
  s.rg .EVR_HOLDOFF_active (groupOf n) == 0

/-- Of two sources the one selected first: the higher priority, and on a tie the lower number (R393). -/
def State.better (s : State) (best : Option Nat) (n : Nat) : Option Nat :=
  match best with
  | none => some n
  | some b => if s.rg .EVR_SRC_priority b < s.rg .EVR_SRC_priority n then some n else some b

/-- The source the Router selects for a core among its eligible sources (R393). -/
def State.select (s : State) (core : Nat) : Option Nat :=
  ((List.range 512).filter (fun n => s.rg .EVR_SRC_target n == core && s.srcReady n)).foldl s.better none

/-- Commit of a source: pending cleared, in_service set, the group's hold-off started (R392, R394). -/
def State.commitSrc (s : State) (n : Nat) : State :=
  let g := groupOf n
  let s := (s.rs .EVR_SRC_pending n 0).rs .EVR_SRC_in_service n 1
  let t := s.rg .EVR_HOLDOFF_ticks g
  if t = 0 then s
  else { s.rs .EVR_HOLDOFF_active g 1 with io := { s.io with holdUntil := mput g (s.ticks + t) s.io.holdUntil } }

/-- A write of EVR_PEND: each bit of an assigned source raises an event on it (Table 13-21). -/
def State.evrPend (s : State) (g v : Nat) : State :=
  (List.range 16).foldl (fun s i => if bits v i 1 = 1 then s.event (16 * g + i) else s) s

/-- A write of EVR_DONE: clears in_service of a source in service on that core; anything else is ignored (R395, R396). -/
def State.evrDone (s : State) (core v : Nat) : State :=
  let n := bits v 0 9
  if s.rg .EVR_SRC_target n = core && s.rg .EVR_SRC_in_service n = 1 then s.rs .EVR_SRC_in_service n 0 else s

/-- A read of EVR_CLAIM: the selected source is claimed in the same step; the read value names it, or has valid 0 (R397). -/
def State.evrClaim (s : State) (core : Nat) : Nat × State :=
  if s.rg .EVR_CORE_mode core = 0 then (0, s) else
  match s.select core with
  | none => (0, s)
  | some n => (n + 512 * s.rg .EVR_SRC_priority n + 2 ^ 13, s.commitSrc n)

/-- GPIO_EDGE: an input level that holds for 2 AON ticks is recognised; a rising or falling edge that the configuration image selects for the pin is
an event on source 184 + pin (R390, Table 17-10). `rise` and `fall` are the pin's selection. -/
def State.gpioEdge (s : State) (pin ticks : Nat) (level rise fall : Bool) : State :=
  if ticks < 2 || 8 ≤ pin || s.pins.gpio.getLsbD pin == level then s
  else
    let g := s.pins.gpio ^^^ (BitVec.ofNat 8 (2 ^ pin))
    let s := { s with pins := { s.pins with gpio := g } }
    if s.mode == .reset || s.mode == .halted then s
    else if (level && rise) || (!level && fall) then s.event (184 + pin) else s

/-- EVR_PEND_WRITE: software raises sources of a group (R392, Table 13-21). -/
def execEvrPendWrite (g : Nat) (v : BitVec 16) (s : State) : Res :=
  if !s.alive || 32 ≤ g then .next s else .next (s.evrPend g v.toNat)

/-- The commit of a core in vectored mode: it takes its selected source when it has no committed request (R393 to R395). -/
def State.commitCore (s : State) (core : Nat) : State :=
  if s.rg .EVR_CORE_mode core = 1 || s.rg .EVR_CORE_request core = 1 then s else
  match s.select core with
  | none => s
  | some n =>
    let req : CoreReq := ⟨n, s.rg .EVR_SRC_priority n, s.rg .EVR_VEC_handler n, s.ticks⟩
    let s := (s.commitSrc n).rs .EVR_CORE_request core 1
    { s with io := { s.io with reqs := mput core req s.io.reqs, windows := mput n s.ticks s.io.windows } }

/-- EVR_MASK_WINDOW_CLOSE: 4 core clocks after a commit its mask window closes; a mask write inside it lets the committed delivery through, once (R396:
the manual allows that). -/
def execEvrMaskWindowClose (n : Nat) (s : State) : Res :=
  .next { s with io := { s.io with windows := mdel n s.io.windows } }

/-- EVR_HOLDOFF_EXPIRY: a group's hold-off timer expires (R394). -/
def execEvrHoldoffExpiry (dt g : Nat) (s : State) : Res :=
  let s := s.advance dt
  match mget g s.io.holdUntil with
  | some t => if s.alive && decide (t ≤ s.ticks) then
      .next { s.rs .EVR_HOLDOFF_active g 0 with io := { s.io with holdUntil := mdel g s.io.holdUntil } }
    else .next s
  | none => .next s

/-- EVR_CLAIM_READ: a core in claim mode reads its claim register (R397). -/
def execEvrClaimRead (core : Nat) (s : State) : Res :=
  if !s.alive || 4 ≤ core then .next s else
  let (v, s) := s.evrClaim core
  .next (s.emit (.window v))

/-- EVR_DONE_WRITE: the handler of a source has ended (R395). -/
def execEvrDoneWrite (core : Nat) (v : BitVec 64) (s : State) : Res :=
  if !s.alive || 4 ≤ core then .next s else .next (s.evrDone core v.toNat)

end Sys2Proof.Machine
end

