-- ==== Sys2Proof/Machine/Access.lean ====
section
/-! DEFINITION. Register access: the internal region by register-window apertures, the BARs, and what each access code does (R7 to R11,
R322, R335, R494, R527 to R532). -/

namespace Sys2Proof.Machine

/-- The configuration boot lock (R8, R453). -/
def State.bootLocked (s : State) : Bool := s.rg .BOT_STATUS_locked 0 == 1

/-- The value of a register as any reader sees it: fields another part of the state holds are computed. -/
def State.regValue (s : State) (r : Reg) (i : Nat) : BitVec 64 :=
  let v := s.regs.raw r i
  match r with
  | .HIF_STATUS => BitVec.ofNat 64 (s.hifStatus i)
  | .HIF_LINK => if i = 0 then v else 0
  | .TIM_DEVTIME => s.devtime
  | .EVR_PEND => BitVec.ofNat 64 (((List.range 16).map (fun k => s.rg .EVR_SRC_pending (16 * i + k) * 2 ^ k)).sum)
  | .EVR_CORE => Fld.place .EVR_CORE_request v (if s.rg .EVR_CORE_mode i = 1 then (if (s.select i).isSome then 1 else 0)
      else (if mhas i s.io.reqs then 1 else 0))
  | .HIF_RETAIN => Fld.place .HIF_RETAIN_used v (mgetD [] i s.host.retained).length
  | .ERR_STATUS => Fld.place .ERR_STATUS_entries v s.log.entries.length
  | _ => v

/-- Is it a function register, which only the host writes and clears (R529, R531)? -/
def Reg.isFunction : Reg → Bool
  | .HIF_STATUS | .HIF_CTL | .HIF_ASQ | .HIF_ACQ | .HIF_LINK | .QUE_STAT | .QUE_DBERR => true
  | _ => false

/-- A read with its side effects under a byte mask: what it returns, and RC fields it covers whole cleared (R8, R10, R531). -/
def State.readReg (s : State) (r : Reg) (i : Nat) (m : BitVec 64) : BitVec 64 × State :=
  let v := swReadVal r.fields m (s.regValue r i)
  (v, { s with regs := s.regs.setRaw r i (rcClearVal r.fields m (s.regs.raw r i)) })

/-- A write under a byte mask, by access code alone. -/
def State.writeReg (s : State) (r : Reg) (i : Nat) (m v : BitVec 64) : State :=
  { s with regs := s.regs.setRaw r i (swWriteVal s.bootLocked r.fields m v (s.regs.raw r i)) }

/-! ### The internal region (R527, R528) -/

/-- Word n of a matching-store entry (Table 09-2). -/
def Entry.word (e : Entry) (n : Nat) : Nat :=
  if n = 0 then e.state.code + 2 ^ 3 * e.epoch + 2 ^ 7 * e.priority + 2 ^ 11 * e.taskClass + 2 ^ 15 * e.camp + 2 ^ 25 * e.slots +
    (if e.thread then 2 ^ 29 else 0) + (if e.fenceBound then 2 ^ 30 else 0)
  else if n = 1 then e.arrived + 2 ^ 8 * e.frag
  else if n = 2 then e.exec
  else if n = 3 then e.since % 2 ^ 32
  else if n < 8 then 0
  else bits (e.operands.getD ((n - 8) / 2) 0) (if n % 2 = 0 then 0 else 32) 32

/-- A 64-bit read of the matching-store window (Table 18-4): entries in MAINTENANCE, 0 in other modes. -/
def State.storeWindow (s : State) (off : Nat) : Nat :=
  let d := off / 0x1000000
  let k := off % 0x1000000
  if s.mode != .maintenance || 2 ≤ d || 65536 ≤ k / 192 then 0
  else
    let e := mgetD Entry.fresh (k / 192) (mgetD DieState.empty d s.dies).entries
    let n := k % 192 / 8
    e.word n + 2 ^ 32 * e.word (n + 1)

/-- A Camp 0 read of the internal region at a physical DA: unassigned places read 0; DGE_ALLOC and EVR_CLAIM claim by the read. -/
def State.windowRead (s : State) (da : Nat) : Nat × State :=
  let off := da - 0x3F0000000000
  if da < 0x3F0000000000 || 0x400000000000 ≤ da || da % 16 != 0 then (0, s)
  else if 0x8000000000 ≤ off then (s.storeWindow (off - 0x8000000000), s)
  else match regOfKey (off / 16) with
    | none => (0, s)
    | some (r, i) => match r with
      | .DGE_ALLOC => s.dgeAllocRead i
      | .EVR_CLAIM => s.evrClaim i
      | _ =>
        if r.isFunction then ((swReadVal r.fields (BitVec.allOnes 64) (s.regValue r i)).toNat, s)
        else let (v, s) := s.readReg r i (BitVec.allOnes 64); (v.toNat, s)

/-- A Camp 0 write of the internal region: unassigned places and function registers ignore it (R527, R529); registers that act are carried out. -/
def State.windowWrite (s : State) (da : Nat) (v : BitVec 64) : State :=
  let off := da - 0x3F0000000000
  if da < 0x3F0000000000 || 0x400000000000 ≤ da || da % 16 != 0 || 0x8000000000 ≤ off then s
  else match regOfKey (off / 16) with
    | none => s
    | some (r, i) =>
      let n := v.toNat
      if r.isFunction then s else
      match r with
      | .CCH_MAINT => s.cchMaint i n
      | .CCH_CAMPCLASS => if i = 0 then s else s.writeReg r i (BitVec.allOnes 64) v
      | .XLT_INVAL => s.xltInval n
      | .DMA_RING => s.dmaRing i n
      | .DMA_POST => s.dmaPost i n
      | .DMA_CHCTL => s.dmaCtl i n
      | .EVR_PEND => s.evrPend i n
      | .EVR_DONE => s.evrDone i n
      | .DGE_CTL => s.dgeCtl i n
      | .DGE_FEED => s.dgeFeed i (bits n 0 46) (bits n 46 18)
      | .DGE_EXPECT => s.dgeExpect (i / 8) (i % 8) n
      | .CPM_TRACE => { s.writeReg r i (BitVec.allOnes 64) v with traceSeq := mdel (2 + i) s.traceSeq }
      | .DPT_TRACE => { s.writeReg r i (BitVec.allOnes 64) v with traceSeq := mdel i s.traceSeq }
      | _ => s.writeReg r i (BitVec.allOnes 64) v

/-! ### The BARs (Table 11-3, Table 11-13) -/

/-- The register at a BAR0 offset (Table 11-13). -/
def fnReg (off : Nat) : Option Reg :=
  match off / 8 with
  | 0 => some .HIF_STATUS | 1 => some .HIF_CTL | 2 => some .HIF_ASQ | 3 => some .HIF_ACQ | 4 => some .HIF_LINK | 5 => some .QUE_STAT
  | 6 => some .QUE_DBERR | _ => none

/-- The 32 bytes of an error-log entry (Table 16-5). -/
def ErrEntry.bytes (e : ErrEntry) : Bytes :=
  leBytes 4 (e.cls + 8 + 2 ^ 4 * e.unit + 2 ^ 12 * e.status) ++ leBytes 4 (e.detail % 2 ^ 16 + 2 ^ 16 * e.camp) ++ leBytes 8 e.devtime.toNat ++
  leBytes 8 e.addr ++ leBytes 4 e.seq ++ leBytes 4 (e.inst % 2 ^ 16)

/-- The 2 KiB error-log window of a function: the newest 64 entries it may see, newest first (R494). -/
def State.logWindow (s : State) (f : Nat) : Bytes :=
  let es := s.log.entries.filter (fun e => f == 0 || (e.camp != 0 && s.attachedTo e.camp f))
  bslice ((es.reverse.take 64).flatMap ErrEntry.bytes) 0 2048

/-- Bits a naturally aligned access of `size` bytes at `off` covers of a 64-bit register. -/
def halfMask (off size : Nat) : BitVec 64 :=
  if size = 8 then BitVec.allOnes 64 else if off % 8 = 4 then 0xFFFFFFFF00000000 else 0xFFFFFFFF

/-- Size of a BAR. -/
def barSize (f bar : Nat) : Nat :=
  match bar with
  | 0 => if f = 0 then 0x400000 else 0x40000
  | 2 => if f = 0 then 0x10000 else 0x4000
  | _ => 0

/-- MSI-X table and Pending Bit Array as bytes (R335; their layout is the PCIe standard's). -/
def State.msixByte (s : State) (f a : Nat) : Byte :=
  let pba := if f = 0 then 0x8000 else 0x2000
  if a < pba then
    let e := mgetD ⟨0, 0, true, false⟩ (f * 2048 + a / 16) s.host.msix
    (leBytes 8 e.addr ++ leBytes 4 e.data ++ leBytes 4 (if e.masked then 1 else 0)).getD (a % 16) 0
  else
    BitVec.ofNat 8 (((List.range 8).map (fun i =>
      if (mgetD ⟨0, 0, true, false⟩ (f * 2048 + 8 * (a - pba) + i) s.host.msix).pending then 2 ^ i else 0)).sum)

/-- Is the offset in the MSI-X table or its Pending Bit Array? -/
def msixAt (f a : Nat) : Bool :=
  if f = 0 then decide (a < 0x8000) || (decide (0x8000 ≤ a) && decide (a < 0x8100))
  else decide (a < 0x400) || (decide (0x2000 ≤ a) && decide (a < 0x2008))

/-- A host write of the MSI-X table; the Pending Bit Array is read-only. Unmasking a pending vector sends it once (R335). -/
def State.msixWrite (s : State) (f a size v : Nat) : State :=
  let k := f * 2048 + a / 16
  let e := mgetD ⟨0, 0, true, false⟩ k s.host.msix
  let old := leBytes 8 e.addr ++ leBytes 4 e.data ++ leBytes 4 (if e.masked then 1 else 0)
  let b := old.take (a % 16) ++ leBytes size v ++ old.drop (a % 16 + size)
  let masked := bits (word32 b 3) 0 1 = 1
  let e' : MsixVec := ⟨word64 b 0, word32 b 2, masked, e.pending && (masked || !e.masked)⟩
  let s := { s with host := { s.host with msix := mput k e' s.host.msix } }
  if e.masked && !masked && e.pending then s.msixSend f (a / 16) else s

/-- Does an access of the BARs reach the device now (R319, Table 11-3: in HALTED only the first 4 KiB of PF BAR0)? -/
def State.barReach (s : State) (f bar off : Nat) : Bool :=
  s.mode != .reset && s.host.link.up && s.fnOk f && (s.mode != .halted || (f == 0 && bar == 0 && decide (off < 0x1000)))

/-- A host read of a BAR (R7, R322, R494, R530, R531). The value of a doorbell is not stated: it is free. -/
def State.barRead (s : State) (f bar off size : Nat) : State :=
  if !s.barReach f bar off then s
  else if !(size == 4 || size == 8) || off % size != 0 || barSize f bar ≤ off then s.unsupported f false
  else if bar = 0 then
    if off < 0x38 then match fnReg off with
      | some r =>
        let (v, s) := s.readReg r f (halfMask off size)
        s.emit (.mmio f (if off % 8 = 4 then v.toNat / 2 ^ 32 else v.toNat))
      | none => s.unsupported f false
    else if 0x800 ≤ off && off < 0x1000 then s.emit (.mmio f (leNat (bslice (s.logWindow f) (off - 0x800) size)))
    else
      let d := if f = 0 then 0x100000 else 0x10000
      let dq := decide (d ≤ off) && decide (off < d + 16 * (ioQueues f + 1))
      let dr := decide (2 * d ≤ off) && decide (off < 2 * d + 16 * ringCount f) && off % 16 < 8
      if dq || dr then
        let (k, s) := s.draw
        s.emit (.mmio f ((Config.freeWord k).toNat % 2 ^ (8 * size)))
      else s.unsupported f false
  else if msixAt f off then s.emit (.mmio f (leNat ((List.range size).map (fun k => s.msixByte f (off + k)))))
  else s.unsupported f false

/-- A host write of a function register. -/
def State.fnWrite (s : State) (r : Reg) (f : Nat) (m v : BitVec 64) : State :=
  match r with
  | .HIF_CTL =>
    if (m &&& 1) = 0 then s else if (v &&& 1) = 1 then s.hifEnable f else s.hifDisable f
  | .HIF_ASQ | .HIF_ACQ => if s.rg .HIF_CTL_enable f = 1 then s else s.writeReg r f m v
  | _ => s.writeReg r f m v

/-- A host write of a BAR (R7, R322, R530). In HALTED no function register changes. A write of a doorbell is the doorbell's own command. -/
def State.barWrite (s : State) (f bar off size v : Nat) : State :=
  if !s.barReach f bar off then s
  else if !(size == 4 || size == 8) || off % size != 0 || barSize f bar ≤ off then s.unsupported f true
  else if bar = 0 then
    if off < 0x38 then match fnReg off with
      | some r =>
        if s.mode == .halted then s
        else s.fnWrite r f (halfMask off size) (BitVec.ofNat 64 (if off % 8 = 4 then v * 2 ^ 32 else v))
      | none => s.unsupported f true
    else if 0x800 ≤ off && off < 0x1000 then s
    else
      let d := if f = 0 then 0x100000 else 0x10000
      let dq := decide (d ≤ off) && decide (off < d + 16 * (ioQueues f + 1))
      let dr := decide (2 * d ≤ off) && decide (off < 2 * d + 16 * ringCount f) && off % 16 < 8
      if dq || dr then s else s.unsupported f true
  else if msixAt f off then (if off < (if f = 0 then 0x8000 else 0x2000) then s.msixWrite f off size v else s)
  else s.unsupported f true

/-- REGISTER_WRITE: a register is written through one of the paths of Table 18-5. -/
def execRegisterWrite (p : RegPath) (v : BitVec 64) (s : State) : Res :=
  match p with
  | .window da => if s.alive then .next (s.windowWrite da v) else .next s
  | .bar f bar off size => .next (s.barWrite f bar off size (v.toNat % 2 ^ (8 * size)))

/-- RC_READ: a register is read through one of the paths of Table 18-5, and RC fields the read covers are cleared (R8, R10, R531). -/
def execRcRead (p : RegPath) (s : State) : Res :=
  match p with
  | .window da => if s.alive then (let (v, s) := s.windowRead da; .next (s.emit (.window v))) else .next s
  | .bar f bar off size => .next (s.barRead f bar off size)

end Sys2Proof.Machine
end

