-- ==== Sys2Proof/Machine/Values.lean ====
section
/-! DEFINITION. Stored forms, comparison, key hashing and sort keys (Digit Planes and Column Formats; Hashing, Joins and
Aggregation; Sort, Partition and Exchange). -/

namespace Sys2Proof.Machine

/-! ### Types (Table 02-4) -/

def tBool : Nat := 0x01
def tInt8 : Nat := 0x02
def tInt64 : Nat := 0x05
def tUint8 : Nat := 0x06
def tUint64 : Nat := 0x09
def tDecimal : Nat := 0x0A
def tDate : Nat := 0x0B
def tTsUs : Nat := 0x0C
def tTsNs : Nat := 0x0D
def tUtf8 : Nat := 0x0E
def tBinary : Nat := 0x0F
def tKey : Nat := 0x10
def tWide : Nat := 0x11

/-- INT64, the type of counts (Table 05-6). -/
def ColType.int64 : ColType := ⟨tInt64, 0, 0⟩
/-- BOOL. -/
def ColType.bool : ColType := ⟨tBool, 0, 0⟩

/-- INT8 to INT64 (R96's INT, signed half). -/
def ColType.isSigned (t : ColType) : Bool := decide (0x02 ≤ t.code) && decide (t.code ≤ 0x05)
/-- UINT8 to UINT64. -/
def ColType.isUnsigned (t : ColType) : Bool := decide (0x06 ≤ t.code) && decide (t.code ≤ 0x09)
/-- R96's INT. -/
def ColType.isInt (t : ColType) : Bool := t.isSigned || t.isUnsigned
/-- R96's DEC. -/
def ColType.isDec (t : ColType) : Bool := t.code == tDecimal || t.code == tWide
/-- R96's TS. -/
def ColType.isTs (t : ColType) : Bool := t.code == tTsUs || t.code == tTsNs
/-- UTF8 or BINARY. -/
def ColType.isStr (t : ColType) : Bool := t.code == tUtf8 || t.code == tBinary

/-- Bits of a binary integer type. -/
def intBits (code : Nat) : Nat :=
  match code with
  | 0x02 | 0x06 => 8
  | 0x03 | 0x07 => 16
  | 0x04 | 0x08 | 0x0B => 32
  | _ => 64

/-- Natural width (Table 02-4). -/
def ColType.width (t : ColType) : Nat :=
  match t.code with
  | 0x01 => 1
  | 0x02 | 0x06 => 2
  | 0x03 | 0x07 => 4
  | 0x04 | 0x08 | 0x0B => 8
  | 0x05 | 0x09 | 0x0C | 0x0D => 16
  | 0x0A | 0x11 => t.prec + 1
  | 0x0E | 0x0F => 32
  | 0x10 => t.prec
  | _ => 0

/-- Is the type code with its p and s legal (Table 02-4, Table 08-9)? -/
def ColType.legal (t : ColType) : Bool :=
  match t.code with
  | 0x0A => decide (1 ≤ t.prec) && decide (t.prec ≤ 38) && decide (t.scale ≤ t.prec)
  | 0x11 => decide (39 ≤ t.prec) && decide (t.prec ≤ 64) && decide (t.scale ≤ t.prec)
  | 0x10 => decide (1 ≤ t.prec) && decide (t.prec ≤ 64) && t.scale == 0
  | c => decide (1 ≤ c) && decide (c ≤ 0x0F) && t.prec == 0 && t.scale == 0

/-! ### Digit strings -/

/-- The number a digit string spells in hexadecimal, most significant first. -/
def digsNat (d : Digits) : Nat := d.foldl (fun a x => 16 * a + x.toNat) 0
/-- A number in `w` hexadecimal digits, most significant first. -/
def natDigs (w n : Nat) : Digits := ((List.range w).map (fun i => BitVec.ofNat 4 (n / 16 ^ (w - 1 - i))))
/-- The number a digit string spells in decimal. -/
def digsDec (d : Digits) : Nat := d.foldl (fun a x => 10 * a + x.toNat) 0
/-- A number in `w` decimal digits, most significant first. -/
def decDigs (w n : Nat) : Digits := ((List.range w).map (fun i => BitVec.ofNat 4 (n / 10 ^ (w - 1 - i) % 10)))

/-- Bytes of a digit area, digit 0 at the lowest DA (R5). -/
def digitBytes : Digits → Bytes
  | [] => []
  | [d] => [BitVec.ofNat 8 d.toNat]
  | d :: e :: l => BitVec.ofNat 8 (d.toNat + 16 * e.toNat) :: digitBytes l

/-- The digits of bytes taken high half first: the prefix digits of a string (R41). -/
def hexDigits (b : Bytes) : Digits := b.flatMap (fun x => [BitVec.ofNat 4 (x.toNat / 16), BitVec.ofNat 4 x.toNat])

/-- The bytes of prefix digits. -/
def hexBytes : Digits → Bytes
  | d :: e :: l => BitVec.ofNat 8 (16 * d.toNat + e.toNat) :: hexBytes l
  | _ => []

/-- Compare two digit strings position by position: the first difference decides, and a string that ends first is lower. -/
def cmpDigs : Digits → Digits → Ordering
  | [], [] => .eq
  | [], _ :: _ => .lt
  | _ :: _, [] => .gt
  | a :: l, b :: m => if a.toNat < b.toNat then .lt else if b.toNat < a.toNat then .gt else cmpDigs l m

/-- Unsigned byte order, a proper start before its extensions (R43). -/
def cmpBytes : Bytes → Bytes → Ordering
  | [], [] => .eq
  | [], _ :: _ => .lt
  | _ :: _, [] => .gt
  | a :: l, b :: m => if a.toNat < b.toNat then .lt else if b.toNat < a.toNat then .gt else cmpBytes l m

/-! ### Stored forms (R37, R38) -/

/-- The value of a DECIMAL's digits (R38). -/
def decVal (d : Digits) : Int :=
  match d with
  | [] => 0
  | g :: m => if g.toNat = 1 then (digsDec m : Int)
    else -((digsDec (m.map (fun x => BitVec.ofNat 4 (9 - x.toNat))) : Nat) : Int)

/-- A DECIMAL's digits (R38): a sign digit and p digits, complemented when negative; zero is positive. -/
def decStored (p : Nat) (v : Int) : Digits :=
  if 0 ≤ v then 1 :: decDigs p v.toNat
  else 0 :: (decDigs p v.natAbs).map (fun x => BitVec.ofNat 4 (9 - x.toNat))

/-- Range of a type's values: lowest and highest. -/
def ColType.lo (t : ColType) : Int :=
  if t.isDec then -((10 ^ t.prec : Nat) : Int) + 1
  else if t.isUnsigned || t.code == tBool || t.code == tKey then 0
  else -((2 ^ (intBits t.code - 1) : Nat) : Int)

/-- The highest value of a type. -/
def ColType.hi (t : ColType) : Int :=
  if t.isDec then ((10 ^ t.prec : Nat) : Int) - 1
  else if t.code = tBool then 1
  else if t.code = tKey then ((16 ^ t.prec : Nat) : Int) - 1
  else if t.isUnsigned then ((2 ^ intBits t.code : Nat) : Int) - 1
  else ((2 ^ (intBits t.code - 1) : Nat) : Int) - 1

/-- Does a value fit a type? -/
def ColType.fits (t : ColType) (v : Int) : Bool := decide (t.lo ≤ v) && decide (v ≤ t.hi)

/-- The exact integer of a stored form; a DECIMAL's unscaled value. -/
def storedInt (t : ColType) (d : Digits) : Int :=
  if t.isDec then decVal d
  else if t.isUnsigned || t.code == tBool || t.code == tKey then (digsNat d : Int)
  else (digsNat d : Int) - ((2 ^ (intBits t.code - 1) : Nat) : Int)

/-- The stored form of an integer that fits. -/
def intStored (t : ColType) (v : Int) : Digits :=
  if t.isDec then decStored t.prec v
  else if t.isUnsigned || t.code == tBool || t.code == tKey then natDigs t.width v.toNat
  else natDigs t.width (v + ((2 ^ (intBits t.code - 1) : Nat) : Int)).toNat

/-- Do the digits of a stored value obey Table 02-5 as a whole? -/
def storedLegal (t : ColType) (d : Digits) : Bool :=
  if t.code = tBool then d.all (fun x => decide (x.toNat ≤ 1))
  else if t.isDec then
    match d with
    | [] => false
    | g :: m => decide (g.toNat ≤ 1) && m.all (fun x => decide (x.toNat ≤ 9)) && !(g.toNat == 0 && m.all (fun x => x.toNat == 9))
  else true

/-! ### Strings and heap records (R41, R42, R50) -/

/-- Why a heap record failed: its data, or poison. -/
inductive HeapFault where
  | bad | poison
  deriving DecidableEq, Repr

/-- The remainder bytes of a string's heap record as a cluster reads them (R42, R50). -/
def State.heapRead (s : State) (cl : Option Nat) (da len : Nat) : Except HeapFault Bytes :=
  let n := len - 16
  let total := (8 + n + 15) / 16 * 16
  if s.memPoisoned da total then .error .poison
  else
    let b := s.viewGet cl da (total / 128 + 2) total
    let r := bslice b 8 n
    if word32 b 0 != n || word32 b 1 != crc32c r then .error .bad else .ok r

/-- Bytes of a heap record (R42). -/
def heapRecord (r : Bytes) : Bytes :=
  let b := leBytes 4 r.length ++ leBytes 4 (crc32c r) ++ r
  bslice b 0 ((b.length + 15) / 16 * 16)

/-- The bytes of a string value, its heap record read and checked when it is longer than 16 bytes. -/
def State.strBytes (s : State) (cl : Option Nat) (len : Nat) (pre : Bytes) (heap : Nat) : Except HeapFault Bytes :=
  if len ≤ 16 then .ok (pre.take len)
  else match s.heapRead cl heap len with
    | .ok r => .ok (pre.take 16 ++ r)
    | .error e => .error e

/-- The status of a heap record that fails under STRICT (Table 12-2). -/
def HeapFault.status : HeapFault → Nat
  | .bad => stMalformedData
  | .poison => stPoisoned

/-- Near or far bytes of a heap record read. -/
def heapBytes (len : Nat) : Nat := if len ≤ 16 then 0 else (8 + (len - 16) + 15) / 16 * 16

/-! ### Key strings and the key hash (R116, R119, R125) -/

/-- The key digit string of one value (R116); a string's bytes are given. -/
def keyDigs (v : ColVal) (b : Bytes) : Digits :=
  match v with
  | .null => [0]
  | .dig d => 1 :: d
  | .str len _ _ => 1 :: (natDigs 5 len ++ hexDigits b)

/-- The stored key form of one value (R125): a string contributes its length, prefix and heap DA. -/
def keyForm (v : ColVal) : Digits :=
  match v with
  | .null => [0]
  | .dig d => 1 :: d
  | .str len pre heap => 1 :: (natDigs 5 len ++ hexDigits (bslice pre 0 16) ++ natDigs 12 heap)

/-- Read one value back from its stored key form: the value and the digits after it. -/
def keyUnform (t : ColType) (d : Digits) : ColVal × Digits :=
  match d with
  | [] => (.null, [])
  | m :: l =>
    if m.toNat = 0 then (.null, l)
    else if t.isStr then (.str (digsNat (l.take 5)) (hexBytes ((l.drop 5).take 32)) (digsNat ((l.drop 37).take 12)), l.drop 49)
    else (.dig (l.take t.width), l.drop t.width)

/-- Read several values back. -/
def keyUnforms : List ColType → Digits → List ColVal
  | [], _ => []
  | t :: ts, d => let (v, l) := keyUnform t d; v :: keyUnforms ts l

/-- 2^64. -/
def m64 : Nat := 2 ^ 64

/-- The mixing function of R119. -/
def hmix (x : Nat) : Nat :=
  let x := x * 0xA3B195E4D7C26F1B % m64
  let x := x ^^^ (x / 2 ^ 29)
  let x := x * 0x6C8E9CF570913D27 % m64
  x ^^^ (x / 2 ^ 32)

/-- Absorb the digits 16 at a time, the last group padded with zeros. -/
def habsorb : Nat → Nat → Digits → Nat
  | 0, h, _ => h
  | f + 1, h, k =>
    if k.isEmpty then h
    else
      let g := k.take 16
      habsorb f (hmix (h ^^^ digsNat (g ++ List.replicate (16 - g.length) 0))) (k.drop 16)

/-- The key hash of R119. -/
def khash (k : Digits) (salt : Nat) : Nat :=
  let h := 0x2F6A1C93E05BD847 ^^^ (salt * 0xD4E12B7A95C368F5 % m64)
  let h := hmix (h ^^^ k.length)
  let h := habsorb (k.length + 1) h k
  let h := h ^^^ (h / 2 ^ 31)
  let h := h * 0xD4E12B7A95C368F5 % m64
  h ^^^ (h / 2 ^ 33)

/-- The spill partition digit of level L (Table 05-1), from the hash with salt L / 4. -/
def spillDigit (h level : Nat) : Nat := bits h (4 * (level % 4)) 4

/-! ### Sort keys (R157) -/

/-- The sort key form of one value: a marker and its digits, complemented under DESC. -/
def sortForm (t : ColType) (desc nullsLast : Bool) (v : ColVal) : Digits :=
  let mark : Digit := match v with
    | .null => if nullsLast then 1 else 0
    | .dig _ | .str _ _ _ => if nullsLast then 0 else 1
  let d := match v with
    | .null => List.replicate t.width (0 : Digit)
    | .dig d => if desc then d.map (fun x => BitVec.ofNat 4 (15 - x.toNat)) else d
    | .str _ pre _ => let p := hexDigits (bslice pre 0 16)
      if desc then p.map (fun x => BitVec.ofNat 4 (15 - x.toNat)) else p
  mark :: d

/-! ### Batches -/

/-- The value of a column at a row. -/
def Column.at (c : Column) (r : Nat) : ColVal := c.vals.getD r .null
/-- Is the row selected? -/
def Batch.live (b : Batch) (r : Nat) : Bool := b.sel.getD r false
/-- The selected rows, ascending. -/
def Batch.liveRows (b : Batch) : List Nat := (List.range b.rows).filter b.live
/-- The origin of a row (R155, R167): the carried one, or the batch's own. -/
def Batch.originOf (b : Batch) (r : Nat) : Nat × Nat := if b.origin.isEmpty then (b.seq, r) else b.origin.getD r (0, 0)
/-- A batch with every row selected. -/
def Batch.full (seq : Nat) (n : Nat) (cols : List Column) (origin : List (Nat × Nat)) : Batch :=
  ⟨seq, n, cols, List.replicate n true, origin⟩

/-- Rows of columns by number, as new columns. -/
def pickRows (cols : List Column) (rows : List Nat) : List Column :=
  cols.map (fun c => { c with vals := rows.map c.at })

end Sys2Proof.Machine
end

