-- ==== Sys2Proof/Machine/Strips.lean ====
section
/-! DEFINITION. Expression strips and exact decimal arithmetic: layout, validation and the operations (Expression Strips and Exact
Decimal Arithmetic). -/

namespace Sys2Proof.Machine

/-! ### Rounding and decimal arithmetic (R104, R105) -/

/-- Divide with rounding: modes 0 HALF_EVEN, 1 HALF_UP, 2 TOWARD_ZERO, 3 FLOOR (Table 04-6). -/
def roundDiv (n : Int) (d m : Nat) : Int :=
  let neg := decide (n < 0)
  let q := n.natAbs / d
  let r := n.natAbs - q * d
  let up := match m with
    | 0 => decide (d < 2 * r) || (2 * r == d && q % 2 == 1)
    | 1 => decide (d ≤ 2 * r)
    | 2 => false
    | _ => neg && decide (0 < r)
  let q := if up then q + 1 else q
  if neg then -(q : Int) else (q : Int)

/-- Move a value from one scale to another (R105). -/
def scaleTo (v : Int) (src dst m : Nat) : Int :=
  if src ≤ dst then v * ((10 ^ (dst - src) : Nat) : Int) else roundDiv v (10 ^ (src - dst)) m

/-- The DDIV of R105: none where the divisor is 0. -/
def decDiv (va vb : Int) (sa sb sd m : Nat) : Option Int :=
  if vb = 0 then none
  else
    let sg : Int := if vb < 0 then -1 else 1
    if sa ≤ sd + sb then some (roundDiv (va * ((10 ^ (sd + sb - sa) : Nat) : Int) * sg) vb.natAbs m)
    else some (roundDiv (va * sg) (vb.natAbs * 10 ^ (sa - sd - sb)) m)

/-- Division truncated toward zero. -/
def truncDiv (a b : Int) : Int :=
  let q := a.natAbs / b.natAbs
  if decide (a < 0) != decide (b < 0) then -(q : Int) else (q : Int)

/-- Division rounded toward negative infinity. -/
def floorDiv (a : Int) (b : Nat) : Int := roundDiv a b 3

/-! ### Parsing of strings (R103) -/

/-- Digits at the head of bytes, and what is left. -/
def takeDigits : Bytes → List Nat × Bytes
  | [] => ([], [])
  | b :: l => if 0x30 ≤ b.toNat ∧ b.toNat ≤ 0x39 then let (d, r) := takeDigits l; ((b.toNat - 0x30) :: d, r) else ([], b :: l)

/-- Parse a number: sign, digits, and (CAST.S2D) a point and digits. The unscaled value and its scale, or none. -/
def parseNumber (decimal : Bool) (b : Bytes) : Option (Int × Nat) :=
  if 80 < b.length then none else
  let neg := b.head? == some 0x2D
  let b := if b.head? == some 0x2B || neg then b.tail else b
  let (ip, r) := takeDigits b
  let (fp, r) := if decimal && r.head? == some 0x2E then takeDigits r.tail else ([], r)
  if !r.isEmpty || (ip.isEmpty && fp.isEmpty) then none
  else
    let v : Nat := (ip ++ fp).foldl (fun a d => 10 * a + d) 0
    some (if neg then -(v : Int) else (v : Int), fp.length)

/-! ### Layout (Tables 04-1 to 04-3) -/

/-- A value descriptor (Table 04-2). -/
def descRead (w : Nat) : ColType := ⟨bits w 0 8, bits w 8 8, bits w 16 8⟩

/-- The strip at the start of `b`. -/
def stripRead (b : Bytes) : Strip :=
  let w := word32 b
  let nt := bits (w 1) 9 7
  let no := bits (w 1) 16 5
  let nc := bits (w 2) 7 7
  let np := bits (w 2) 14 5
  let at_ (i n : Nat) : List Nat := (List.range n).map (fun k => w (3 + i + k))
  ⟨(at_ 0 nt).map descRead, (at_ nt no).map descRead, bits (w 2) 0 7, (at_ (nt + no) nc).map (· % 65536),
   (at_ (nt + no + nc) np).map (· % 65536),
   (at_ (nt + no + nc + np) (bits (w 1) 0 9)).map (fun x => ⟨bits x 25 7, bits x 24 1 == 1, bits x 16 8, bits x 8 8, bits x 0 8⟩)⟩

/-- The opcode with its rounding variant folded out. -/
def stripBase (c : Nat) : Nat :=
  if (0x28 ≤ c && c ≤ 0x2F) || (0x30 ≤ c && c ≤ 0x3B) then c / 4 * 4 else c

/-- Is the opcode one of Table 04-5? -/
def stripKnown (c : Nat) : Bool :=
  decide (c ≤ 0x08) || (decide (0x10 ≤ c) && decide (c ≤ 0x18)) || (decide (0x20 ≤ c) && decide (c ≤ 0x25)) ||
  (decide (0x28 ≤ c) && decide (c ≤ 0x40)) || (decide (0x48 ≤ c) && decide (c ≤ 0x4D)) || (decide (0x50 ≤ c) && decide (c ≤ 0x52))

/-- Does the operation use source a? -/
def usesA (c : Nat) : Bool := c != 0x00 && c != 0x05
/-- Does it use source b? -/
def usesB (c : Nat) : Bool :=
  c == 0x03 || c == 0x07 || c == 0x08 || (decide (0x10 ≤ c) && decide (c ≤ 0x14)) || c == 0x17 || c == 0x18 || c == 0x20 || c == 0x21 ||
  c == 0x24 || c == 0x25 || (decide (0x28 ≤ c) && decide (c ≤ 0x2F)) || c == 0x40 || (decide (0x48 ≤ c) && decide (c ≤ 0x4D)) || c == 0x50 || c == 0x51
/-- Does it write a destination? -/
def usesD (c : Nat) : Bool := c != 0x00 && c != 0x02 && c != 0x04 && c != 0x05

/-- Types of a strip's operands: the columns', constants' and parameters' types where they are known. -/
structure StripTypes where
  ins : List (Option ColType)
  consts : List (Option ColType)
  params : List (Option ColType)
  deriving DecidableEq, Repr

/-- Is the address a declared operand in its role (Table 04-4)? -/
def addrOk (p : Strip) (dst : Bool) (x : Nat) : Bool :=
  if x < 0x40 then decide (x < p.temps.length)
  else if x < 0x80 then !dst && decide (x - 0x40 < p.inCount)
  else if x < 0xC0 then !dst && decide (x - 0x80 < p.consts.length)
  else if x < 0xD0 then !dst && decide (x - 0xC0 < p.params.length)
  else if x < 0xE0 then decide (x - 0xD0 < p.outs.length)
  else false

/-- The type at an address, where it is known. -/
def addrType (p : Strip) (t : StripTypes) (x : Nat) : Option ColType :=
  if x < 0x40 then p.temps[x]?
  else if x < 0x80 then (t.ins[x - 0x40]?).join
  else if x < 0xC0 then (t.consts[x - 0x80]?).join
  else if x < 0xD0 then (t.params[x - 0xC0]?).join
  else if x < 0xE0 then p.outs[x - 0xD0]?
  else none

/-- A condition on types that holds as far as they are known. -/
def tyIf (t : Option ColType) (f : ColType → Bool) : Bool := match t with | some x => f x | none => true
/-- A condition on two types. -/
def tyIf2 (t u : Option ColType) (f : ColType → ColType → Bool) : Bool :=
  match t, u with
  | some x, some y => f x y
  | _, _ => true

/-- Both of one type code, or both DEC. -/
def sameKind (x y : ColType) : Bool := x.code == y.code || (x.isDec && y.isDec)
/-- A type Table 04-2 allows (ANY). -/
def anyOk (x : ColType) : Bool := !x.isStr && x.code != tKey

/-- Check 6 of Table 04-8 for one operation. -/
def opTypesOk (p : Strip) (t : StripTypes) (o : StripOp) : Bool :=
  let c := stripBase o.code
  let a := addrType p t o.a
  let b := addrType p t o.b
  let d := addrType p t o.dst
  let int3 := tyIf a (·.isInt) && tyIf b (·.isInt) && tyIf d (·.isInt)
  let dec3 := tyIf a (·.isDec) && tyIf b (·.isDec) && tyIf d (·.isDec)
  match c with
  | 0x00 | 0x05 => true
  | 0x01 => tyIf a anyOk && tyIf2 a d sameKind
  | 0x02 | 0x04 => tyIf a (fun x => x.code == tBool)
  | 0x03 | 0x07 | 0x08 => tyIf a anyOk && tyIf b anyOk && tyIf2 a b sameKind && tyIf2 a d sameKind && tyIf2 b d sameKind
  | 0x06 => tyIf a anyOk && tyIf d (fun x => x.code == tBool)
  | 0x10 | 0x11 | 0x12 | 0x13 | 0x14 | 0x17 | 0x18 => int3
  | 0x15 | 0x16 | 0x3D => tyIf a (·.isInt) && tyIf d (·.isInt)
  | 0x20 | 0x21 | 0x24 | 0x25 | 0x28 | 0x2C => dec3
  | 0x22 | 0x23 | 0x30 => tyIf a (·.isDec) && tyIf d (·.isDec)
  | 0x34 => tyIf a (·.isDec) && tyIf d (·.isInt)
  | 0x38 => tyIf a (·.isStr) && tyIf d (·.isDec)
  | 0x3C => tyIf a (·.isInt) && tyIf d (·.isDec)
  | 0x3E => tyIf a (·.isStr) && tyIf d (·.isInt)
  | 0x3F => tyIf a (·.isTs) && tyIf d (fun x => x.code == tDate)
  | 0x40 => tyIf a (fun x => x.code == tDate) && tyIf b (fun x => decide (0x02 ≤ x.code) && decide (x.code ≤ 0x04)) &&
      tyIf d (fun x => x.code == tDate)
  | 0x50 | 0x51 => tyIf a (fun x => x.code == tBool) && tyIf b (fun x => x.code == tBool) && tyIf d (fun x => x.code == tBool)
  | 0x52 => tyIf a (fun x => x.code == tBool) && tyIf d (fun x => x.code == tBool)
  | _ => tyIf a anyOk && tyIf b anyOk && tyIf2 a b sameKind && tyIf d (fun x => x.code == tBool)

/-- Two scales agree where both are DEC. -/
def scaleEq (x y : ColType) : Bool := !(x.isDec && y.isDec) || x.scale == y.scale

/-- Check 7 of Table 04-8 for one operation: scales and digit bounds. -/
def opBoundsOk (p : Strip) (t : StripTypes) (o : StripOp) : Bool :=
  let c := stripBase o.code
  let a := addrType p t o.a
  let b := addrType p t o.b
  let d := addrType p t o.dst
  match c with
  | 0x01 | 0x22 | 0x23 => tyIf2 a d scaleEq
  | 0x03 | 0x07 | 0x08 | 0x20 | 0x21 | 0x24 | 0x25 => tyIf2 a b scaleEq && tyIf2 a d scaleEq && tyIf2 b d scaleEq
  | 0x28 => tyIf2 a b (fun x y => decide (x.prec + y.prec ≤ 76))
  | 0x2C => match a, b, d with
    | some x, some y, some z => decide (x.prec + (z.scale + y.scale - x.scale) ≤ 76) && decide (y.prec + (x.scale - z.scale - y.scale) ≤ 76)
    | none, some y, some z => decide (z.scale + y.scale ≤ 76)
    | some x, none, some z => decide (x.prec + (z.scale - x.scale) ≤ 76)
    | _, _, _ => true
  | 0x30 => tyIf2 a d (fun x z => decide (x.prec + (z.scale - x.scale) ≤ 76))
  | 0x48 | 0x49 | 0x4A | 0x4B | 0x4C | 0x4D => tyIf2 a b scaleEq
  | _ => true

/-- Is every operand written before it is read (check 8)? Keeps the temporaries and outputs written so far and whether a COND ran. -/
def writtenBefore : List StripOp → List Nat → Bool → Bool
  | [], _, _ => true
  | o :: l, w, cond =>
    let c := stripBase o.code
    let seen (x : Nat) : Bool := !(decide (x < 0x40) || (decide (0xD0 ≤ x) && decide (x < 0xE0))) || w.contains x
    (!usesA c || seen o.a) && (!usesB c || seen o.b) && (c != 0x03 || cond) &&
      writtenBefore l (if usesD c then o.dst :: w else w) (cond || c == 0x02)

/-- The first check of Table 04-8 that a COMPUTE's strip breaks. `blob` is the blob area, `refs` the operator's input references; `constOk` says
whether the plan defines a constant and its digits are legal. Types that are not known yet are not checked (R111). -/
def stripFault (blob : Bytes) (off len refs : Nat) (t : Strip → StripTypes) (constOk : Nat → Bool) (params : Nat) : Option Nat :=
  let b := (blob.drop off).take len
  let p := stripRead b
  let w := word32 b
  let n := 3 + p.temps.length + p.outs.length + p.consts.length + p.params.length + p.ops.length
  let tabs := (List.range (p.consts.length + p.params.length)).map (fun i => w (3 + p.temps.length + p.outs.length + i))
  let descs := (List.range (p.temps.length + p.outs.length)).map (fun i => w (3 + i))
  if len < 12 || blob.length < off + len || bits (w 0) 0 16 != 0xE5A7 || bits (w 0) 16 8 != 1 || !rz (w 0) 24 8 || !rz (w 1) 21 11 ||
      !rz (w 2) 19 13 || len != 4 * n || tabs.any (fun x => !rz x 16 16) || descs.any (fun x => !rz x 24 8) then some 1
  else if bits (w 1) 0 9 < 1 || 256 < bits (w 1) 0 9 || 64 < p.temps.length || p.outs.length < 1 || 16 < p.outs.length || 64 < p.inCount ||
      64 < p.consts.length || 16 < p.params.length || refs < p.inCount then some 2
  else if (p.temps ++ p.outs).any (fun x => !x.legal || x.isStr || x.code == tKey) then some 3
  else if p.ops.any (fun o => !stripKnown o.code) then some 4
  else if p.ops.any (fun o =>
      let c := stripBase o.code
      !(if usesD c then addrOk p true o.dst else o.dst == 0xFF) || !(if usesA c then addrOk p false o.a else o.a == 0xFF) ||
      !(if usesB c then addrOk p false o.b else o.b == 0xFF)) then some 5
  else if p.ops.any (fun o => !opTypesOk p (t p) o) then some 6
  else if p.ops.any (fun o => !opBoundsOk p (t p) o) then some 7
  else if !writtenBefore p.ops [] false then some 8
  else if (List.range p.outs.length).any (fun i => !p.ops.any (fun o => usesD (stripBase o.code) && o.dst == 0xD0 + i)) then some 9
  else if 4096 < ((p.temps ++ p.outs).map (fun x => x.width + 1)).sum then some 10
  else if p.consts.any (fun k => !constOk k) || p.params.any (fun k => decide (params ≤ k)) then some 11
  else none

/-! ### One row (R95 to R107) -/

/-- A value in the lanes: null or an exact integer (a BOOL is 0 or 1; a DECIMAL its unscaled integer). -/
abbrev Lane := Option Int

/-- What one operation gives on one row: a value, or an exception. -/
inductive LaneRes where
  | ok (v : Lane)
  | exc (e : ArithExc)
  deriving DecidableEq, Repr

/-- A value checked against the destination's range. -/
def fitLane (d : ColType) (v : Int) : LaneRes := if d.fits v then .ok (some v) else .exc .overflow

/-- A BOOL as a lane value. -/
def boolLane (b : Bool) : Lane := some (if b then 1 else 0)

/-- Kleene AND and OR on BOOL lanes (R82, R98). -/
def kleeneAnd (a b : Lane) : Lane :=
  if a = some 0 || b = some 0 then some 0 else match a, b with
  | some _, some _ => some 1
  | _, _ => none

/-- Kleene OR. -/
def kleeneOr (a b : Lane) : Lane :=
  if a = some 1 || b = some 1 then some 1 else match a, b with
  | some _, some _ => some 0
  | _, _ => none

/-- One operation on one row with non-null sources where it needs them (Table 04-5). `cast` is the parsed string of a string cast. -/
def laneOp (c m : Nat) (ta tb td : ColType) (a b : Lane) (cond : Lane) (cast : Option (Int × Nat)) : LaneRes :=
  match c with
  | 0x03 => match (if cond = some 1 then a else b) with
    | some v => fitLane td v
    | none => .ok none
  | 0x06 => .ok (boolLane a.isNone)
  | 0x07 => match a.or b with
    | some v => fitLane td v
    | none => .ok none
  | 0x50 => .ok (kleeneAnd a b)
  | 0x51 => .ok (kleeneOr a b)
  | 0x52 => .ok (a.map (fun v => 1 - v))
  | 0x08 => match a, b with
    | some v, some u => if u = v then .ok none else fitLane td v
    | _, _ => .ok none
  | 0x38 => match a, cast with
    | none, _ => .ok none
    | some _, none => .exc .invalidCast
    | some _, some (v, sc) => fitLane td (scaleTo v sc td.scale m)
  | 0x3E => match a, cast with
    | none, _ => .ok none
    | some _, none => .exc .invalidCast
    | some _, some (v, _) => fitLane td v
  | _ =>
    match a with
    | none => .ok none
    | some x =>
      match c with
      | 0x01 | 0x3D => fitLane td x
      | 0x15 | 0x22 => fitLane td (-x)
      | 0x16 | 0x23 => fitLane td (x.natAbs : Int)
      | 0x30 => fitLane td (scaleTo x ta.scale td.scale m)
      | 0x34 => fitLane td (scaleTo x ta.scale 0 m)
      | 0x3C => fitLane td (x * ((10 ^ td.scale : Nat) : Int))
      | 0x3F => fitLane td (floorDiv x (if ta.code = tTsUs then 86400000000 else 86400000000000))
      | _ =>
        match b with
        | none => .ok none
        | some y =>
          match c with
          | 0x10 | 0x20 | 0x40 => fitLane td (x + y)
          | 0x11 | 0x21 => fitLane td (x - y)
          | 0x12 => fitLane td (x * y)
          | 0x13 => if y = 0 then .exc .divideByZero else fitLane td (truncDiv x y)
          | 0x14 => if y = 0 then .exc .divideByZero else fitLane td (x - y * truncDiv x y)
          | 0x17 | 0x24 => fitLane td (min x y)
          | 0x18 | 0x25 => fitLane td (max x y)
          | 0x28 => fitLane td (scaleTo (x * y) (ta.scale + tb.scale) td.scale m)
          | 0x2C => match decDiv x y ta.scale tb.scale td.scale m with
            | none => .exc .divideByZero
            | some q => fitLane td q
          | 0x48 => .ok (boolLane (x == y))
          | 0x49 => .ok (boolLane (x != y))
          | 0x4A => .ok (boolLane (decide (x < y)))
          | 0x4B => .ok (boolLane (decide (x ≤ y)))
          | 0x4C => .ok (boolLane (decide (y < x)))
          | 0x4D => .ok (boolLane (decide (y ≤ x)))
          | _ => .ok none

/-- A stored value as a lane value; strings are read by the core. -/
def laneOf (t : ColType) (v : ColVal) : Lane :=
  match v with
  | .null => none
  | .dig d => some (storedInt t d)
  | .str _ _ _ => some 0

/-- A lane value in stored form. -/
def laneStored (t : ColType) (v : Lane) : ColVal :=
  match v with
  | none => .null
  | some x => .dig (intStored t x)

/-- The lanes of a row group: values by operand address, the condition register and the exception mask, row by row. -/
structure Lanes where
  vals : Map (List Lane)
  cond : List Lane
  mask : List Bool
  deriving DecidableEq, Repr

/-- Run the strip's operations on a row group in strip order (R90). `sel` is the group's part of the selection vector, `cast op row` the parsed string
of a cast. Answers the lanes, the rows nulled in place of an exception (R107), or the first exception by operation, then row (R108). -/
def runGroup (p : Strip) (t : StripTypes) (n : Nat) (sel : List Bool) (cast : Nat → Nat → Option (Int × Nat)) :
    List (StripOp × Nat) → Lanes → Nat → Except (Nat × Nat × ArithExc) (Lanes × Nat)
  | [], l, k => .ok (l, k)
  | (o, i) :: rest, l, k =>
    let c := stripBase o.code
    let m := bits o.code 0 2
    let get (x r : Nat) : Lane := ((mgetD [] x l.vals).getD r none)
    match c with
    | 0x00 => runGroup p t n sel cast rest l k
    | 0x02 => runGroup p t n sel cast rest { l with cond := (List.range n).map (get o.a) } k
    | 0x04 => runGroup p t n sel cast rest { l with mask := (List.range n).map (fun r => sel.getD r false && get o.a r == some 1) } k
    | 0x05 => runGroup p t n sel cast rest { l with mask := sel } k
    | _ =>
      let dflt : ColType := ColType.int64
      let ta := (addrType p t o.a).getD dflt
      let tb := (addrType p t o.b).getD dflt
      let td := (addrType p t o.dst).getD dflt
      let res := (List.range n).map (fun r => laneOp c m ta tb td (get o.a r) (get o.b r) (l.cond.getD r none) (cast i r))
      let bad := (List.zip res (List.range n)).find? (fun x => match x.1 with
        | .exc _ => l.mask.getD x.2 false && !o.noe
        | .ok _ => false)
      match bad with
      | some (.exc e, r) => .error (i, r, e)
      | _ =>
        let nulled := ((List.zip res (List.range n)).filter (fun x => match x.1 with
          | .exc _ => sel.getD x.2 false
          | .ok _ => false)).length
        let v : List Lane := res.map (fun x => match x with | .ok v => v | .exc _ => none)
        runGroup p t n sel cast rest { l with vals := mput o.dst v l.vals } (k + nulled)

end Sys2Proof.Machine
end

