-- ==== Sys2Proof/Machine/Aggs.lean ====
section
/-! DEFINITION. Accumulators, group entries, their layout and their results (R139 to R141, R145, R535). -/

namespace Sys2Proof.Machine

/-- Why an accumulation stops: an exception, or a heap record that failed, at its DA. -/
inductive AccErr where
  | overflow
  | heap (e : HeapFault) (da : Nat)
  deriving DecidableEq, Repr

/-- Does a SUM or AVG of the type accumulate in a wide slot (Table 05-6)? -/
def wideSum (t : ColType) : Bool := t.isDec

/-- Wide and binary slots of a function on an input type (Table 05-6). -/
def fnSlots (fn : Nat) (t : ColType) : Nat × Nat :=
  match fn with
  | 0 => (0, 0)
  | 1 => (0, 1)
  | 2 => if wideSum t then (1, 0) else (0, 1)
  | 3 => if wideSum t then (1, 1) else (0, 2)
  | _ => (1, 0)

/-- The accumulator of a function that has seen nothing. -/
def accInit (fn : Nat) : AggAcc :=
  match fn with
  | 0 | 1 => .count 0
  | 2 => .sum none
  | 3 => .avg none 0
  | _ => .ext none

/-- One addition, exact and within the accumulator's range (R140). -/
def addIn (t : ColType) (a : Option Int) (b : Int) : Except AccErr (Option Int) :=
  let v := a.getD 0 + b
  let ok := if wideSum t then decide (v.natAbs < 10 ^ 64) else decide (-(2 ^ 127 : Int) ≤ v) && decide (v < 2 ^ 127)
  if ok then .ok (some v) else .error .overflow

/-- Order of two values of a type (R36, R43): digits of stored forms, and strings by their bytes. -/
def State.valCmp (s : State) (cl : Nat) (a b : ColVal) : Except AccErr Ordering :=
  match a, b with
  | .dig x, .dig y => .ok (cmpDigs x y)
  | .str n p d, .str m q e =>
    match cmpBytes (p.take (min n 16)) (q.take (min m 16)) with
    | .eq =>
      if n ≤ 16 || m ≤ 16 then .ok (compare n m)
      else match s.heapRead (some cl) d n with
        | .error x => .error (.heap x d)
        | .ok x => match s.heapRead (some cl) e m with
          | .error y => .error (.heap y e)
          | .ok y => .ok (cmpBytes x y)
    | o => .ok o
  | _, _ => .ok .eq

/-- Keep the extreme of two values: MIN (function 4) or MAX. -/
def State.extreme (s : State) (cl fn : Nat) (a : Option ColVal) (b : ColVal) : Except AccErr (Option ColVal) :=
  match a with
  | none => .ok (some b)
  | some x => match s.valCmp cl b x with
    | .error e => .error e
    | .ok o => .ok (some (if (fn == 4 && o == .lt) || (fn != 4 && o == .gt) then b else x))

/-- Fold one input value into an accumulator (R139, R140). -/
def State.accAdd (s : State) (cl : Nat) (fn : Nat) (t : ColType) (a : AggAcc) (v : ColVal) : Except AccErr AggAcc :=
  match a, v with
  | .count n, v => .ok (.count (if fn = 0 || v != .null then n + 1 else n))
  | a, .null => .ok a
  | .sum x, .dig d => (addIn t x (storedInt t d)).map .sum
  | .avg x n, .dig d => (addIn t x (storedInt t d)).map (fun y => .avg y (n + 1))
  | .ext x, v => (s.extreme cl fn x v).map .ext
  | a, _ => .ok a

/-- Merge an accumulator into another (R142). -/
def State.accMerge (s : State) (cl : Nat) (fn : Nat) (t : ColType) (a b : AggAcc) : Except AccErr AggAcc :=
  match a, b with
  | .count n, .count m => .ok (.count (n + m))
  | .sum x, .sum (some y) => (addIn t x y).map .sum
  | .avg x n, .avg (some y) m => (addIn t x y).map (fun z => .avg z (n + m))
  | .ext x, .ext (some v) => (s.extreme cl fn x v).map .ext
  | a, _ => .ok a

/-- Heap reads that comparing two values takes. -/
def cmpReads (a : Option ColVal) (b : ColVal) : List (Nat × Nat) :=
  match a, b with
  | some (.str n p d), .str m q e => if n ≤ 16 || m ≤ 16 || p.take 16 != q.take 16 then [] else [(d, heapBytes n), (e, heapBytes m)]
  | _, _ => []

/-- Slot of function i and whether it is a binary one, as AGU_ERRLOG names it. -/
def slotOf (fns : List AggFn) (tys : List ColType) (i : Nat) : Nat × Bool :=
  let before := (List.zip (fns.take i) (tys.take i)).map (fun x => fnSlots x.1.fn x.2)
  let bin := match fns[i]?, tys[i]? with
    | some f, some t => (fnSlots f.fn t).1 == 0
    | _, _ => false
  if bin then ((before.map (·.2)).sum, true) else ((before.map (·.1)).sum, false)

/-! ### Layout of a group entry (Table 05-8) -/

/-- Bytes of a group entry (R145). -/
def GEntry.size (g : GEntry) (fns : List AggFn) (tys : List ColType) : Nat :=
  let sl := (List.zip fns tys).map (fun x => fnSlots x.1.fn x.2)
  (32 + 40 * (sl.map (·.1)).sum + 16 * (sl.map (·.2)).sum + (g.key.length + 1) / 2 + 127) / 128 * 128

/-- A wide slot: a SUM's sign and 64 digits, or the stored form of an extreme; zero where there is no value (DESIGN CHOICE, log 45). -/
def wideSlot (t : ColType) (a : AggAcc) : Bytes :=
  let d : Digits := match a with
    | .sum (some v) | .avg (some v) _ => decStored 64 v
    | .ext (some (.dig d)) => d
    | .ext (some (.str n p h)) => hexDigits (bslice p 0 16) ++ natDigs 5 n ++ natDigs 12 h
    | _ => []
  bslice (digitBytes d) 0 40

/-- A binary slot. -/
def binSlot (v : Int) : Bytes := leBytes 16 (ofInt 128 v)

/-- The binary slots of a function. -/
def binSlots (fn : Nat) (t : ColType) (a : AggAcc) : Bytes :=
  match fn, a with
  | 1, .count n => binSlot n
  | 2, .sum v => if wideSum t then [] else binSlot (v.getD 0)
  | 3, .avg v n => (if wideSum t then [] else binSlot (v.getD 0)) ++ binSlot n
  | _, _ => []

/-- Bytes of a group entry. -/
def GEntry.bytes (g : GEntry) (fns : List AggFn) (tys : List ColType) : Bytes :=
  let fs := List.zip (List.zip fns tys) g.accs
  let sl := (List.zip fns tys).map (fun x => fnSlots x.1.fn x.2)
  let n := g.size fns tys
  bslice (leBytes 4 (n / 128 + 2 ^ 4 * (sl.map (·.1)).sum + 2 ^ 9 * (sl.map (·.2)).sum + 2 ^ 14 * g.key.length) ++ leBytes 4 0 ++ leBytes 8 g.hash ++
    leBytes 8 g.rows ++ List.replicate 8 0 ++
    fs.flatMap (fun x => if (fnSlots x.1.1.fn x.1.2).1 = 0 then [] else wideSlot x.1.2 x.2) ++
    fs.flatMap (fun x => binSlots x.1.1.fn x.1.2 x.2) ++ digitBytes g.key) 0 n

/-! ### Entries -/

/-- An entry that has seen no row. -/
def GEntry.fresh (hash : Nat) (key : Digits) (fns : List AggFn) : GEntry := ⟨hash, key, 0, fns.map (fun f => accInit f.fn)⟩

/-- Fold a row's inputs into an entry: function by function; the index of one that fails. -/
def State.entryAdd (s : State) (cl : Nat) (g : GEntry) : List (AggFn × ColType) → List AggAcc → List ColVal → Nat → Except (Nat × AccErr) (List AggAcc)
  | (f, t) :: l, a :: as, v :: vs, i => match s.accAdd cl f.fn t a v with
    | .error e => .error (i, e)
    | .ok a => match s.entryAdd cl g l as vs (i + 1) with
      | .error e => .error e
      | .ok r => .ok (a :: r)
  | _, _, _, _ => .ok []

/-- Merge an entry into another. -/
def State.entryMerge (s : State) (cl : Nat) : List (AggFn × ColType) → List AggAcc → List AggAcc → Nat → Except (Nat × AccErr) (List AggAcc)
  | (f, t) :: l, a :: as, b :: bs, i => match s.accMerge cl f.fn t a b with
    | .error e => .error (i, e)
    | .ok a => match s.entryMerge cl l as bs (i + 1) with
      | .error e => .error e
      | .ok r => .ok (a :: r)
  | _, _, _, _ => .ok []

/-- Heap reads of a fold or merge. -/
def extReads : List AggAcc → List AggAcc → List (Nat × Nat)
  | .ext a :: l, .ext (some v) :: m => cmpReads a v ++ extReads l m
  | _ :: l, _ :: m => extReads l m
  | _, _ => []

/-! ### Results -/

/-- A sum as a DECIMAL_WIDE column value. -/
def sumVal (t : ColType) (v : Option Int) : ColVal := match v with
  | none => .null
  | some x => .dig (decStored (if wideSum t then 64 else 39) x)
/-- A count as an INT64 column value. -/
def countVal (n : Nat) : ColVal := .dig (intStored ColType.int64 n)

/-- The raw accumulators that a partial entry emits (R535). -/
def rawVals (t : ColType) (a : AggAcc) : List ColVal :=
  match a with
  | .count n => [countVal n]
  | .sum v => [sumVal t v]
  | .avg v n => [sumVal t v, countVal n]
  | .ext v => [v.getD .null]

/-- The types of those columns. -/
def rawTypes (fn : Nat) (t : ColType) : List ColType :=
  let sum : ColType := if wideSum t then ⟨tWide, 64, t.scale⟩ else ⟨tWide, 39, 0⟩
  match fn with
  | 0 | 1 => [ColType.int64]
  | 2 => [sum]
  | 3 => [sum, ColType.int64]
  | _ => [t]

/-- The batch that a partial entry is (R535): one row with the input batch's seq. -/
def partialBatch (fns : List AggFn) (tys : List ColType) (outs : List OutRef) (seq : Nat) (g : GEntry) : Batch :=
  let cols := (List.zip (List.zip fns tys) g.accs).flatMap (fun x =>
    (List.zip (rawTypes x.1.1.fn x.1.2) (rawVals x.1.2 x.2)).map (fun q => (⟨q.1, none, [q.2]⟩ : Column)))
  Batch.full seq 1 (outs.map (fun r => (if r.produced then cols[r.idx]? else none).getD ⟨⟨0, 0, 0⟩, none, [.null]⟩)) []

/-- A final result (R141), or OVERFLOW. -/
def finalVal (f : AggFn) (t : ColType) (a : AggAcc) : Except AccErr ColVal :=
  match a with
  | .count n => .ok (countVal n)
  | .sum none => .ok .null
  | .sum (some v) => if f.res.fits v then .ok (.dig (intStored f.res v)) else .error .overflow
  | .avg none _ => .ok .null
  | .avg (some v) n => match decDiv v n t.scale 0 f.res.scale f.mode with
    | none => .ok .null
    | some q => if f.res.fits q then .ok (.dig (intStored f.res q)) else .error .overflow
  | .ext v => .ok (v.getD .null)

/-- Type of a final result. -/
def finalType (f : AggFn) (t : ColType) : ColType :=
  match f.fn with
  | 0 | 1 => ColType.int64
  | 2 | 3 => f.res
  | _ => t

/-- Finalise an entry: its results, or the index of the function that overflows. -/
def finalVals : List (AggFn × ColType) → List AggAcc → Nat → Except Nat (List ColVal)
  | (f, t) :: l, a :: as, i => match finalVal f t a with
    | .error _ => .error i
    | .ok v => match finalVals l as (i + 1) with
      | .error e => .error e
      | .ok r => .ok (v :: r)
  | _, _, _ => .ok []

end Sys2Proof.Machine
end

