-- ==== Sys2Proof/Machine/Automata.lean ====
section
/-! DEFINITION. Automaton images: layout, validation and the run (R198 to R202). -/

namespace Sys2Proof.Machine

/-- The counts of an automaton image's head (Table 07-4). -/
structure AutHead where
  states : Nat
  classes : Nat
  patterns : Nat
  accepts : Nat
  deriving DecidableEq, Repr

/-- The head of the image at the start of `b`. -/
def autHead (b : Bytes) : AutHead :=
  ⟨bits (word32 b 1) 0 17, bits (word32 b 1) 17 7, bits (word32 b 2) 0 9, bits (word32 b 3) 0 17⟩

/-- Words of a state row. -/
def AutHead.rowWords (h : AutHead) : Nat := 1 + (h.classes + 1) / 2
/-- Words of the whole image. -/
def AutHead.words (h : AutHead) : Nat := 68 + h.states * h.rowWords + h.accepts + 1

/-- The 16-bit transition of a state on a class. -/
def autNext (b : Bytes) (h : AutHead) (st c : Nat) : Nat := leNat (bslice b (4 * (68 + st * h.rowWords + 1) + 2 * c) 2)
/-- The header word of a state's row. -/
def autRow (b : Bytes) (h : AutHead) (st : Nat) : Nat := word32 b (68 + st * h.rowWords)
/-- Accept-list entry i. -/
def autAccept (b : Bytes) (h : AutHead) (i : Nat) : Nat := word32 b (68 + h.states * h.rowWords + i)

/-- The automaton of an image. -/
def autRead (b : Bytes) : Automaton :=
  let h := autHead b
  ⟨(List.range 256).map (fun x => (b.getD (16 + x) 0).toNat),
   (List.range h.states).map (fun st =>
     let r := autRow b h st
     ⟨(List.range (bits r 16 9)).map (fun i => let a := autAccept b h (bits r 0 16 + i); (bits a 0 8, bits a 8 1 == 1)),
      bits r 25 1 == 1, (List.range h.classes).map (autNext b h st)⟩)⟩

/-- Strictly ascending numbers. -/
def ascending : List Nat → Bool
  | a :: b :: l => decide (a < b) && ascending (b :: l)
  | _ => true

/-- States from which an accept entry is reachable, grown from `have_` one transition at a time. -/
def autReach (a : Automaton) : Nat → List Nat → List Nat
  | 0, l => l
  | n + 1, l =>
    let l' := (List.range a.states.length).filter (fun i => l.contains i ||
      (match a.states[i]? with | some s => s.next.any (fun t => l.contains t) | none => false))
    if l'.length = l.length then l else autReach a n l'

/-- The first check of Table 07-5 that the image at the start of `b` breaks; `b` is what is left of the blob area there. -/
def autFault (b : Bytes) : Option Nat :=
  let h := autHead b
  if bits (word32 b 0) 0 16 != 0xA7F3 || bits (word32 b 0) 16 8 != 1 || !rz (word32 b 0) 24 8 || !rz (word32 b 1) 24 8 ||
      !rz (word32 b 2) 9 23 || !rz (word32 b 3) 17 15 then some 1
  else if h.states < 2 || 65536 < h.states || h.classes < 1 || 64 < h.classes || h.patterns < 1 || 256 < h.patterns ||
      h.accepts < 1 || 65536 < h.accepts then some 2
  else if b.length < 4 * h.words || word32 b (h.words - 1) != crc32c (b.take (4 * (h.words - 1))) then some 3
  else
    let a := autRead b
    let rows := (List.range h.states).map (autRow b h)
    let accs := (List.range h.accepts).map (autAccept b h)
    let rowRz := rows.all (fun r => rz r 26 6) && accs.all (fun x => rz x 9 23) &&
      (h.classes % 2 == 0 || (List.range h.states).all (fun st => autNext b h st h.classes == 0))
    if !rowRz then some 1
    else if a.classMap.any (fun c => decide (h.classes ≤ c)) then some 4
    else if a.states.any (fun s => s.next.any (fun t => decide (h.states ≤ t))) then some 5
    else if rows.any (fun r => decide (256 < bits r 16 9)) || rows.any (fun r => decide (h.accepts < bits r 0 16 + bits r 16 9)) ||
        accs.any (fun x => decide (h.patterns ≤ bits x 0 8)) then some 6
    else if a.states.any (fun s => !ascending (s.accepts.map (·.1))) then some 7
    else if (List.zip a.states (List.range h.states)).any (fun p => p.1.dead && (!p.1.accepts.isEmpty || p.1.next.any (· != p.2))) then some 8
    else
      let live := autReach a h.states ((List.range h.states).filter (fun i => match a.states[i]? with
        | some s => !s.accepts.isEmpty | none => false))
      if (List.zip a.states (List.range h.states)).any (fun p => !p.1.dead && !live.contains p.2) then some 9 else none

/-- The matches of a run from state `st` at position `pos` (R199), in order: (end, pattern); and the bytes consumed. -/
def autRun (a : Automaton) (total : Nat) : Bytes → Nat → Nat → List (Nat × Nat) × Nat
  | [], st, pos =>
    match a.states[st]? with
    | some s => ((s.accepts.filter (fun x => !x.2 || pos == total)).map (fun x => (pos, x.1)), pos)
    | none => ([], pos)
  | v :: l, st, pos =>
    match a.states[st]? with
    | some s =>
      let here := (s.accepts.filter (fun x => !x.2 || pos == total)).map (fun x => (pos, x.1))
      if s.dead then (here, pos)
      else
        let (m, n) := autRun a total l (s.next.getD (a.classMap.getD v.toNat 0) 0) (pos + 1)
        (here ++ m, n)
    | none => ([], pos)

/-- The matches of a value. -/
def autMatches (a : Automaton) (v : Bytes) : List (Nat × Nat) × Nat := autRun a v.length v 0 0

/-- The result words of Table 07-16 for what is left of the match list; a miss is zero in both. -/
def autResult (m : List (Nat × Nat)) : Nat × Nat :=
  match m with
  | [] => (0, 0)
  | (e, p) :: _ =>
    let n := (m.takeWhile (fun x => x.1 == e)).length
    (p + 2 ^ 14 + (if 2 ≤ n then 2 ^ 15 else 0) + n * 2 ^ 16, e)

/-- Does the run reach a dead state within the 16 prefix bytes, so that the heap is not read (R201)? -/
def autDeadIn (a : Automaton) : Bytes → Nat → Bool
  | [], st => match a.states[st]? with | some s => s.dead | none => true
  | v :: l, st => match a.states[st]? with
    | some s => s.dead || autDeadIn a l (s.next.getD (a.classMap.getD v.toNat 0) 0)
    | none => true

end Sys2Proof.Machine
end

