-- ==== Sys2Proof/Machine/Blocks.lean ====
section
/-! DEFINITION. Column blocks: header checks, plane layout, encoders and dictionaries (Digit Planes and Column Formats). -/

namespace Sys2Proof.Machine

def encPlain : Nat := 0
def encDict : Nat := 1
def encRle : Nat := 2
def encFor : Nat := 3

/-- May the type take the encoding (Table 02-3)? -/
def encAllowed (t : ColType) (enc : Nat) : Bool :=
  match enc with
  | 0 => true
  | 1 => t.isStr
  | 2 => !t.isStr
  | 3 => t.isInt || t.code == tDate || t.isTs || (t.code == tKey && decide (t.prec ≤ 16))
  | _ => false

/-- Stored planes of a block (Table 02-3). -/
def Hdr.storedPlanes (h : Hdr) : Nat := if h.enc = encRle then h.stored + 3 else h.stored
/-- Planes of a block, the validity plane included. -/
def Hdr.planes (h : Hdr) : Nat := h.storedPlanes + (if h.validity then 1 else 0)
/-- Digits of one stored plane (Table 02-1). -/
def Hdr.planeDigits (h : Hdr) : Nat := if h.enc = encRle then (h.runs + 255) / 256 * 256 else 4096
/-- Digits of the plane check table (Table 02-1). -/
def Hdr.tableDigits (h : Hdr) : Nat := (4 * h.planes + 127) / 128 * 256
/-- First digit of plane i within the block, the validity plane being plane 0 where there is one (R28). -/
def Hdr.planeOff (h : Hdr) (i : Nat) : Nat :=
  if h.validity then (if i = 0 then 256 else 256 + 1024 + (i - 1) * h.planeDigits) else 256 + i * h.planeDigits
/-- Digits of plane i. -/
def Hdr.planeLen (h : Hdr) (i : Nat) : Nat := if h.validity && i == 0 then 1024 else h.planeDigits
/-- First digit of the plane check table within the block. -/
def Hdr.tableOff (h : Hdr) : Nat := 256 + (if h.validity then 1024 else 0) + h.storedPlanes * h.planeDigits
/-- Size of the block in digits (Table 02-1). -/
def Hdr.size (h : Hdr) : Nat := h.tableOff + h.tableDigits
/-- Index in block order of stored plane i. -/
def Hdr.stored0 (h : Hdr) (i : Nat) : Nat := if h.validity then i + 1 else i

/-- The fields of a header's bytes. -/
def hdrRead (b : Bytes) : Hdr :=
  let w (n : Nat) : Nat := word32 b n
  let code := bits (w 0) 24 8
  let width := bits (w 1) 0 8
  ⟨⟨code, if code = tKey then width else bits (w 3) 0 8, bits (w 3) 8 8⟩, bits (w 1) 8 8, bits (w 1) 16 4, bits (w 2) 0 13, bits (w 2) 16 13,
   bits (w 3) 16 1 == 1, bits (w 3) 17 1 == 1, bits (w 3) 18 1 == 1, bits (w 3) 19 1 == 1, bits (w 4) 0 13, w 5,
   word64 b 6 % 2 ^ 46, word64 b 8 % 2 ^ 46, word64 b 10, bytesDigits (bslice b 48 16), bytesDigits (bslice b 64 16), w 30⟩

/-- The first of conditions 2 to 6 of Table 02-7 that a header breaks, in table order. -/
def hdrFault (b : Bytes) : Option Nat :=
  let h := hdrRead b
  let width := bits (word32 b 1) 0 8
  let prec := bits (word32 b 3) 0 8
  if word32 b 31 != crc32c (bslice b 0 124) then some 2
  else if bits (word32 b 0) 0 16 != 0xB1C4 || bits (word32 b 0) 16 8 != 1 || h.ty.code = 0 || 0x11 < h.ty.code ||
      3 < h.enc || !(encAllowed h.ty h.enc) then some 3
  else if (if h.ty.isDec then !h.ty.legal else h.ty.scale != 0 || prec != 0) || width != h.ty.width ||
      (h.ty.code == tKey && (width == 0 || decide (64 < width))) ||
      !(match h.enc with
        | 0 => if h.ty.isStr then h.stored == (if h.heap then 49 else 37) else h.stored == width
        | 1 => decide (1 ≤ h.stored) && decide (h.stored ≤ 5)
        | 2 => h.stored == width
        | _ => decide (1 ≤ h.stored) && decide (h.stored ≤ width)) ||
      (h.enc == encFor && decide (16 ^ width ≤ h.forBase)) then some 4
  else if h.rows = 0 || 4096 < h.rows || h.rows < h.nulls || (h.nulls != 0 && !h.validity) then some 5
  else if h.length != h.size then some 6
  else none

/-! ### Planes -/

/-- A plane of at most 4,096 digits from one digit a row, padded with zeros. -/
def planeBytes (n : Nat) (d : Digits) : Bytes := bslice (digitBytes d) 0 (n / 2)

/-- The validity plane of rows (R40). -/
def validityBytes (v : List Bool) : Bytes :=
  (List.range 512).map (fun k => BitVec.ofNat 8
    ((List.range 8).foldl (fun a j => a + (if v.getD (8 * k + j) false then 2 ^ j else 0)) 0))

/-- Bits of a validity plane, row by row. -/
def validityBits (b : Bytes) : List Bool := b.flatMap (fun x => (List.range 8).map (fun j => bits x.toNat j 1 == 1))

/-- Column i of rows of digits. -/
def planeOf (rows : List Digits) (i : Nat) : Digits := rows.map (fun d => d.getD i 0)

/-- The 128-byte header of a block (Table 02-2), its header_crc included. -/
def hdrBytes (h : Hdr) : Bytes :=
  let z (d : Digits) : Bytes := bslice (digitBytes d) 0 16
  let b := leBytes 4 (0xB1C4 + 0x10000 + h.ty.code * 2 ^ 24) ++ leBytes 4 (h.ty.width + 256 * h.stored + 2 ^ 16 * h.enc) ++
    leBytes 4 (h.rows + 2 ^ 16 * h.nulls) ++
    leBytes 4 ((if h.ty.isDec then h.ty.prec + 256 * h.ty.scale else 0) + (if h.validity then 2 ^ 16 else 0) + (if h.heap then 2 ^ 17 else 0) +
      (if h.zoneValid then 2 ^ 18 else 0) + (if h.zoneTrunc then 2 ^ 19 else 0)) ++
    leBytes 4 h.runs ++ leBytes 4 h.length ++ leBytes 8 h.dict ++ leBytes 8 h.heapBase ++ leBytes 8 h.forBase ++ z h.zmin ++ z h.zmax ++
    List.replicate 40 0 ++ leBytes 4 h.tableCrc
  b ++ leBytes 4 (crc32c b)

/-! ### Encoding (R67, R41 to R48) -/

/-- Is a value null? -/
def Lit.isNull : Lit → Bool
  | .null => true
  | .dig _ | .str _ => false

/-- Digits of a fixed-width value; zeros at a null row (R39). -/
def Lit.digits (w : Nat) : Lit → Digits
  | .dig d => d
  | .null | .str _ => List.replicate w 0

/-- The bytes of a string value. -/
def Lit.bytes : Lit → Bytes
  | .str b => b
  | .null | .dig _ => []

/-- Heap records of the values longer than 16 bytes, in row order, with each row's offset in digits (R41, R42). -/
def heapImage : List Lit → Nat → Bytes × List Nat
  | [], _ => ([], [])
  | v :: l, off =>
    if v.bytes.length ≤ 16 then
      let (b, o) := heapImage l off
      (b, 0 :: o)
    else
      let r := heapRecord (v.bytes.drop 16)
      let (b, o) := heapImage l (off + r.length)
      (r ++ b, (2 * off) :: o)

/-- Smallest and largest of comparison forms. -/
def zoneOf (forms : List Digits) : Digits × Digits :=
  match forms with
  | [] => ([], [])
  | f :: l => l.foldl (fun a d => (if cmpDigs d a.1 == .lt then d else a.1, if cmpDigs a.2 d == .lt then d else a.2)) (f, f)

/-- Are the run ends what R47 requires for these values, a null row fitting any run? -/
def runsOk (v : List Lit) (ends : List Nat) : Bool :=
  let n := v.length
  let rec go : Nat → List Nat → Bool
    | start, [] => start == n
    | start, e :: l => decide (start ≤ e) && decide (e < n) &&
        (match ((v.drop start).take (e + 1 - start)).filter (fun x => !x.isNull) with
          | [] => true
          | x :: r => r.all (· == x)) && go (e + 1) l
  go 0 ends

/-- The digits of each run: those of its first row that is not null. -/
def runValues (w : Nat) (v : List Lit) : Nat → List Nat → List Digits
  | _, [] => []
  | start, e :: l =>
    (match ((v.drop start).take (e + 1 - start)).find? (fun x => !x.isNull) with
      | some x => x.digits w
      | none => List.replicate w 0) :: runValues w v (e + 1) l

/-- Is the device's choice of a block's layout one the manual allows for these values? -/
def choiceOk (t : ColType) (enc : Nat) (v : List Lit) (codes : List Nat) (ch : BlockChoice) : Bool :=
  ch.da % 256 == 0 && ch.heapDa % 32 == 0 &&
  match enc with
  | 1 => decide (1 ≤ ch.width) && decide (ch.width ≤ 5) && codes.all (fun c => decide (c < 16 ^ ch.width))
  | 2 => runsOk v ch.runs
  | 3 => decide (1 ≤ ch.width) && decide (ch.width ≤ t.width) && decide (ch.forBase < 16 ^ t.width) &&
      v.all (fun x => x.isNull || (decide (ch.forBase ≤ digsNat (x.digits t.width)) &&
        decide (digsNat (x.digits t.width) - ch.forBase < 16 ^ ch.width)))
  | _ => true

/-- A whole block and the bytes of its heap, for values of one type under one encoding; DICT takes codes and the descriptor's DA. -/
def blockEncode (t : ColType) (enc : Nat) (v : List Lit) (codes : List Nat) (dict : Nat) (ch : BlockChoice) : Bytes × Bytes :=
  let n := v.length
  let nulls := (v.filter (·.isNull)).length
  let valid := v.map (fun x => !x.isNull)
  let hasVal := decide (0 < nulls) || ch.validity
  let plainStr := t.isStr && enc == encPlain
  let (heapB, offs) := if plainStr then heapImage v 0 else ([], [])
  let hasHeap := !heapB.isEmpty
  let w := t.width
  let rows : List Digits :=
    if plainStr then (List.zip v offs).map (fun p =>
      let b := p.1.bytes
      hexDigits (bslice (b.take 16) 0 16) ++ natDigs 5 b.length ++ (if hasHeap then natDigs 12 p.2 else []))
    else match enc with
      | 1 => (List.zip v codes).map (fun p => natDigs ch.width (if p.1.isNull then 0 else p.2))
      | 2 => (List.zip (runValues w v 0 ch.runs) ch.runs).map (fun p => p.1 ++ natDigs 3 p.2)
      | 3 => v.map (fun x => natDigs ch.width (if x.isNull then 0 else digsNat (x.digits w) - ch.forBase))
      | _ => v.map (fun x => x.digits w)
  let stored := if plainStr then (if hasHeap then 49 else 37) else match enc with
    | 1 | 3 => ch.width
    | _ => w
  let forms := ((List.zip v (List.range n)).filter (fun p => !p.1.isNull)).map (fun p =>
    if plainStr then hexDigits (bslice (p.1.bytes.take 16) 0 16)
    else if enc = encDict then natDigs ch.width (codes.getD p.2 0) else p.1.digits w)
  let (zl, zh) := zoneOf forms
  let cut (d : Digits) : Digits := let e := d.take 32; e ++ List.replicate (32 - e.length) 0
  let trunc := plainStr || (enc != encDict && decide (32 < w))
  let h0 : Hdr := ⟨t, stored, enc, n, nulls, hasVal, hasHeap, decide (nulls < n), trunc && decide (nulls < n),
    if enc = encRle then ch.runs.length else 0, 0, if enc = encDict then dict else 0, if hasHeap then ch.heapDa else 0,
    if enc = encFor then ch.forBase else 0, cut zl, cut zh, 0⟩
  let planes := (if hasVal then [validityBytes valid] else []) ++
    (List.range h0.storedPlanes).map (fun i => planeBytes h0.planeDigits (planeOf rows i))
  let table := bslice (planes.flatMap (fun p => leBytes 4 (crc32c p))) 0 (h0.tableDigits / 2)
  let h := { h0 with length := h0.size, tableCrc := crc32c table }
  (hdrBytes h ++ planes.flatten ++ table, heapB)

/-! ### Dictionaries (R45) -/

/-- A dictionary descriptor (Table 02-6). -/
def dictBytes (valueType count : Nat) (sorted : Bool) (blocks : List Nat) : Bytes :=
  let b := leBytes 4 (0xD1C7 + 0x10000 + valueType * 2 ^ 24) ++ leBytes 4 (count + (if sorted then 2 ^ 21 else 0)) ++
    leBytes 4 blocks.length ++ leBytes 4 0 ++ blocks.flatMap (leBytes 8)
  b ++ leBytes 4 (crc32c b)

/-- A dictionary descriptor's fields. -/
structure DictDesc where
  ty : Nat
  count : Nat
  sorted : Bool
  blocks : List Nat
  deriving DecidableEq, Repr

/-- Read and check a dictionary descriptor: magic and desc_crc (Table 02-7, order 10). None also when it reads as poisoned. -/
def State.dictRead (s : State) (cl : Option Nat) (da : Nat) : Option DictDesc :=
  let head := s.viewGet cl da 2 16
  let n := bits (word32 head 2) 0 9
  let size := 16 + 8 * n + 4
  let b := s.viewGet cl da (size / 128 + 2) size
  if s.memPoisoned da size || bits (word32 b 0) 0 16 != 0xD1C7 || bits (word32 b 0) 16 8 != 1 ||
      word32 b (4 + 2 * n) != crc32c (bslice b 0 (16 + 8 * n)) then none
  else some ⟨bits (word32 b 0) 24 8, bits (word32 b 1) 0 21, bits (word32 b 1) 21 1 == 1, (List.range n).map (fun i => word64 b (4 + 2 * i) % 2 ^ 46)⟩

/-- Plane i of a block as digits, checked against its entry of the plane check table (R34): none on a mismatch or poison. -/
def State.planeRead (s : State) (cl : Option Nat) (da : Nat) (h : Hdr) (table : Bytes) (i : Nat) : Option Bytes :=
  let n := h.planeLen i / 2
  let b := s.viewGet cl (da + h.planeOff i) (n / 128 + 2) n
  if s.memPoisoned (da + h.planeOff i) n || word32 table i != crc32c b then none else some b

/-- Every value of a PLAIN string block, read and checked whole: how a dictionary's entries are read. -/
def State.blockStrings (s : State) (cl : Option Nat) (da : Nat) : Option (List ColVal) :=
  let hb := s.viewGet cl da 2 128
  let h := hdrRead hb
  if da % 256 != 0 || s.memPoisoned da 128 || (hdrFault hb).isSome || !h.ty.isStr || h.enc != encPlain then none
  else
    let tb := s.viewGet cl (da + h.tableOff) 5 (h.tableDigits / 2)
    if s.memPoisoned (da + h.tableOff) (h.tableDigits / 2) || crc32c tb != h.tableCrc then none
    else
      match (List.range h.stored).mapM (fun i => (s.planeRead cl da h tb (h.stored0 i)).map bytesDigits) with
      | none => none
      | some ps => some ((List.range h.rows).map (fun r =>
          let d := ps.map (fun p => p.getD r 0)
          .str (digsNat ((d.drop 32).take 5)) (hexBytes (d.take 32))
            (if 16 < digsNat ((d.drop 32).take 5) then h.heapBase + digsNat ((d.drop 37).take 12) else 0)))

/-- The entries of a dictionary in code order: none when its descriptor or an entry block fails its checks. -/
def State.dictEntries (s : State) (cl : Option Nat) (da : Nat) : Option (DictDesc × List ColVal) :=
  match s.dictRead cl da with
  | none => none
  | some d => match d.blocks.mapM (s.blockStrings cl) with
    | none => none
    | some l => some (d, l.flatten.take d.count)

end Sys2Proof.Machine
end

