-- ==== Sys2Proof/Machine/Filter.lean ====
section
/-! DEFINITION. Filter terms over column blocks: digit-serial comparison, encodings, strings, zone sets and three-valued combination, as functions of the
planes fetched so far (Scan and Filter). -/

namespace Sys2Proof.Machine

/-- What a task's evaluation still waits for: plane i of scan column c; the reduction of a term's side on a DICT column; a heap compare, a Match Unit
search of a term for a row. -/
inductive Need where
  | plane (c i : Nat)
  | reduce (t side : Nat)
  | heap (t r : Nat)
  | search (t r : Nat)
  deriving DecidableEq, Repr

/-- A value, or everything that can be fetched next toward it. -/
abbrev Ask (α : Type) := Except (List Need) α

/-- Both, asking for what either needs. -/
def ask2 {α β : Type} (a : Ask α) (b : Ask β) : Ask (α × β) :=
  match a, b with
  | .ok x, .ok y => .ok (x, y)
  | .ok _, .error n => .error n
  | .error n, .ok _ => .error n
  | .error n, .error m => .error (n ++ m)

/-- All, asking for what any needs. -/
def askAll {α : Type} : List (Ask α) → Ask (List α)
  | [] => .ok []
  | a :: l => match ask2 a (askAll l) with
    | .ok (x, r) => .ok (x :: r)
    | .error n => .error n

/-! ### Columns -/

/-- A fetched plane of scan column c. -/
def ColScan.plane (k : ColScan) (c i : Nat) : Ask Digits :=
  match mget i k.planes with
  | some d => .ok d
  | none => .error [.plane c i]

/-- Bit r of a validity plane's digits (R40). -/
def validBit (d : Digits) (r : Nat) : Bool := (d.getD (r / 4) 0).getLsbD (r % 4)

/-- Which rows hold a value (R40, R59). -/
def ColScan.valid (k : ColScan) (c : Nat) (h : Hdr) : Ask (List Bool) :=
  if h.validity && decide (0 < h.nulls) then
    match k.plane c 0 with
    | .ok d => .ok ((List.range h.rows).map (validBit d))
    | .error n => .error n
  else .ok (List.replicate h.rows true)

/-- Stored planes [lo, lo + n) of a block. -/
def ColScan.stored (k : ColScan) (c : Nat) (h : Hdr) (lo n : Nat) : Ask (List Digits) :=
  askAll ((List.range n).map (fun i => k.plane c (h.stored0 (lo + i))))

/-- Digit strings row by row from planes. -/
def rowsOf (n : Nat) (ps : List Digits) : List Digits := (List.range n).map (fun r => ps.map (fun p => p.getD r 0))

/-- The run of each row, from the run ends (R47). -/
def runOf (ends : List Nat) (r : Nat) : Nat := (ends.filter (fun e => decide (e < r))).length

/-- Run ends of an RLE block. -/
def ColScan.ends (k : ColScan) (c : Nat) (h : Hdr) : Ask (List Nat) :=
  match k.stored c h h.stored 3 with
  | .ok ps => .ok ((rowsOf h.runs ps).map digsNat)
  | .error n => .error n

/-- Every value of a block, decoded (R66): its validity plane first where it needs one, then every stored plane. A DICT row takes its entry, once the
dictionary has been read. -/
def ColScan.vals (k : ColScan) (c : Nat) (h : Hdr) : Ask (List ColVal) :=
  match k.valid c h with
  | .error n => .error n
  | .ok v => match k.stored c h 0 h.storedPlanes with
    | .error n => .error n
    | .ok ps =>
      let put (r : Nat) (x : ColVal) : ColVal := if v.getD r false then x else .null
      match h.enc with
      | 1 =>
        let ds := k.dict.getD []
        .ok ((rowsOf h.rows ps).zipIdx.map (fun p => put p.2 (ds.getD (digsNat p.1) .null)))
      | 2 =>
        let lanes := rowsOf h.runs ps
        let ends := lanes.map (fun d => digsNat (d.drop h.stored))
        .ok ((List.range h.rows).map (fun r => put r (.dig ((lanes.getD (runOf ends r) []).take h.stored))))
      | 3 => .ok ((rowsOf h.rows ps).zipIdx.map (fun p => put p.2 (.dig (natDigs h.ty.width (h.forBase + digsNat p.1)))))
      | _ =>
        if h.ty.isStr then
          .ok ((rowsOf h.rows ps).zipIdx.map (fun p =>
            let len := digsNat ((p.1.drop 32).take 5)
            put p.2 (.str len (hexBytes (p.1.take 32)) (if 16 < len then h.heapBase + digsNat ((p.1.drop 37).take 12) else 0))))
        else .ok ((rowsOf h.rows ps).zipIdx.map (fun p => put p.2 (.dig p.1)))

/-- A column that a filter reads: values that lie in tile scratch, or a block. -/
inductive Side where
  | vals (t : ColType) (v : List ColVal)
  | blk (c : Nat) (k : ColScan) (h : Hdr)

/-- Column i of a batch as a filter reads it. -/
def Work.side (w : Work) (b : Batch) (i : Nat) : Side :=
  match b.cols[i]? with
  | none => .vals ⟨0, 0, 0⟩ []
  | some col => match col.scan with
    | none => .vals col.ty col.vals
    | some c => match w.cols[c]? with
      | none => .vals col.ty col.vals
      | some k => match k.hdr with
        | some h => .blk c k h
        | none => .vals col.ty col.vals

/-- Type of a side. -/
def Side.ty : Side → ColType
  | .vals t _ => t
  | .blk _ _ h => h.ty

/-- Rows of a side that hold a value. -/
def Side.valid : Side → Ask (List Bool)
  | .vals _ v => .ok (v.map (fun x => x != .null))
  | .blk c k h => k.valid c h

/-- Every value of a side. -/
def Side.all : Side → Ask (List ColVal)
  | .vals _ v => .ok v
  | .blk c k h => k.vals c h

/-- A side as PLAIN planes (R68, R72, R534): value or prefix plane i, lengths and heap DAs by row. -/
structure Planes where
  dig : Nat → Ask Digits
  len : Ask (List Nat)
  heap : Ask (List Nat)

/-- Values as PLAIN planes; a null row's digits are never looked at. -/
def Planes.ofVals (v : List ColVal) : Planes where
  dig i := .ok (v.map (fun x => match x with
    | .dig d => d.getD i 0
    | .str _ p _ => (hexDigits (bslice p 0 16)).getD i 0
    | .null => 0))
  len := .ok (v.map (fun x => match x with | .str n _ _ => n | .dig _ | .null => 0))
  heap := .ok (v.map (fun x => match x with | .str _ _ d => d | .dig _ | .null => 0))

/-- A PLAIN block, or the codes of a DICT block, plane by plane. -/
def Planes.ofBlock (c : Nat) (k : ColScan) (h : Hdr) : Planes where
  dig i := k.plane c (h.stored0 i)
  len := match k.stored c h 32 5 with
    | .ok ps => .ok ((rowsOf h.rows ps).map digsNat)
    | .error n => .error n
  heap := if !h.heap then .ok (List.replicate h.rows 0) else match k.stored c h 37 12 with
    | .ok ps => .ok ((rowsOf h.rows ps).map (fun d => h.heapBase + digsNat d))
    | .error n => .error n

/-! ### Digit-serial comparison (R68, R69) -/

/-- A lane: its row (or run) and its state against each constant, none while undecided. -/
abbrev Lane2 := Nat × List (Option Ordering)

/-- Term kinds of Table 03-2. -/
inductive TermKind where
  | cmp | range | inList
  deriving DecidableEq, Repr

/-- Is a RANGE decided by the states of its bounds? -/
def rangeDecided (lo hi : Option Ordering) : Bool :=
  lo == some .lt || hi == some .gt || (lo.isSome && hi.isSome)

/-- Are states taken in pairs all decided as RANGE bounds? -/
def pairsDecided : List (Option Ordering) → Bool
  | lo :: hi :: l => rangeDecided lo hi && pairsDecided l
  | _ => true

/-- Is a lane decided (Table 03-2)? -/
def TermKind.decided (k : TermKind) (st : List (Option Ordering)) : Bool :=
  match k with
  | .range => pairsDecided st
  | .cmp | .inList => st.all (·.isSome)

/-- Compare one digit with a constant's: the first difference decides. -/
def stepState (x : Digit) (o : Option Ordering) (c : Digit) : Option Ordering :=
  match o with
  | some r => some r
  | none => if x.toNat < c.toNat then some .lt else if c.toNat < x.toNat then some .gt else none

/-- The loop of R68 from plane i on: plane i is asked for only while a lane is undecided. -/
def serial (kind : TermKind) (plane : Nat → Ask Digits) (cs : Nat → Ask (Nat → List Digit)) : Nat → Nat → List Lane2 → Ask (List Lane2)
  | 0, _, ls => .ok ls
  | f + 1, i, ls =>
    if ls.all (fun l => kind.decided l.2) then .ok ls
    else match ask2 (plane i) (cs i) with
      | .error n => .error n
      | .ok (d, c) => serial kind plane cs f (i + 1) (ls.map (fun l =>
          (l.1, (List.zip l.2 (c l.1)).map (fun p => stepState (d.getD l.1 0) p.1 p.2))))

/-- Constants as digits by plane. -/
def constDigits (ds : List Digits) (i : Nat) : Ask (Nat → List Digit) := .ok (fun _ => ds.map (fun d => d.getD i 0))

/-- The other column as a constant that varies by row. -/
def otherDigits (p : Planes) (i : Nat) : Ask (Nat → List Digit) :=
  match p.dig i with
  | .ok d => .ok (fun r => [d.getD r 0])
  | .error n => .error n

/-- Lanes of rows, all undecided. -/
def freshLanes (rows : List Nat) (n : Nat) : List Lane2 := rows.map (fun r => (r, List.replicate n none))

/-- What remains undecided at the end is EQUAL (R68). -/
def settleLanes (ls : List Lane2) : List (Nat × List Ordering) := ls.map (fun l => (l.1, l.2.map (fun o => o.getD .eq)))

/-- The key of a heap compare's outcome: term, row, constant. -/
def heapKey (t r k : Nat) : Nat := (t * 4096 + r) * 16 + k

/-- Strings after the prefix planes (R72): lengths, then the heap compare where either string is longer than 16 bytes. `clen` is each constant's length for
a row. -/
def stringLanes (kind : TermKind) (p : Planes) (clen : Ask (Nat → List Nat)) (refs : List Planes) (heap : Map Ordering) (t : Nat) (ls : List Lane2) : Ask (List Lane2) :=
  if ls.all (fun l => kind.decided l.2) then .ok ls
  else match ask2 p.len clen with
    | .error n => .error n
    | .ok (len, cl) =>
      let short (l : Lane2) : Lane2 :=
        if kind.decided l.2 then l else
        (l.1, (List.zip l.2 (cl l.1)).map (fun q => match q.1 with
          | some o => some o
          | none => if len.getD l.1 0 ≤ 16 && q.2 ≤ 16 then some (compare (len.getD l.1 0) q.2) else none))
      let ls := ls.map short
      let isHeap (l : Lane2) : Bool := l.2.any (·.isNone) && !kind.decided l.2
      if !ls.any isHeap then .ok ls
      else match askAll (refs.map (·.heap)) with
        | .error n => .error n
        | .ok _ => askAll (ls.map (fun l =>
            if !isHeap l then .ok l
            else
              let st := l.2.zipIdx.map (fun q => match q.1 with
                | some o => some o
                | none => mget (heapKey t l.1 q.2) heap)
              if st.all (·.isSome) then .ok (l.1, st) else .error [.heap t l.1]))

/-! ### Terms -/

/-- A constant's comparison form (R68, R72). -/
def Lit.form : Lit → Digits
  | .dig d => d
  | .str b => hexDigits (bslice (b.take 16) 0 16)
  | .null => []

/-- Length of a string constant. -/
def Lit.len : Lit → Nat
  | .str b => b.length
  | .dig _ | .null => 0

/-- The value of constant k of a term: the constant pool's, or the one bound to its parameter slot. -/
def termLit (p : Plan) (binds : Map Bound) (t : FTerm) (k : Nat) : Lit :=
  if t.param then match mget (t.first + k) binds with
    | some (.value v) => v
    | some (.table _) | none => .null
  else match p.consts[t.first + k]? with
    | some c => c.lit
    | none => .null

/-- Every constant of a term. -/
def termLits (p : Plan) (binds : Map Bound) (t : FTerm) : List Lit := (List.range t.count).map (termLit p binds t)

/-- The truth of a comparison (R70). -/
def cmpTruth (op : Nat) (o : Ordering) : Bool :=
  match op with
  | 0 => o == .eq
  | 1 => o != .eq
  | 2 => o == .lt
  | 3 => o != .gt
  | 4 => o == .gt
  | _ => o != .lt

/-- The truth of a range (R70). -/
def rangeTruth (loIncl hiIncl : Bool) (lo hi : Ordering) : Bool :=
  (lo == .gt || (loIncl && lo == .eq)) && (hi == .lt || (hiIncl && hi == .eq))

/-- The truth of a lane's states: a comparison, a range, or any of an IN list. -/
def statesTruth (op : Nat) (loIncl hiIncl : Bool) (st : List Ordering) : Bool :=
  if op = 6 then rangeTruth loIncl hiIncl (st.getD 0 .eq) (st.getD 1 .eq)
  else if op = 7 then st.any (· == .eq)
  else cmpTruth op (st.getD 0 .eq)

/-- The kind of Table 03-2 of an operation. -/
def termKind (op : Nat) : TermKind := if op = 6 then .range else if op = 7 then .inList else .cmp

/-- Truths by row from lanes, false elsewhere. -/
def truthRows (n : Nat) (ls : List (Nat × Bool)) : List Bool := (List.range n).map (fun r => ls.any (fun l => l.1 == r && l.2))

/-- Rows at which a list is true. -/
def rowsAt (l : List Bool) : List Nat := (l.zipIdx.filter (·.1)).map (·.2)

/-- FOR constants (R74): each rebased, or decided without a plane. -/
def forConst (h : Hdr) (c : Lit) : Option Ordering × Digits :=
  let n := digsNat c.form
  if n < h.forBase then (some .gt, [])
  else if 16 ^ h.stored - 1 < n - h.forBase then (some .lt, [])
  else (none, natDigs h.stored (n - h.forBase))

/-- Truths of a term with constants over rows that are live and valid. -/
def termTruth (w : Work) (ti op : Nat) (loIncl hiIncl : Bool) (cs : List Lit) (sd : Side) (n : Nat) (act : List Nat) : Ask (List Bool) :=
  let kind := termKind op
  let truths (ls : List Lane2) : List (Nat × Bool) := (settleLanes ls).map (fun l => (l.1, statesTruth op loIncl hiIncl l.2))
  let plain (p : Planes) (str : Bool) (width : Nat) : Ask (List Bool) :=
    match serial kind p.dig (constDigits (cs.map Lit.form)) (if str then 32 else width) 0 (freshLanes act cs.length) with
    | .error e => .error e
    | .ok ls =>
      if !str then .ok (truthRows n (truths ls))
      else match stringLanes kind p (.ok (fun _ => cs.map Lit.len)) [p] w.heap ti ls with
        | .error e => .error e
        | .ok ls => .ok (truthRows n (truths ls))
  if act.isEmpty then .ok (List.replicate n false)
  else match sd with
  | .vals t v => plain (Planes.ofVals v) t.isStr t.width
  | .blk c k h =>
    match h.enc with
    | 1 => match mget (2 * ti) w.codes with
      | some (.ranges l) =>
        let ds := l.flatMap (fun r => [natDigs h.stored r.1, natDigs h.stored r.2])
        if l.isEmpty then .ok (List.replicate n false)
        else match serial .range (Planes.ofBlock c k h).dig (constDigits ds) h.stored 0 (freshLanes act ds.length) with
          | .error e => .error e
          | .ok ls => .ok (truthRows n ((settleLanes ls).map (fun s =>
              (s.1, (List.range l.length).any (fun j => rangeTruth true true (s.2.getD (2 * j) .eq) (s.2.getD (2 * j + 1) .eq))))))
      | some (.bitmap l) => match k.stored c h 0 h.stored with
        | .error e => .error e
        | .ok ps =>
          let codes := (rowsOf h.rows ps).map digsNat
          .ok (truthRows n (act.map (fun r => (r, l.getD (codes.getD r 0) false))))
      | some .direct | some .entries | none => .error [.reduce ti 0]
    | 2 => match k.ends c h with
      | .error e => .error e
      | .ok ends =>
        let runs := (act.map (runOf ends)).eraseDups
        match serial kind (fun i => k.plane c (h.stored0 i)) (constDigits (cs.map Lit.form)) h.stored 0 (freshLanes runs cs.length) with
        | .error e => .error e
        | .ok ls =>
          let t := truths ls
          .ok (truthRows n (act.map (fun r => (r, t.any (fun x => x.1 == runOf ends r && x.2)))))
    | 3 =>
      let fc := cs.map (forConst h)
      let start : List Lane2 := act.map (fun r => (r, fc.map (·.1)))
      match serial kind (fun i => k.plane c (h.stored0 i)) (constDigits (fc.map (·.2))) h.stored 0 start with
      | .error e => .error e
      | .ok ls => .ok (truthRows n (truths ls))
    | _ => plain (Planes.ofBlock c k h) h.ty.isStr h.stored

/-- A side of a column-with-column term as PLAIN planes (R534): a FOR, RLE or DICT block is decoded first, except two DICT blocks of one sorted
dictionary, whose codes are compared. -/
def Side.planes (sd : Side) (w : Work) (ti side : Nat) : Ask Planes :=
  let decoded (c : Nat) (k : ColScan) (h : Hdr) : Ask Planes := match k.vals c h with
    | .ok v => .ok (Planes.ofVals v)
    | .error e => .error e
  match sd with
  | .vals _ v => .ok (Planes.ofVals v)
  | .blk c k h => match h.enc with
    | 0 => .ok (Planes.ofBlock c k h)
    | 1 => match mget (2 * ti + side) w.codes with
      | some .direct => .ok (Planes.ofBlock c k h)
      | some .entries => decoded c k h
      | some (.ranges _) | some (.bitmap _) | none => .error [.reduce ti side]
    | _ => decoded c k h

/-- Truths of a column-with-column term over rows live and valid in both columns. -/
def colTruth (w : Work) (ti op : Nat) (a b : Side) (n : Nat) (act : List Nat) : Ask (List Bool) :=
  if act.isEmpty then .ok (List.replicate n false)
  else match ask2 (a.planes w ti 0) (b.planes w ti 1) with
    | .error e => .error e
    | .ok (p, q) =>
      let direct := mget (2 * ti) w.codes == some .direct
      let str := a.ty.isStr && !direct
      let width := if direct then (match a with | .blk _ _ h => h.stored | .vals t _ => t.width) else if str then 32 else a.ty.width
      match serial .cmp p.dig (otherDigits q) width 0 (freshLanes act 1) with
      | .error e => .error e
      | .ok ls =>
        let fin (ls : List Lane2) : List Bool := truthRows n ((settleLanes ls).map (fun l => (l.1, cmpTruth op (l.2.getD 0 .eq))))
        if !str then .ok (fin ls)
        else
          let clen : Ask (Nat → List Nat) := match q.len with
            | .ok l => .ok (fun r => [l.getD r 0])
            | .error e => .error e
          match stringLanes .cmp p clen [p, q] w.heap ti ls with
          | .error e => .error e
          | .ok ls => .ok (fin ls)

/-- Truths of a term that the Match Unit searches, once every value plane is there (R81): one search for each row. -/
def searchTruth (w : Work) (ti : Nat) (sd : Side) (n : Nat) (act : List Nat) : Ask (List Bool) :=
  if act.isEmpty then .ok (List.replicate n false)
  else match sd.all with
    | .error e => .error e
    | .ok _ => match askAll (act.map (fun r => match mget (ti * 4096 + r) w.search with
        | some (.hit _) => .ok (r, true)
        | some .miss => .ok (r, false)
        | some .dropped => .ok (r, false)
        | some (.cand _) => .error [.heap ti r]
        | some (.step _) | none => .error [.search ti r])) with
      | .ok l => .ok (truthRows n l)
      | .error e => .error e

/-! ### Zone sets (R78, R533, Table 03-3) -/

/-- A subset of {T, F, U}. -/
structure VSet where
  t : Bool
  f : Bool
  u : Bool
  deriving DecidableEq, Repr

def VSet.tf : VSet := ⟨true, true, false⟩
def VSet.onlyT : VSet := ⟨true, false, false⟩
def VSet.onlyF : VSet := ⟨false, true, false⟩
def VSet.onlyU : VSet := ⟨false, false, true⟩

/-- Truth values of three-valued logic, as (t, u) (R70, R82). -/
abbrev Tri := Bool × Bool

/-- AND, OR and NOT of R82. -/
def triAnd (a b : Tri) : Tri :=
  let fa := !a.1 && !a.2
  let fb := !b.1 && !b.2
  (a.1 && b.1, (a.2 || b.2) && !fa && !fb)
def triOr (a b : Tri) : Tri := (a.1 || b.1, (a.2 || b.2) && !(a.1 || b.1))
def triNot (a : Tri) : Tri := (!a.1 && !a.2, a.2)

/-- The members of a value set. -/
def VSet.toList (s : VSet) : List Tri :=
  (if s.t then [(true, false)] else []) ++ (if s.f then [(false, false)] else []) ++ (if s.u then [(false, true)] else [])
/-- The value set with given members. -/
def VSet.ofList (l : List Tri) : VSet := ⟨l.contains (true, false), l.contains (false, false), l.contains (false, true)⟩

/-- A postfix program over a stack (R82): step codes of Table 08-7. -/
def runSteps {α : Type} (term : Nat → α) (and or : α → α → α) (not : α → α) : List Nat → List α → Option α
  | [], [x] => some x
  | [], _ => none
  | s :: l, st =>
    match s / 64, st with
    | 0, st => runSteps term and or not l (term (s % 64) :: st)
    | 1, b :: a :: st => runSteps term and or not l (and a b :: st)
    | 2, b :: a :: st => runSteps term and or not l (or a b :: st)
    | 3, a :: st => runSteps term and or not l (not a :: st)
    | _, _ => none

/-- Is the program a pure conjunction of its `n` terms (R83)? -/
def pureAnd (n : Nat) (steps : List Nat) : Bool := steps.all (fun s => decide (s / 64 ≤ 1)) && (List.range n).all steps.contains

/-- Order of zone digits. -/
def zlt (a b : Digits) : Bool := cmpDigs a b == .lt
def zle (a b : Digits) : Bool := cmpDigs a b != .gt

/-- The non-null part that Table 03-3 gives a comparison with a constant cut to 32 digits. -/
def zoneCmp (op : Nat) (cz lo hi : Digits) (trunc : Bool) : VSet :=
  let pick (f t : Bool) : VSet := if f then .onlyF else if t then .onlyT else .tf
  match op with
  | 0 => pick (zlt cz lo || zlt hi cz) (!trunc && lo == hi && lo == cz)
  | 1 => pick (!trunc && lo == hi && lo == cz) (zlt cz lo || zlt hi cz)
  | 2 => pick (if trunc then zlt cz lo else zle cz lo) (zlt hi cz)
  | 3 => pick (zlt cz lo) (if trunc then zlt hi cz else zle hi cz)
  | 4 => pick (if trunc then zlt hi cz else zle hi cz) (zlt cz lo)
  | _ => pick (zlt hi cz) (if trunc then zlt cz lo else zle cz lo)

/-- A RANGE from the outcomes of its two tests. -/
def zoneBoth (a b : VSet) : VSet :=
  if a == .onlyF || b == .onlyF then .onlyF else if a == .onlyT && b == .onlyT then .onlyT else .tf

/-- A constant's 32 zone digits. -/
def zoneCut (d : Digits) : Digits := let e := d.take 32; e ++ List.replicate (32 - e.length) 0

/-- The non-null part of a term with non-null constants on a block. -/
def zonePart (w : Work) (zoneEn : Bool) (ti op : Nat) (loIncl hiIncl : Bool) (cs : List Lit) (h : Hdr) : VSet :=
  let z (c : Lit) : Digits := zoneCut c.form
  let test (o : Nat) (c : Digits) : VSet := zoneCmp o c h.zmin h.zmax h.zoneTrunc
  if !zoneEn || !h.zoneValid then .tf
  else if h.enc = encDict then match mget (2 * ti) w.codes with
    | some (.ranges l) =>
      let parts := l.map (fun r => zoneBoth (test 5 (zoneCut (natDigs h.stored r.1))) (test 3 (zoneCut (natDigs h.stored r.2))))
      if parts.all (· == .onlyF) then .onlyF
      else if op != 7 && parts.any (· == .onlyT) then .onlyT else .tf
    | some (.bitmap _) | some .direct | some .entries | none => .tf
  else match op with
    | 6 => match cs with
      | [a, b] => zoneBoth (test (if loIncl then 5 else 4) (z a)) (test (if hiIncl then 3 else 2) (z b))
      | _ => .tf
    | 7 => if cs.all (fun c => test 0 (z c) == .onlyF) then .onlyF else .tf
    | _ => match cs with
      | c :: _ => test op (z c)
      | [] => .tf

/-- The comparison that a RANGE with one null bound leaves, and its constant (R533). -/
def halfRange (t : FTerm) (lits : List Lit) : Nat × Lit :=
  match lits with
  | [.null, b] => (if t.hiIncl then 3 else 2, b)
  | a :: _ => (if t.loIncl then 5 else 4, a)
  | [] => (0, .null)

/-- A term's non-null part and its whole value set on the sides it reads (R78, R533). A term on a column produced earlier in the fragment has no zone. -/
def termSets (w : Work) (zoneEn : Bool) (p : Plan) (binds : Map Bound) (ti : Nat) (t : FTerm) (a b : Side) : VSet × VSet :=
  match a with
  | .vals _ _ => (.tf, ⟨true, true, true⟩)
  | .blk _ _ h =>
    let allNull := h.nulls == h.rows
    let withU (s : VSet) : VSet := { s with u := s.u || decide (0 < h.nulls) }
    if t.op = 8 || t.op = 9 then
      let s : VSet := if h.nulls = 0 then (if t.op = 8 then .onlyF else .onlyT)
        else if allNull then (if t.op = 8 then .onlyT else .onlyF) else .tf
      (s, s)
    else if t.colcol then match b with
      | .vals _ _ => (.tf, ⟨true, true, true⟩)
      | .blk _ _ g =>
        if allNull || g.nulls == g.rows then (.onlyU, .onlyU)
        else (.tf, ⟨true, true, decide (0 < h.nulls) || decide (0 < g.nulls)⟩)
    else if allNull then (.onlyU, .onlyU)
    else if t.op = 10 || t.op = 11 then (.tf, withU .tf)
    else
      let lits := termLits p binds t
      let nn := lits.filter (fun l => !l.isNull)
      let part : VSet :=
        if nn.length = lits.length then zonePart w zoneEn ti t.op t.loIncl t.hiIncl lits h
        else if nn.isEmpty || decide (t.op < 6) then .onlyU
        else if t.op = 6 then
          let (o, c) := halfRange t lits
          .ofList ((zonePart w zoneEn ti o false false [c] h).toList.map (fun x => triAnd x (false, true)))
        else
          let q := zonePart w zoneEn ti 7 false false nn h
          ⟨q.t, false, q.f⟩
      (part, withU part)

/-! ### A whole filter -/

/-- What a filter evaluates over: its plan, the bindings, and the tile's limits. -/
structure FilterCtx where
  plan : Plan
  binds : Map Bound
  ins : List Nat
  terms : List FTerm
  steps : List Nat
  zoneEn : Bool
  lanes : Nat

/-- The sides of a term. -/
def FilterCtx.sides (x : FilterCtx) (w : Work) (b : Batch) (t : FTerm) : Side × Side :=
  (w.side b (x.ins.getD t.col 0), w.side b (x.ins.getD t.col2 0))

/-- Does a term go to the Match Unit (Table 03-4)? A DICT column's term is reduced instead (R76). -/
def FilterCtx.searched (x : FilterCtx) (t : FTerm) (a : Side) : Bool :=
  let dict := match a with | .blk _ _ h => h.enc == encDict | .vals _ _ => false
  !dict && (t.op == 10 || t.op == 11 || (t.op == 7 && decide (x.lanes < ((termLits x.plan x.binds t).filter (fun l => !l.isNull)).length)))

/-- The term's result by row, for the rows of `live` (R70, R79, R533). -/
def FilterCtx.term (x : FilterCtx) (w : Work) (b : Batch) (ti : Nat) (t : FTerm) (live : List Bool) : Ask (List Tri) :=
  let (sa, sb) := x.sides w b t
  let n := b.rows
  let (part, set) := termSets w x.zoneEn x.plan x.binds ti t sa sb
  let validity : Ask (List Bool) := if t.colcol then (match ask2 sa.valid sb.valid with
      | .ok (u, v) => .ok (List.zipWith (fun a b => a && b) u v)
      | .error e => .error e) else sa.valid
  let all (v : Tri) : List Tri := live.map (fun l => if l then v else (false, false))
  let blk := match sa with | .blk _ _ _ => true | .vals _ _ => false
  if t.op = 8 || t.op = 9 then
    if set == .onlyT then .ok (all (true, false)) else if set == .onlyF then .ok (all (false, false))
    else match sa.valid with
      | .error e => .error e
      | .ok v => .ok (List.zipWith (fun l x => (l && (x == (t.op == 9)), false)) live v)
  else if blk && part == .onlyU then .ok (all (false, true))
  else if blk && !(part.t && part.f) && !(part.u && (part.t || part.f)) then
    if !set.u then .ok (all (part.t, false))
    else match validity with
      | .error e => .error e
      | .ok v => .ok (List.zipWith (fun l x => if !l then (false, false) else if x then (part.t, false) else (false, true)) live v)
  else
    let lits := if t.op = 10 || t.op = 11 || t.colcol then [] else termLits x.plan x.binds t
    let nn := lits.filter (fun l => !l.isNull)
    let hasNull := decide (nn.length < lits.length)
    if hasNull && (nn.isEmpty || decide (t.op < 6)) then .ok (all (false, true))
    else match validity with
      | .error e => .error e
      | .ok v =>
        let act := rowsAt (List.zipWith (fun l x => l && x) live v)
        let (op, cs) := if hasNull && t.op = 6 then (let (o, c) := halfRange t lits; (o, [c])) else (t.op, nn)
        let truth : Ask (List Bool) :=
          if t.colcol then colTruth w ti t.op sa sb n act
          else if x.searched t sa then searchTruth w ti sa n act
          else termTruth w ti op t.loIncl t.hiIncl cs sa n act
        match truth with
        | .error e => .error e
        | .ok tr =>
          let base : List Tri := (List.zip live (List.zip v tr)).map (fun q =>
            if !q.1 then (false, false) else if q.2.1 then (q.2.2, false) else (false, true))
          if hasNull && t.op = 6 then .ok (base.map (fun a => triAnd a (false, true)))
          else if hasNull then .ok ((List.zip live base).map (fun q => (q.2.1, q.1 && !q.2.1)))
          else .ok base

/-- Terms in descriptor order, each over the rows the earlier ones left TRUE (R83). -/
def FilterCtx.conj (x : FilterCtx) (w : Work) (b : Batch) : List (FTerm × Nat) → List Bool → Ask (List Bool)
  | [], live => .ok live
  | (t, ti) :: l, live => match x.term w b ti t live with
    | .error e => .error e
    | .ok r => x.conj w b l (List.zipWith (fun a y => a && y.1) live r)

/-- Are the DICT terms that the zone test needs reduced (R78)? The reductions still missing. -/
def FilterCtx.unreduced (x : FilterCtx) (w : Work) (b : Batch) : List Need :=
  x.terms.zipIdx.flatMap (fun q =>
    let (sa, sb) := x.sides w b q.1
    let one (sd : Side) (side : Nat) : List Need := match sd with
      | .blk _ _ h => if h.enc == encDict && !mhas (2 * q.2 + side) w.codes then [.reduce q.2 side] else []
      | .vals _ _ => []
    if q.1.op = 8 || q.1.op = 9 then [] else one sa 0 ++ (if q.1.colcol then one sb 1 else []))

/-- Does the zone test leave TRUE possible (R79)? -/
def FilterCtx.zonePass (x : FilterCtx) (w : Work) (b : Batch) : Bool :=
  let sets := x.terms.zipIdx.map (fun q => let (sa, sb) := x.sides w b q.1; (termSets w x.zoneEn x.plan x.binds q.2 q.1 sa sb).2)
  let lift (f : Tri → Tri → Tri) (a c : VSet) : VSet := .ofList (a.toList.flatMap (fun y => c.toList.map (f y)))
  match runSteps (fun i => sets.getD i ⟨true, true, true⟩) (lift triAnd) (lift triOr) (fun a => .ofList (a.toList.map triNot)) x.steps [] with
  | some s => s.t
  | none => false

/-- A filter's output selection, or what it waits for; an empty selection at once when the zone test skips the batch (R79, R82, R84). -/
def FilterCtx.eval (x : FilterCtx) (w : Work) (b : Batch) : Ask (List Bool) :=
  if !x.zonePass w b then .ok (List.replicate b.rows false)
  else
    let un := x.unreduced w b
    if !un.isEmpty then .error un
    else if pureAnd x.terms.length x.steps then x.conj w b x.terms.zipIdx b.sel
    else match askAll (x.terms.zipIdx.map (fun q => x.term w b q.2 q.1 b.sel)) with
      | .error e => .error e
      | .ok res => .ok ((List.range b.rows).map (fun r =>
          b.live r && (match runSteps (fun i => (res.getD i []).getD r (false, false)) triAnd triOr triNot x.steps [] with
            | some v => v.1
            | none => false)))

end Sys2Proof.Machine
end

