-- ==== Sys2Proof/Machine/PlanImage.lean ====
section
/-! DEFINITION. Plan images: parsing and the checks of Table 08-11 (Plans, Pipelines and Services). -/

namespace Sys2Proof.Machine

/-- Why a plan fails: the order number of the check, the detail code, the index concerned, and the status (R222, R536). -/
structure PlanErr where
  order : Nat
  detail : Nat
  index : Nat
  status : Nat
  deriving DecidableEq, Repr

/-- The result word of a failed PLAN_LOAD (R222); a failed binding of R536 replaces the order by 5. -/
def PlanErr.word (e : PlanErr) (order : Nat) : Nat := order + 256 * e.detail + 65536 * e.index

/-- A failing check with no detail. -/
def perr (order index status : Nat) : PlanErr := ⟨order, 0, index, status⟩

/-- No index applies. -/
def noIndex : Nat := 0xFFFF

/-! ### Regions (R211, Table 08-3) -/

/-- Data bytes of a constant of a type and a length, padded to 8 (Table 08-9). -/
def constPad (code len : Nat) : Nat := ((if code = tUtf8 || code = tBinary then len else (len + 1) / 2) + 7) / 8 * 8

/-- Length in bytes of a constant-pool entry whose first two words are `w`; a null has no data (R219). -/
def constLen (w : Nat) : Nat := 8 + (if bits w 24 1 = 1 then 0 else constPad (w % 256) (bits w 32 17))

/-- Byte offsets at which `n` constants start, and the end, from `off`; none when an entry leaves the image. -/
def constWalk (img : Bytes) : Nat → Nat → Option (List Nat × Nat)
  | 0, off => some ([], off)
  | n + 1, off =>
    if img.length < off + 8 then none
    else
      let w := leNat (bslice img off 8)
      match constWalk img n (off + constLen w) with
      | some (l, e) => some (off :: l, e)
      | none => none

/-- Byte offsets at which `n` operator descriptors start, and the end, from `off`. -/
def opWalk (img : Bytes) : Nat → Nat → Option (List Nat × Nat)
  | 0, off => some ([], off)
  | n + 1, off =>
    if img.length < off + 4 then none
    else match opWalk img n (off + 4 * bits (leNat (bslice img off 4)) 8 12) with
      | some (l, e) => some (off :: l, e)
      | none => none

/-- The header fields of an image. -/
structure PlanHead where
  pipelines : Nat
  frags : Nat
  ops : Nat
  edges : Nat
  consts : Nat
  params : Nat
  ordered : Bool
  off : List Nat
  blobBytes : Nat
  deriving DecidableEq, Repr

/-- The header of an image. -/
def planHead (b : Bytes) : PlanHead :=
  let w := word32 b
  ⟨bits (w 2) 0 9, bits (w 2) 9 11, bits (w 3) 0 13, bits (w 3) 13 14, bits (w 4) 0 16, bits (w 4) 16 9, bits (w 5) 0 1 == 1,
   (List.range 6).map (fun i => w (6 + i)), w 12⟩

/-- Do two regions (offset, end) overlap? An empty region overlaps none. -/
def rangesMeet (a b : Nat × Nat) : Bool := decide (a.1 < a.2) && decide (b.1 < b.2) && decide (a.1 < b.2) && decide (b.1 < a.2)

/-- Is no element of the list related to a later one? -/
def pairwiseNot {α : Type} (f : α → α → Bool) : List α → Bool
  | [] => true
  | a :: l => l.all (fun b => !f a b) && pairwiseNot f l

/-! ### Fragments, edges, constants, parameters -/

/-- A fragment entry with what check 4 asks of it alone. -/
def fragRead (h : PlanHead) (b : Bytes) : Option Frag :=
  let w := word32 b
  let n := bits (w 1) 0 4
  let kinds := (List.range n).map (fun i => bits (w 1) (4 + 2 * i) 2)
  let fence := bits (w 0) 30 1 = 1
  let ok := bits (w 0) 31 1 == 0 && rz (w 1) 24 8 && w 2 == 0 && w 3 == 0 && decide (1 ≤ bits (w 0) 12 6) && decide (bits (w 0) 12 6 ≤ 32) &&
    decide (bits (w 0) 18 8 < h.pipelines) && decide (1 ≤ n) && decide (n ≤ 8) && kinds.all (· != 3) && bits (w 1) (4 + 2 * n) (16 - 2 * n) == 0 &&
    decide (bits (w 0) 0 12 + bits (w 0) 12 6 ≤ h.ops) &&
    (if fence then !kinds.contains 0 && kinds.contains 1 else (kinds.filter (· == 0)).length == 1)
  if ok then some ⟨bits (w 0) 0 12, bits (w 0) 12 6, bits (w 0) 18 8, bits (w 0) 26 4, fence, kinds, bits (w 1) 20 4⟩ else none

/-- An edge entry. -/
def edgeRead (b : Bytes) : Edge :=
  let w := word32 b
  ⟨bits (w 0) 0 12, bits (w 0) 12 12, bits (w 0) 24 3, bits (w 0) 27 2, bits (w 0) 29 2, bits (w 1) 0 9⟩

/-- A constant-pool entry, or none where check 6 rejects it. -/
def constRead (b : Bytes) : Option Const :=
  let w := word32 b
  let t : ColType := ⟨bits (w 0) 0 8, bits (w 0) 8 8, bits (w 0) 16 8⟩
  let null := bits (w 0) 24 1 = 1
  let len := bits (w 1) 0 17
  let d := (bytesDigits (b.drop 8)).take len
  if !t.legal || !rz (w 0) 25 7 || !rz (w 1) 17 15 then none
  else if null then (if len = 0 then some ⟨t, .null⟩ else none)
  else if t.isStr then (if len ≤ 65536 then some ⟨t, .str (bslice b 8 len)⟩ else none)
  else if len = t.width && storedLegal t d then some ⟨t, .dig d⟩ else none

/-- A parameter slot, or none where check 6 rejects it. -/
def paramRead (b : Bytes) : Option Param :=
  let w := word32 b
  let t := descRead (w 0)
  let table := bits (w 0) 25 1 = 1
  let len := bits (w 1) 0 17
  if !rz (w 0) 26 6 || !rz (w 1) 17 15 then none
  else if table then (if bits (w 0) 0 24 = 0 && len = 0 then some ⟨t, bits (w 0) 24 1 == 1, true, 0⟩ else none)
  else if t.legal && decide (len ≤ 65536) && (t.isStr || len == 0) then some ⟨t, bits (w 0) 24 1 == 1, false, len⟩ else none

/-! ### Operators (Tables 08-5 to 08-7) -/

/-- Halves packed two per word, lower first. -/
def halves (w : Nat → Nat) (start n : Nat) : List Nat := (List.range n).map (fun i => bits (w (start + i / 2)) (16 * (i % 2)) 16)
/-- Is the padding of a half list 0? -/
def halvesPad (w : Nat → Nat) (start n : Nat) : Bool := n % 2 == 0 || bits (w (start + n / 2)) 16 16 == 0
/-- Bytes packed four per word. -/
def wordBytes (w : Nat → Nat) (start n : Nat) : List Nat := (List.range n).map (fun i => bits (w (start + i / 4)) (8 * (i % 4)) 8)

/-- A filter term (Table 08-7), or none where a field is out of range. -/
def termRead (w0 w1 nIns : Nat) : Option FTerm :=
  let op := bits w0 0 4
  let colcol := bits w0 6 1 = 1
  let param := bits w0 7 1 = 1
  let first := bits w1 0 16
  let count := bits w1 16 15
  let cmp := decide (op ≤ 5)
  let ok := decide (op ≤ 11) && rz w0 20 12 && decide (bits w0 8 6 < nIns) && (!colcol || (cmp && decide (bits w0 14 6 < nIns))) &&
    (if op ≤ 9 then bits w1 31 1 == 0 &&
      (if cmp then (if colcol then count == 0 && first == 0 else count == 1)
       else if op = 6 then count == 2 else if op = 7 then decide (1 ≤ count) && decide (count ≤ 16384) else count == 0)
     else true)
  if ok then some ⟨op, bits w0 4 1 == 1, bits w0 5 1 == 1, colcol, param, bits w0 8 6, bits w0 14 6, if op ≤ 9 then first else w1, count⟩ else none

/-- Do the steps of a filter leave exactly one result, and how deep does the stack grow? -/
def stepDepth : List Nat → Nat → Nat → Option Nat
  | [], d, m => if d = 1 then some m else none
  | x :: l, d, m =>
    match bits x 6 2 with
    | 0 => stepDepth l (d + 1) (max m (d + 1))
    | 3 => if d < 1 then none else stepDepth l d m
    | _ => if d < 2 then none else stepDepth l (d - 1) m

/-- The body of an operator and its length in words, or none where a field is out of range. `b` starts at the body. -/
def bodyRead (kind : Nat) (w : Nat → Nat) (nIns nOuts : Nat) : Option (OpBody × Nat) :=
  match kind with
  | 0x01 =>
    let n := bits (w 0) 16 7
    let cols := halves w 1 n
    if nIns = 0 && rz (w 0) 9 7 && rz (w 0) 23 9 && decide (1 ≤ n) && decide (n ≤ 64) && cols.all (fun c => decide (c < 1024)) && halvesPad w 1 n then
      some (.scan (bits (w 0) 0 9) cols, 1 + (n + 1) / 2) else none
  | 0x02 =>
    let nt := bits (w 0) 0 6
    let ns := bits (w 0) 6 7
    let steps := wordBytes w (1 + 2 * nt) ns
    match (List.range nt).mapM (fun i => termRead (w (1 + 2 * i)) (w (2 + 2 * i)) nIns) with
    | none => none
    | some ts =>
      if rz (w 0) 13 19 && decide (1 ≤ nt) && decide (nt ≤ 32) && decide (1 ≤ ns) && decide (ns ≤ 64) &&
          steps.all (fun x => if bits x 6 2 = 0 then decide (bits x 0 6 < nt) else bits x 0 6 == 0) && (stepDepth steps 0 0).isSome then
        some (.filter ts steps, 1 + 2 * nt + (ns + 3) / 4) else none
  | 0x03 => some (.compute (w 0) (w 1), 2)
  | 0x04 => if 1 ≤ nIns && nIns ≤ 8 then some (.hash, 0) else none
  | 0x05 =>
    let k := bits (w 0) 12 4
    if rz (w 0) 16 16 && decide (bits (w 0) 8 3 ≤ 6) && decide (1 ≤ k) && decide (k ≤ 8) && decide (k ≤ nIns) && nOuts == 0 then
      some (.joinBuild (bits (w 0) 0 8) (bits (w 0) 8 3) (bits (w 0) 11 1 == 1) k (w 1) (w 2), 3) else none
  | 0x06 => if rz (w 0) 11 21 && decide (bits (w 0) 8 3 ≤ 6) && decide (1 ≤ nIns) && decide (nIns ≤ 8) then
      some (.joinProbe (bits (w 0) 0 8) (bits (w 0) 8 3), 1) else none
  | 0x07 =>
    let k := bits (w 0) 0 4
    let n := bits (w 0) 4 6
    let fin := bits (w 0) 10 1 = 1
    let fns := (List.range n).map (fun i => let x := w (2 + 2 * i); (AggFn.mk (bits x 0 3) (bits x 3 6) (bits x 9 2) (descRead (w (3 + 2 * i)))))
    let ok := (List.range n).all (fun i => let x := w (2 + 2 * i); rz x 11 21 && rz (w (3 + 2 * i)) 24 8 && decide (bits x 0 3 ≤ 5) && (bits x 0 3 == 0 || decide (bits x 3 6 < nIns)))
    if rz (w 0) 11 21 && decide (k ≤ 8) && decide (k ≤ nIns) && decide (1 ≤ n) && decide (n ≤ 32) && (fin || k == 0) && ok then
      some (.aggregate k fin (w 1) fns, 2 + 2 * n) else none
  | 0x08 =>
    let k := bits (w 0) 0 4
    if rz (w 0) 20 12 && decide (1 ≤ k) && decide (k ≤ 8) && nIns == k && bits (w 0) (4 + 2 * k) (16 - 2 * k) == 0 then
      some (.sort k (bits (w 0) 4 16) (w 1) (w 2), 3) else none
  | 0x09 =>
    let mode := bits (w 0) 0 2
    let n := bits (w 0) 3 8
    let tiles := bits (w 0) 2 1 = 1
    let d0 := if mode = 1 then 2 else 1
    let dests := wordBytes w d0 n
    let s0 := d0 + (n + 3) / 4
    let splits := if mode = 1 then (List.range (n - 1)).map (fun i => bytesDigits (leBytes 4 (w (s0 + 2 * i)) ++ leBytes 4 (w (s0 + 2 * i + 1)))) else []
    let k := bits (w 1) 0 4
    let keysOk := match mode with
      | 0 => decide (1 ≤ nIns) && decide (nIns ≤ 8)
      | 1 => decide (1 ≤ k) && decide (k ≤ 8) && nIns == k && rz (w 1) 20 12 && bits (w 1) (4 + 2 * k) (16 - 2 * k) == 0
      | _ => nIns == 0
    if rz (w 0) 19 13 && decide (1 ≤ n) && decide (n ≤ 128) && decide (1 ≤ bits (w 0) 12 7) && decide (bits (w 0) 12 7 ≤ 64) && keysOk &&
        dests.all (fun d => decide (d < (if tiles then 128 else 16))) && ascending (splits.map digsNat) && (mode != 3 || n == 1) &&
        (wordBytes w (d0 + n / 4) 4).zipIdx.all (fun p => decide (4 * (n / 4) + p.2 < n) || p.1 == 0 || n % 4 == 0) then
      some (.exchange mode tiles (bits (w 0) 11 1 == 1) (bits (w 0) 12 7) (if mode = 1 then k else 0) (if mode = 1 then bits (w 1) 4 16 else 0) dests splits,
        s0 + 2 * splits.length) else none
  | 0x0A =>
    let fn := bits (w 0) 0 2
    if rz (w 0) 10 22 && nIns == 1 && (fn != 0 || (decide (2 ≤ w 2) && w 2 % 2 == 0)) then some (.matchOp fn (bits (w 0) 2 8) (w 1) (w 2), 3) else none
  | 0x0B => if nOuts = 0 && (List.range nIns).all (fun i => rz (w i) 17 15) then
      some (.result ((List.range nIns).map (fun i => (bits (w i) 0 16, bits (w i) 16 1 == 1))), nIns) else none
  | 0x0C => if rz (w 0) 11 21 && nOuts = 0 && (List.range nIns).all (fun i => rz (w (1 + i)) 2 30) then
      some (.tableWrite (bits (w 0) 0 9) (bits (w 0) 9 1 == 1) (bits (w 0) 10 1 == 1) ((List.range nIns).map (fun i => bits (w (1 + i)) 0 2)), 1 + nIns) else none
  | _ => none

/-- An operator descriptor, or none where a code is reserved, a field is out of range or desc_words does not match the body. -/
def opRead (b : Bytes) : Option PlanOp :=
  let w := word32 b
  let n := bits (w 0) 8 12
  let ni := bits (w 1) 0 7
  let no := bits (w 1) 8 7
  let all := halves w 2 (ni + no)
  let refs := all.take ni
  let outs := all.drop ni
  let ok := rz (w 0) 20 12 && bits (w 1) 7 1 == 0 && rz (w 1) 15 17 && decide (ni ≤ 64) && decide (no ≤ 64) && refs.all (fun x => rz x 6 10) &&
    outs.all (fun x => rz x 6 9) && halvesPad w 2 (ni + no)
  let at_ := 2 + (ni + no + 1) / 2
  if !ok then none
  else match bodyRead (bits (w 0) 0 8) (fun i => w (at_ + i)) ni no with
    | some (body, len) => if at_ + len = n then some ⟨refs, outs.map (fun x => ⟨bits x 15 1 == 1, bits x 0 6⟩), body⟩ else none
    | none => none

/-- Must the operator be the last of its fragment (R214)? -/
def OpBody.mustBeLast : OpBody → Bool
  | .aggregate _ _ _ _ | .sort _ _ _ _ | .joinBuild _ _ _ _ _ _ | .exchange _ _ _ _ _ _ _ _ | .result _ | .tableWrite _ _ _ _ => true
  | .scan _ _ | .filter _ _ | .compute _ _ | .hash | .joinProbe _ _ | .matchOp _ _ _ _ => false

/-- Is the operator a sink? -/
def OpBody.isSink : OpBody → Bool
  | .joinBuild _ _ _ _ _ _ | .result _ | .tableWrite _ _ _ _ => true
  | _ => false

/-- Does the operator have a final phase whatever its data (R214)? A LEFT, INNER or semi probe has one only when partitions spilled. -/
def OpBody.finalPhase : OpBody → Bool
  | .aggregate _ fin _ _ => fin
  | .sort _ _ _ _ => true
  | .joinProbe _ k => k == 2 || k == 3
  | _ => false

/-! ### Vectors and their types (R216) -/

/-- The operators of a fragment. -/
def Plan.opsOf (p : Plan) (f : Frag) : List PlanOp := (p.ops.drop f.first).take f.count
/-- The last operator of a fragment. -/
def Plan.lastOp (p : Plan) (f : Nat) : Option PlanOp := match p.frags[f]? with
  | some fr => p.ops[fr.first + fr.count - 1]?
  | none => none
/-- The build of a join, with its operator index. -/
def Plan.buildOf (p : Plan) (id : Nat) : Option (PlanOp × Nat) :=
  p.ops.zipIdx.find? (fun x => match x.1.body with
    | .joinBuild i _ _ _ _ _ => i == id
    | _ => false)
/-- The fragment that holds an operator. -/
def Plan.fragOf (p : Plan) (op : Nat) : Option Nat :=
  (p.frags.zipIdx.find? (fun x => decide (x.1.first ≤ op) && decide (op < x.1.first + x.1.count))).map (·.2)

/-- The edge that brings a fragment its batches: a batch edge from a fragment, or an EXCH_END fence (R166). -/
def Plan.feeder (p : Plan) (f : Nat) : Option Nat :=
  let onFence := match p.frags[f]? with | some g => g.onFence | none => false
  (p.edges.find? (fun e => e.dst == f && decide (e.src < p.frags.length) && (e.kind == 0 || (e.kind == 1 && e.fence == 1 && onFence)))).map (·.src)

/-- A vector of column types; none where a type is not known yet. -/
abbrev TyVec := List (Option ColType)

/-- Types of the raw accumulators of a keyless AGGREGATE with final = 0 (R535). -/
def rawAggTypes (fn : Nat) (t : Option ColType) : TyVec :=
  let sum : Option ColType := t.map (fun x => if x.isDec then ⟨tWide, 64, x.scale⟩ else ⟨tWide, 39, 0⟩)
  match fn with
  | 0 | 1 => [some ColType.int64]
  | 2 => [sum]
  | 3 => [sum, some ColType.int64]
  | _ => [t]

/-- The type at a position of a vector. -/
def tyAt (v : TyVec) (i : Nat) : Option ColType := (v[i]?).join

/-- Columns that an operator produces (Table 08-6), given its input vector and, for a probe, the build's payload types. -/
def producedTypes (blob : Bytes) (schema : Nat → Option (List ColType)) (build : Nat → TyVec) (v : TyVec) (o : PlanOp) : TyVec :=
  match o.body with
  | .scan p cols => cols.map (fun c => (schema p).bind (fun l => l[c]?))
  | .compute off len => (stripRead ((blob.drop off).take len)).outs.map some
  | .joinProbe id k => if 4 ≤ k then [] else build id
  | .aggregate k fin _ fns =>
    let ty (i : Nat) : Option ColType := (o.ins[i]?).bind (tyAt v)
    if fin then (List.range k).map ty ++ fns.map (fun f => some f.res)
    else fns.flatMap (fun f => rawAggTypes f.fn (ty f.input))
  | .matchOp fn _ _ _ => [some (if fn = 0 then ⟨0x07, 0, 0⟩ else ⟨0x08, 0, 0⟩)]
  | .hash => [some ⟨tUint64, 0, 0⟩]
  | .filter _ _ | .joinBuild _ _ _ _ _ _ | .sort _ _ _ _ | .exchange _ _ _ _ _ _ _ _ | .result _ | .tableWrite _ _ _ _ => []

/-- The output vector of an operator. -/
def outTypes (prod v : TyVec) (o : PlanOp) : TyVec := o.outs.map (fun r => if r.produced then tyAt prod r.idx else tyAt v r.idx)

/-- Types known at this time: the schema of the table each slot is bound to. -/
structure TyEnv where
  schema : Nat → Option (List ColType)

mutual
/-- The input vector of a fragment's first operator. -/
def Plan.inVec (p : Plan) (env : TyEnv) : Nat → Nat → TyVec
  | 0, _ => List.replicate 64 none
  | n + 1, f => match p.feeder f with
    | none => []
    | some g => match p.frags[g]? with
      | none => List.replicate 64 none
      | some fr => p.foldVec env n (p.inVec env n g) (p.opsOf fr)
/-- The vector after operators. -/
def Plan.foldVec (p : Plan) (env : TyEnv) : Nat → TyVec → List PlanOp → TyVec
  | 0, v, _ => v
  | _ + 1, v, [] => v
  | n + 1, v, o :: l => p.foldVec env n (outTypes (producedTypes p.blob env.schema (p.payTypes env n) v o) v o) l
/-- The types of a build's payload columns. -/
def Plan.payTypes (p : Plan) (env : TyEnv) : Nat → Nat → TyVec
  | 0, _ => List.replicate 64 none
  | n + 1, id => match p.buildOf id with
    | none => List.replicate 64 none
    | some (o, i) =>
      let v := p.opVec env n i
      match o.body with
      | .joinBuild _ _ _ k _ _ => (o.ins.drop k).map (tyAt v)
      | _ => []
/-- The input vector of an operator. -/
def Plan.opVec (p : Plan) (env : TyEnv) : Nat → Nat → TyVec
  | 0, _ => List.replicate 64 none
  | n + 1, i => match p.fragOf i with
    | none => []
    | some f => match p.frags[f]? with
      | none => []
      | some fr => p.foldVec env n (p.inVec env n f) ((p.ops.drop fr.first).take (i - fr.first))
end

/-- Fuel that every acyclic plan's vectors need no more than. -/
def Plan.fuel (p : Plan) : Nat := 2 * (p.ops.length + p.frags.length) + 4

/-- The input vector of operator i under what is known. -/
def Plan.vec (p : Plan) (env : TyEnv) (i : Nat) : TyVec := p.opVec env p.fuel i
/-- The type of operator i's input reference k. -/
def Plan.inTy (p : Plan) (env : TyEnv) (i k : Nat) : Option ColType := match p.ops[i]? with
  | some o => (o.ins[k]?).bind (tyAt (p.vec env i))
  | none => none

end Sys2Proof.Machine
end

