-- ==== Sys2Proof/Machine/PlanCheck.lean ====
section
/-! DEFINITION. The checks of Table 08-11 in order, and the deferred checks of R536 (Plans, Pipelines and Services). -/

namespace Sys2Proof.Machine

/-- The first failure of a list of checks on indexed items. -/
def firstErr {α : Type} (f : α → Nat → Option PlanErr) (l : List α) : Option PlanErr := l.zipIdx.findSome? (fun x => f x.1 x.2)

/-- Fail with an error when a condition does not hold. -/
def need (b : Bool) (e : PlanErr) : Option PlanErr := if b then none else some e

/-! ### Checks 1 to 6: the image itself -/

/-- Checks 1 and 2: the header. -/
def headErr (b : Bytes) : Option PlanErr :=
  let w := word32 b
  let n := w 1
  if bits (w 0) 0 16 != 0x9D1A || bits (w 0) 16 8 != 1 || !rz (w 0) 24 8 || !rz (w 2) 20 12 || !rz (w 3) 27 5 || !rz (w 4) 25 7 || !rz (w 5) 1 31 ||
      w 13 != 0 || w 14 != 0 || n < 64 || 16777216 < n || n % 16 != 0 || b.length < n ||
      w 15 != crc32c (bslice b 0 60 ++ (b.take n).drop 64) then some (perr 1 noIndex stPlanMalformed)
  else
    let h := planHead b
    if h.pipelines < 1 || 256 < h.pipelines || h.frags < 1 || 1024 < h.frags || h.ops < 1 || 4096 < h.ops || 8192 < h.edges || 256 < h.params then
      some (perr 2 noIndex stPlanMalformed)
    else none

/-- The parts of an image as its regions give them, after checks 1 to 3: fragment, operator, edge, constant and parameter bytes, and the blob. -/
structure PlanParts where
  frags : List Bytes
  ops : List Bytes
  edges : List Bytes
  consts : List Bytes
  params : List Bytes
  blob : Bytes

/-- Check 3: regions aligned, inside the image from byte 64 on, not overlapping. -/
def planRegions (b : Bytes) : Except PlanErr PlanParts :=
  let h := planHead b
  let off (i : Nat) : Nat := h.off.getD i 0
  match opWalk b h.ops (off 1), constWalk b h.consts (off 3) with
  | some (os, oe), some (cs, ce) =>
    let regions := [(off 0, off 0 + 16 * h.frags), (off 1, oe), (off 2, off 2 + 8 * h.edges), (off 3, ce), (off 4, off 4 + 8 * h.params), (off 5, off 5 + h.blobBytes)]
    if regions.all (fun r => r.1 % 16 == 0 && decide (64 ≤ r.1) && decide (r.2 ≤ b.length)) && pairwiseNot rangesMeet regions then
      let cut (start size n : Nat) : List Bytes := (List.range n).map (fun i => bslice b (start + size * i) size)
      .ok ⟨cut (off 0) 16 h.frags, os.map (fun o => bslice b o (4 * bits (word32 (bslice b o 4) 0) 8 12)), cut (off 2) 8 h.edges,
        cs.map (fun o => bslice b o (constLen (leNat (bslice b o 8)))), cut (off 4) 8 h.params, bslice b (off 5) h.blobBytes⟩
    else .error (perr 3 noIndex stPlanMalformed)
  | _, _ => .error (perr 3 noIndex stPlanMalformed)

/-- Read every element of a list, the first that cannot be read deciding the error. -/
def readAll {α β : Type} (f : α → Option β) (e : Nat → PlanErr) : List α → Nat → Except PlanErr (List β)
  | [], _ => .ok []
  | a :: l, i => match f a with
    | none => .error (e i)
    | some b => match readAll f e l (i + 1) with
      | .error x => .error x
      | .ok r => .ok (b :: r)

/-- Check 4: does every operator lie in exactly one fragment? -/
def coverErr (frags : List Frag) (n : Nat) : Option PlanErr :=
  (List.range n).findSome? (fun i =>
    need ((frags.filter (fun f => decide (f.first ≤ i) && decide (i < f.first + f.count))).length == 1) (perr 4 i stPlanMalformed))

/-- Constants and parameter slots that an operator names exist. -/
def OpBody.refsOk (nc np : Nat) : OpBody → Bool
  | .scan p _ => decide (p < np)
  | .tableWrite p _ _ _ => decide (p < np)
  | .filter ts _ => ts.all (fun t => decide (10 ≤ t.op) || t.count == 0 || decide (t.first + t.count ≤ (if t.param then np else nc)))
  | .matchOp fn _ first n => fn != 0 || decide (first + n ≤ nc)
  | .result cs => cs.all (fun c => decide (c.1 < nc))
  | _ => true

/-- Check 5 for one operator: references within their vectors, and the operators that must be last are last (a SCAN first). -/
def opRefErr (p : Plan) (o : PlanOp) (i : Nat) : Option PlanErr :=
  let v := p.vec ⟨fun _ => none⟩ i
  let prod := match o.body with
    | .compute off len => if p.blob.length < off + len then 16 else (stripRead ((p.blob.drop off).take len)).outs.length
    | _ => (producedTypes p.blob (fun _ => none) (fun id => p.payTypes ⟨fun _ => none⟩ p.fuel id) v o).length
  let last := match p.fragOf i with
    | some f => (match p.frags[f]? with | some fr => i == fr.first + fr.count - 1 | none => true)
    | none => true
  let first := match p.fragOf i with
    | some f => (match p.frags[f]? with | some fr => i == fr.first | none => true)
    | none => true
  let late := o.body.mustBeLast || (match o.body with | .joinProbe _ k => k == 2 || k == 3 | _ => false)
  let isScan := match o.body with | .scan _ _ => true | _ => false
  need (o.ins.all (fun r => decide (r < v.length)) && o.outs.all (fun r => decide (r.idx < (if r.produced then prod else v.length))) &&
    (last || !late) && (first || !isScan)) (perr 5 i stPlanMalformed)

/-- The element counts, before constants are decoded, stand in for the pools in check 5. -/
def Plan.skeleton (h : PlanHead) (frags : List Frag) (ops : List PlanOp) (edges : List Edge) (blob : Bytes) : Plan :=
  ⟨h.pipelines, h.ordered, frags, ops, edges, List.replicate h.consts ⟨ColType.bool, .null⟩, List.replicate h.params ⟨ColType.bool, false, true, 0⟩, blob⟩

/-- Checks 1 to 6: parse the image, or say which check fails first. -/
def planParse (b : Bytes) : Except PlanErr Plan :=
  match headErr b with
  | some e => .error e
  | none =>
    let h := planHead b
    let b := b.take (word32 b 1)
    match planRegions b with
    | .error e => .error e
    | .ok r => match readAll (fragRead h) (fun i => perr 4 i stPlanMalformed) r.frags 0 with
      | .error e => .error e
      | .ok fs => match coverErr fs h.ops with
        | some e => .error e
        | none => match readAll (fun b => (opRead b).filter (fun o => o.body.refsOk h.consts h.params)) (fun i => perr 5 i stPlanMalformed) r.ops 0 with
          | .error e => .error e
          | .ok os =>
            let es := r.edges.map edgeRead
            let p := Plan.skeleton h fs os es r.blob
            match firstErr (opRefErr p) os with
            | some e => .error e
            | none => match readAll constRead (fun i => perr 6 i stTypeMismatch) r.consts 0 with
              | .error e => .error e
              | .ok cs => match readAll paramRead (fun i => perr 6 i stTypeMismatch) r.params 0 with
                | .error e => .error e
                | .ok ps => .ok { p with consts := cs, params := ps }

/-! ### Checks 7 to 11: types, keys, strips, automata and limits, as far as types are known -/

/-- The types and values that a filter term or MATCH names: constants, or parameters with the values bound if any. -/
def Plan.litsOf (p : Plan) (vals : Option (Nat → Lit)) (param : Bool) (first count : Nat) : List (Option ColType × Option Lit × Bool) :=
  (List.range count).map (fun k =>
    if param then
      match p.params[first + k]? with
      | some q => (if q.table then none else some q.ty, vals.map (fun f => f (first + k)), q.nullable)
      | none => (none, none, false)
    else match p.consts[first + k]? with
      | some c => (some c.ty, some c.lit, false)
      | none => (none, none, false))

/-- Can one column be compared with constants of all these types (R71)? -/
def agreeAll : List ColType → Bool
  | a :: b :: l => (if a.isStr then b.isStr else a == b) && agreeAll (b :: l)
  | _ => true

/-- Check 7 of one filter term. A null constant, or a parameter slot that may yet be null, is exempt from the width check (R71). -/
def termErr (p : Plan) (env : TyEnv) (vals : Option (Nat → Lit)) (i : Nat) (t : FTerm) : Bool :=
  let ty := p.inTy env i t.col
  if t.op = 10 || t.op = 11 then tyIf ty (·.isStr)
  else if t.colcol then tyIf2 ty (p.inTy env i t.col2) (fun a b => a == b)
  else
    let lits := p.litsOf vals t.param t.first t.count
    let nullable (x : Option ColType × Option Lit × Bool) : Bool := x.2.1 == some .null || (x.2.1.isNone && x.2.2)
    lits.all (fun x => match x.1 with
      | none => false
      | some c => tyIf ty (fun a => if a.isStr then c.isStr else if nullable x then a.code == c.code else a == c)) &&
    agreeAll ((lits.filter (fun x => !nullable x)).filterMap (·.1))

/-- Is a declared result one that Table 05-6 allows? -/
def aggResOk (f : AggFn) (t : Option ColType) : Bool :=
  match f.fn with
  | 0 | 1 => f.res == ColType.int64
  | 2 => match t with
    | none => f.res.legal && (f.res.isDec || f.res == ColType.int64)
    | some x => if x.isDec then f.res.legal && f.res.isDec && f.res.scale == x.scale
      else x.isInt && (f.res == ColType.int64 || f.res == ⟨tDecimal, 38, 0⟩ || f.res == ⟨tWide, 39, 0⟩)
  | 3 => f.res.legal && f.res.isDec && tyIf t (fun x => x.isDec || x.isInt)
  | _ => tyIf t (fun x => f.res == x)

/-- Check 7 of one operator. -/
def opTypeErr (p : Plan) (env : TyEnv) (vals : Option (Nat → Lit)) (o : PlanOp) (i : Nat) : Option PlanErr :=
  let isTable (k : Nat) : Bool := match p.params[k]? with | some q => q.table | none => false
  let ok := match o.body with
    | .scan k _ => isTable k
    | .filter ts _ => ts.all (termErr p env vals i)
    | .aggregate _ fin _ fns => fns.all (fun f =>
        let t := if f.fn = 0 then none else p.inTy env i f.input
        if fin then aggResOk f t else f.fn != 2 && f.fn != 3 || tyIf t (fun x => x.isDec || x.isInt))
    | .matchOp fn _ first n =>
        fn != 0 || (p.litsOf none false first n).all (fun x => match x.1 with | some c => tyIf (p.inTy env i 0) (fun a => if a.isStr then c.isStr else a == c) | none => false)
    | .result cs => cs.all (fun c => match p.consts[c.1]? with | some k => k.ty.code == tUtf8 && !k.lit.isNull | none => false)
    | .tableWrite k _ _ encs => isTable k && (List.range encs.length).all (fun c => tyIf (p.inTy env i c) (fun t => encAllowed t (encs.getD c 0)))
    | _ => true
  need ok (perr 7 i stTypeMismatch)

/-- The exchange through which a fragment receives its batches (R166). -/
def Plan.fedBy (p : Plan) (f : Nat) : Option (PlanOp × Nat) :=
  match p.feeder f with
  | none => none
  | some g => match p.frags[g]? with
    | none => none
    | some fr => match p.ops[fr.first + fr.count - 1]? with
      | some o => (match o.body with | .exchange _ _ _ _ _ _ _ _ => some (o, fr.first + fr.count - 1) | _ => none)
      | none => none

/-- Mode and destinations of an exchange. -/
def exchangeOf (o : PlanOp) : Option (Nat × Bool × List Nat) :=
  match o.body with
  | .exchange m tiles _ _ _ _ ds _ => some (m, tiles, ds)
  | _ => none

/-- Key types pairwise equal, as far as they are known, and equal in number. -/
def keysAgree (a b : TyVec) : Bool := a.length == b.length && (List.zip a b).all (fun x => tyIf2 x.1 x.2 (fun t u => t == u))

/-- Types of the key references of operator i. -/
def Plan.keyTypes (p : Plan) (env : TyEnv) (i n : Nat) : TyVec := (List.range n).map (p.inTy env i)

/-- Key references of a join, grouping or build operator. -/
def PlanOp.keyCount (o : PlanOp) : Nat :=
  match o.body with
  | .joinBuild _ _ _ k _ _ => k
  | .joinProbe _ _ => o.ins.length
  | .aggregate k _ _ _ => k
  | _ => 0

/-- Must operator i receive its batches through a keyed exchange (R166)? -/
def Plan.routed (p : Plan) (o : PlanOp) : Bool :=
  match o.body with
  | .joinBuild _ _ bc _ _ _ => !bc
  | .joinProbe id _ => match p.buildOf id with
    | some (b, _) => (match b.body with | .joinBuild _ _ bc _ _ _ => !bc | _ => false)
    | none => false
  | .aggregate _ fin _ _ => fin
  | _ => false

/-- Check 8 of one operator: join keys agree with the build's (R117) and with their exchange's (R166). -/
def keyErr (p : Plan) (env : TyEnv) (o : PlanOp) (i : Nat) : Option PlanErr :=
  let mine := p.keyTypes env i o.keyCount
  let join := match o.body with
    | .joinProbe id _ => match p.buildOf id with
      | some (b, j) => keysAgree mine (p.keyTypes env j b.keyCount)
      | none => true
    | _ => true
  let exch := if p.routed o && o.keyCount != 0 then
      match (p.fragOf i).bind p.fedBy with
      | some (x, j) => (match exchangeOf x with
        | some (0, _, _) => keysAgree mine (p.keyTypes env j x.ins.length)
        | _ => true)
      | none => true
    else true
  need (join && exch) (perr 8 i stKeyMismatch)

/-- Check 9 of one operator. -/
def stripErr (p : Plan) (env : TyEnv) (o : PlanOp) (i : Nat) : Option PlanErr :=
  match o.body with
  | .compute off len =>
    let t (s : Strip) : StripTypes := ⟨(List.range s.inCount).map (p.inTy env i), s.consts.map (fun k => (p.consts[k]?).map (·.ty)),
      s.params.map (fun k => (p.params[k]?).bind (fun q => if q.table then none else some q.ty))⟩
    match stripFault p.blob off len o.ins.length t (fun k => decide (k < p.consts.length)) p.params.length with
    | some d => some ⟨9, d, i, stStripInvalid⟩
    | none => none
  | _ => none

/-- Check 10 of one operator: the automaton images of its LIKE and REGEXP terms. -/
def autErr (p : Plan) (o : PlanOp) (i : Nat) : Option PlanErr :=
  match o.body with
  | .filter ts _ => ts.findSome? (fun t => if t.op = 10 || t.op = 11 then
      (autFault (p.blob.drop t.first)).map (fun d => ⟨10, d, i, stAutomatonInvalid⟩) else none)
  | _ => none

/-- Largest stored key form of key columns (R126), where every type is known. -/
def keyLen (ts : TyVec) : Option Nat :=
  ts.foldl (fun a t => match a, t with
    | some n, some x => some (n + (if x.isStr then 50 else 1 + x.width))
    | _, _ => none) (some 0)

/-- Wide and binary slots that a function uses (Table 05-6). -/
def aggSlots (f : AggFn) (t : Option ColType) : Nat × Nat :=
  let dec := match t with | some x => x.isDec | none => f.res.isDec
  match f.fn with
  | 0 => (0, 0)
  | 1 => (0, 1)
  | 2 => if dec then (1, 0) else (0, 1)
  | 3 => if dec then (1, 1) else (0, 2)
  | _ => (1, 0)

/-- Size of a group entry in bytes (R145). -/
def groupBytes (wide binary keyDigits : Nat) : Nat := (32 + 40 * wide + 16 * binary + (keyDigits + 1) / 2 + 127) / 128 * 128

/-- Is a condition on a known number met? -/
def numIf (n : Option Nat) (f : Nat → Bool) : Bool := match n with | some x => f x | none => true

/-- Key digits of a value searched in the Match Unit's ternary store (R183). -/
def ternDigits (t : ColType) : Nat := if t.isStr then 40 else t.width

/-- Prefix entries that cover the range [lo, hi] of `b`-bit keys: value and number of low bits left open, in ascending order. -/
def prefixCover (b : Nat) : Nat → Nat → Nat → List (Nat × Nat)
  | 0, _, _ => []
  | f + 1, lo, hi =>
    if hi < lo then []
    else
      let k := ((List.range (b + 1)).filter (fun k => lo % 2 ^ k == 0 && decide (lo + 2 ^ k ≤ hi + 1))).foldl max 0
      (lo, k) :: prefixCover b f (lo + 2 ^ k) hi

/-- Entries of the range classes of a CLASS operator: class, value, open bits (R184). -/
def classEntries (p : Plan) (first n : Nat) : List (Nat × Nat × Nat) :=
  (List.range (n / 2)).flatMap (fun k =>
    match p.consts[first + 2 * k]?, p.consts[first + 2 * k + 1]? with
    | some lo, some hi =>
      let num (c : Const) : Nat := match c.lit with
        | .dig d => digsNat d
        | .str b => digsNat (hexDigits (bslice (b.take 16) 0 16) ++ natDigs 5 b.length)
        | .null => 0
      let w := if lo.ty.isStr then 37 else lo.ty.width
      if lo.lit.isNull || hi.lit.isNull then []
      else (prefixCover (4 * w) (8 * w + 4) (num lo) (num hi)).map (fun x => (k, x.1, x.2))
    | _, _ => [])

/-- Physical entries of a segment for `n` logical ones (R182, R183). -/
def segSize (n : Nat) (wide : Bool) : Nat := max 64 ((n * (if wide then 2 else 1) + 63) / 64 * 64)

/-- Check 11 of one operator. -/
def limitErr (p : Plan) (env : TyEnv) (vals : Option (Nat → Lit)) (o : PlanOp) (i : Nat) : Option PlanErr :=
  let keys := keyLen (p.keyTypes env i o.keyCount)
  let ok := match o.body with
    | .filter ts steps => numIf (stepDepth steps 0 0) (fun d => decide (d ≤ 8)) && ts.all (fun t =>
        let ls := p.litsOf vals t.param t.first t.count
        let wide := match p.inTy env i t.col with
          | some a => decide (40 < ternDigits a)
          | none => ls.any (fun x => tyIf x.1 (fun c => !c.isStr && decide (40 < c.width)) && x.1.isSome)
        t.colcol || decide (10 ≤ t.op) ||
          ((t.op != 7 || decide ((ls.filter (fun x => x.2.1 != some .null)).length ≤ (if wide then 8192 else 16384))) &&
           (t.param || ls.all (fun x => match x.1 with | some c => c.isStr || decide (c.width ≤ 64) | none => true))))
    | .joinBuild _ _ _ _ _ _ | .joinProbe _ _ => numIf keys (fun n => decide (n ≤ 192))
    | .aggregate _ _ _ fns =>
      let slots : List (Nat × Nat) := fns.map (fun f => aggSlots f (if f.fn = 0 then none else p.inTy env i f.input))
      let w : Nat := (slots.map (·.1)).sum
      let b : Nat := (slots.map (·.2)).sum
      decide (w ≤ 16) && decide (b ≤ 16) && numIf keys (fun n => decide (n ≤ 192) && decide (groupBytes w b n ≤ 1024))
    | .sort k _ _ _ => numIf (keyLen ((p.keyTypes env i k).map (fun t => t.map (fun x => if x.isStr then ⟨tKey, 32, 0⟩ else x)))) (fun n => decide (n ≤ 64))
    | .exchange m tiles _ _ k _ ds _ => (tiles || decide (ds.length ≤ 16)) && (m != 1 || numIf (keyLen ((p.keyTypes env i k).map (fun t => t.map (fun x => if x.isStr then ⟨tKey, 32, 0⟩ else x)))) (fun n => decide (n ≤ 64)))
    | .matchOp fn _ first n => if fn = 0 then
        numIf ((p.inTy env i 0).map ternDigits) (fun w => decide (segSize (classEntries p first n).length (decide (40 < w)) ≤ 16384))
        else numIf ((p.inTy env i 0).map ternDigits) (fun w => decide (w ≤ 40))
    | _ => true
  need ok (perr 11 i stOperatorLimit)

/-- Constants above 64 digits exceed Table 08-2 (R80). -/
def constLimitErr (c : Const) (i : Nat) : Option PlanErr := need (c.ty.isStr || decide (c.ty.width ≤ 64)) (perr 11 i stOperatorLimit)

/-! ### Check 12: wiring (R218, R166, R131, R229) -/

/-- One edge's own rules; the reserved bits of its entry are given. -/
def edgeErr (p : Plan) (raw : List Bytes) (e : Edge) (i : Nat) : Option PlanErr :=
  let b := raw.getD i []
  let w := word32 b
  let n := p.frags.length
  let srcExch := match p.lastOp e.src with | some o => (exchangeOf o).isSome | none => false
  let ok := rz (w 0) 31 1 && rz (w 1) 9 23 && decide (e.dst < n) && (e.src == 0xFFF || decide (e.src < n)) && (e.kind != 1 || decide (e.fence ≤ 1)) &&
    (match p.frags[e.dst]? with
      | none => false
      | some f => f.kinds[e.slot]? == some e.kind && (match e.kind with
        | 0 => e.src != 0xFFF || (match p.ops[f.first]? with | some o => (match o.body with | .scan _ _ => true | _ => false) | none => false)
        | 1 => e.src != 0xFFF && (e.fence == 0 || (srcExch && f.onFence))
        | 2 => e.src == 0xFFF && decide (e.param < p.params.length)
        | _ => false))
  need ok (perr 12 i stWiringInvalid)

/-- One fragment's rules: every slot one edge; its outgoing data edges as its last operator asks. -/
def fragWireErr (p : Plan) (f : Frag) (i : Nat) : Option PlanErr :=
  let data := (p.edges.filter (fun e => e.src == i && e.kind == 0)).length
  let ends := (p.edges.filter (fun e => e.src == i && e.kind == 1 && e.fence == 1)).length
  let slots := (List.range f.kinds.length).all (fun k => (p.edges.filter (fun e => e.dst == i && e.slot == k)).length == 1)
  let last := match p.lastOp i with
    | some o => if o.body.isSink then data + ends == 0 else if (exchangeOf o).isSome then data + ends == 1 else data == 1 && ends == 0
    | none => false
  let modeOk := p.edges.all (fun e => e.src != i || e.kind != 0 || (match p.frags[e.dst]? with | some g => !g.onFence | none => false))
  need (slots && last && modeOk) (perr 12 i stWiringInvalid)

/-- Fragments with no unvisited source, removed one round at a time: what is left lies on or after a cycle. -/
def topo (p : Plan) : Nat → List Nat → List Nat
  | 0, l => l
  | n + 1, l =>
    let l' := l.filter (fun f => p.edges.any (fun e => e.dst == f && e.src != 0xFFF && l.contains e.src))
    if l'.length = l.length then l else topo p n l'

/-- Trace a key reference of operator i back to the fragment's delivered vector: the column it is, unchanged (R166). -/
def traceBack (ops : List PlanOp) (k : Nat) : Nat → Option Nat
  | 0 => some k
  | n + 1 => match ops[n]? with
    | none => none
    | some o => match o.outs[k]? with
      | some r => if r.produced then none else traceBack ops r.idx n
      | none => none

/-- The exchange wiring of one operator (R166). -/
def routeErr (p : Plan) (o : PlanOp) (i : Nat) : Option PlanErr :=
  if !p.routed o then none else
  let ok := match p.fragOf i with
    | none => false
    | some f => match p.frags[f]?, p.fedBy f with
      | some fr, some (x, _) => match exchangeOf x with
        | some (0, _, _) => (List.range o.keyCount).all (fun k =>
            match (o.ins[k]?).bind (fun r => traceBack (p.opsOf fr) r (i - fr.first)) with
            | some c => (match x.outs[c]? with | some r => !r.produced && some r.idx == x.ins[k]? | none => false)
            | none => false)
        | some (3, _, _) => (match o.body with | .aggregate _ _ _ _ => true | _ => false)
        | _ => false
      | _, _ => false
  let keyless := match o.body with
    | .aggregate 0 _ _ _ => (match ((p.fragOf i).bind p.fedBy).bind (fun x => exchangeOf x.1) with | some (3, _, _) => true | _ => false)
    | _ => true
  let dests := match o.body with
    | .joinProbe id _ => (match p.buildOf id with
      | some (_, j) => ((((p.fragOf i).bind p.fedBy).bind (fun x => exchangeOf x.1)).map (·.2)) == ((((p.fragOf j).bind p.fedBy).bind (fun x => exchangeOf x.1)).map (·.2))
      | none => false)
    | _ => true
  need (ok && keyless && dests) (perr 12 i stWiringInvalid)

/-- The rules of joins (R218, R130, R131). -/
def joinErr (p : Plan) (o : PlanOp) (i : Nat) : Option PlanErr :=
  let builds (id : Nat) : List (PlanOp × Nat) := p.ops.zipIdx.filter (fun x => match x.1.body with
    | .joinBuild j _ _ _ _ _ => j == id
    | _ => false)
  match o.body with
  | .joinBuild id k bc _ _ _ => need ((builds id).length == 1 && !(bc && (k == 2 || k == 3))) (perr 12 i stWiringInvalid)
  | .joinProbe id k => match builds id with
    | [(b, j)] => need ((match b.body with | .joinBuild _ kb _ _ _ _ => kb == k | _ => false) &&
        (match p.fragOf j, p.fragOf i with
          | some fb, some fp => p.edges.any (fun e => e.src == fb && e.dst == fp && e.kind == 1 && e.fence == 0)
          | _, _ => false)) (perr 12 i stWiringInvalid)
    | _ => some (perr 12 i stWiringInvalid)
  | _ => none

/-- Do the batches that reach an operator come from SORT through COMPUTE and at most one GATHER (R229)? Walks back from the operator before `k` of fragment f. -/
def orderedFrom (p : Plan) : Nat → Nat → Nat → Nat → Bool
  | 0, _, _, _ => false
  | n + 1, f, k, gathers =>
    match p.frags[f]? with
    | none => false
    | some fr =>
      if k = 0 then
        match p.feeder f with
        | none => false
        | some g => match p.frags[g]? with
          | some fg => orderedFrom p n g fg.count gathers
          | none => false
      else match p.ops[fr.first + k - 1]? with
        | none => false
        | some o => match o.body with
          | .sort _ _ _ _ => true
          | .compute _ _ => orderedFrom p n f (k - 1) gathers
          | .exchange 3 _ _ _ _ _ _ _ => gathers == 0 && k == fr.count && orderedFrom p n f (k - 1) 1
          | _ => false

/-- The RESULT operators of a plan by operator index. -/
def Plan.results (p : Plan) : List Nat := (p.ops.zipIdx.filter (fun x => match x.1.body with | .result _ => true | _ => false)).map (·.2)

/-- The ORDERED rules (R229). -/
def orderedErr (p : Plan) : Option PlanErr :=
  if !p.ordered then none else
  match p.results with
  | [i] => match p.fragOf i with
    | some f => match p.frags[f]? with
      | some fr => need (orderedFrom p p.fuel f (i - fr.first) 0) (perr 12 noIndex stWiringInvalid)
      | none => some (perr 12 noIndex stWiringInvalid)
    | none => some (perr 12 noIndex stWiringInvalid)
  | _ => some (perr 12 noIndex stWiringInvalid)

/-! ### Loading and binding -/

/-- The first error of several checks. -/
def orElseErr : List (Option PlanErr) → Option PlanErr
  | [] => none
  | some e :: _ => some e
  | none :: l => orElseErr l

/-- Checks 7 to 12 in order, as far as the known types decide them. -/
def planErr (p : Plan) (env : TyEnv) (vals : Option (Nat → Lit)) (rawEdges : List Bytes) : Option PlanErr :=
  orElseErr [firstErr (opTypeErr p env vals) p.ops, firstErr (keyErr p env) p.ops, firstErr (stripErr p env) p.ops, firstErr (autErr p) p.ops,
    firstErr constLimitErr p.consts, firstErr (limitErr p env vals) p.ops, firstErr (edgeErr p rawEdges) p.edges, firstErr (fragWireErr p) p.frags,
    need (topo p p.frags.length (List.range p.frags.length)).isEmpty (perr 12 noIndex stWiringInvalid), firstErr (joinErr p) p.ops,
    firstErr (routeErr p) p.ops, orderedErr p]

/-- PLAN_LOAD's checks 1 to 12 on an image. -/
def planLoad (b : Bytes) : Except PlanErr Plan :=
  match planParse b with
  | .error e => .error e
  | .ok p =>
    let h := planHead b
    let raw := (List.range h.edges).map (fun i => bslice b (h.off.getD 2 0 + 8 * i) 8)
    match planErr p ⟨fun _ => none⟩ none raw with
    | some e => .error e
    | none => .ok p

/-- The checks that R536 defers to binding. -/
def bindErr (p : Plan) (env : TyEnv) (vals : Nat → Lit) : Option PlanErr :=
  orElseErr [firstErr (opTypeErr p env (some vals)) p.ops, firstErr (keyErr p env) p.ops, firstErr (stripErr p env) p.ops,
    firstErr (limitErr p env (some vals)) p.ops]

end Sys2Proof.Machine
end

