-- ==== Sys2Proof/Machine/Flow.lean ====
section
/-! DEFINITION. How a task's batches move through its operators: what a task needs, drops, failures, materialised columns, and the operators that run with
no further event (Scan and Filter; Plans, Pipelines and Services). -/

namespace Sys2Proof.Machine

/-- A running task with everything that governs it: the key of its work (die * 65536 + tag), its execution, plan and fragment. -/
structure Task where
  key : Nat
  w : Work
  e : Exec
  p : Plan
  f : Frag
  deriving DecidableEq, Repr

/-- The plan of an execution. -/
def State.planOf (s : State) (e : Exec) : Option Plan := (mget e.plan s.plans.plans).bind (·.plan)

/-- The handle of a plan slot and of a table slot (Table 08-1). -/
def planHandle (camp slot gen : Nat) : Nat := camp + 2 ^ 10 * slot + 2 ^ 24 * gen
def tableHandle (camp slot gen : Nat) : Nat := camp + 2 ^ 10 * slot + 2 ^ 26 * gen

/-- The task whose work has this key, whatever its condition. -/
def State.taskAt (s : State) (key : Nat) : Option Task :=
  match mget key s.run.works with
  | none => none
  | some w => match mget w.exec s.execs with
    | none => none
    | some e => match s.planOf e with
      | none => none
      | some p => match p.frags[w.frag]? with
        | none => none
        | some f => some ⟨key, w, e, p, f⟩

/-- A task that goes on: the engine runs, and neither it nor its execution has failed or been cancelled. -/
def State.task (s : State) (die tag : Nat) : Option Task :=
  if !s.alive then none else
  match s.taskAt (die * 65536 + tag) with
  | some t => if t.w.failed.isSome || t.e.cancelled || t.w.done then none else some t
  | none => none

/-- Replace a task's work. -/
def State.setWork (s : State) (key : Nat) (w : Work) : State := { s with run := { s.run with works := mput key w s.run.works } }
/-- Change an execution. -/
def State.modExec (s : State) (id : Nat) (f : Exec → Exec) : State := { s with execs := mmod id f s.execs }

/-- The operators of a task's fragment. -/
def Task.ops (t : Task) : List PlanOp := t.p.opsOf t.f
/-- The operator in hand, with its batch. -/
def Task.head (t : Task) : Option (Nat × PlanOp × Batch) :=
  match t.w.todo with
  | [] => none
  | (i, b) :: _ => match t.ops[i]? with
    | some o => some (i, o, b)
    | none => none
/-- Index in the plan of the fragment's operator i. -/
def Task.opIx (t : Task) (i : Nat) : Nat := t.f.first + i
/-- The cluster of a task. -/
def Work.cluster (w : Work) : Nat := w.tile / 8

/-! ### Failures and drops (R232, R62 to R64, Table 12-2) -/

/-- A task fails with a status: it stops, the failure is the execution's if it is its first, and the other tasks are cancelled (R232, R352). -/
def State.failTask (s : State) (t : Task) (w : Work) (status : Nat) : State :=
  let s := s.setWork t.key { w with failed := some status }
  (s.countErr 3).failExec w.exec status

/-- Latch the first drop of a tile (Table 03-10). -/
def State.scanErr (s : State) (tile da cond camp : Nat) : State :=
  if s.rg .SCN_ERRLOG_valid tile = 1 then s else
  (((s.rs .SCN_ERRLOG_block_da tile da).rs .SCN_ERRLOG_cond tile cond).rs .SCN_ERRLOG_camp tile camp).rs .SCN_ERRLOG_valid tile 1

/-- The kinds of batch drop of Table 03-1, with their status under STRICT (Table 12-2). -/
inductive DropKind where
  | crc | malformed | poisoned
  deriving DecidableEq, Repr

/-- Status of a drop under STRICT. -/
def DropKind.status : DropKind → Nat
  | .crc => stCrcFail
  | .malformed => stMalformedData
  | .poisoned => stPoisoned

/-- The SCAN batch of a task is dropped (R62): under TOLERANT it is counted with the rows its batch list gives it and the task goes on with nothing; under
STRICT the task fails. -/
def State.dropBatch (s : State) (t : Task) (w : Work) (k : DropKind) (cond da : Nat) : State :=
  let s := s.scanErr w.tile da cond w.camp
  if t.e.strict then s.failTask t w k.status
  else
    let s := match k with
      | .crc => s.ra .SCN_DROP_BLK_crc_fail w.camp 1
      | .malformed => s.ra .SCN_DROP_BLK_malformed w.camp 1
      | .poisoned => s.ra .SCN_DROP_BLK_poisoned w.camp 1
    let s := (s.ra .SCN_DROP_ROWS_batch_rows w.camp w.rows).countErr 2
    let s := s.modExec w.exec (fun (e : Exec) => { e with dropped := e.dropped + w.rows })
    s.setWork t.key { w with todo := [], done := true }

/-- A row of the batch in hand is dropped for its heap record (R50): under TOLERANT it leaves the selection and is counted; under STRICT the task
fails. -/
def State.dropRow (s : State) (t : Task) (w : Work) (r : Nat) (h : HeapFault) (da : Nat) : State :=
  let s := (s.scanErr w.tile da 0xE w.camp).ra .FLT_HEAP_failures w.tile 1
  if t.e.strict then s.failTask t w h.status
  else
    let s := (s.ra .SCN_DROP_ROWS_heap_rows w.camp 1).countErr 2
    let s := s.modExec w.exec (fun (e : Exec) => { e with dropped := e.dropped + 1 })
    let todo := match w.todo with
      | (i, b) :: l => (i, { b with sel := lset b.sel r false }) :: l
      | [] => []
    s.setWork t.key { w with todo := todo }

/-- The fault of a value's heap record, with its DA. -/
def State.heapFault (s : State) (cl : Nat) (v : ColVal) : Option (HeapFault × Nat) :=
  match v with
  | .str n pre da => (match s.strBytes (some cl) n pre da with
    | .ok _ => none
    | .error e => some (e, da))
  | .null | .dig _ => none

/-- Drop a row of the task's batch in hand, unless the task has failed already. -/
def State.dropNow (s : State) (key r : Nat) (h : HeapFault) (da : Nat) : State :=
  match s.taskAt key with
  | some t => if t.w.failed.isSome then s else s.dropRow t t.w r h da
  | none => s

/-- Charge a task's access of device memory to its Camp by tier (R86, R150, R176, R204). -/
def State.chargeTask (s : State) (w : Work) (da n : Nat) : State := s.chargeDev w.camp da n

/-! ### Which columns a SCAN needs (R57, R58) -/

/-- Does an operator move whole rows, so that the columns it passes on are needed at it? -/
def OpBody.movesRows : OpBody → Bool
  | .joinProbe _ _ | .sort _ _ _ _ | .exchange _ _ _ _ _ _ _ _ => true
  | _ => false

/-- Input columns that an operator reads. -/
def PlanOp.reads (o : PlanOp) : List Nat :=
  o.ins ++ (if o.body.movesRows then (o.outs.filter (fun r => !r.produced)).map (·.idx) else [])

/-- SCAN columns used by operators after the SCAN; `v` says which SCAN column each column of the vector is. -/
def scanUses : List PlanOp → List (Option Nat) → List Nat
  | [], v => v.filterMap id
  | o :: l, v =>
    let used := o.reads.filterMap (fun i => (v[i]?).join)
    let v' := o.outs.map (fun r => if r.produced then none else (v[r.idx]?).join)
    used ++ (if o.body.isSink then [] else scanUses l v')

/-- The positions in the SCAN's column list that its fragment needs. -/
def neededCols (ops : List PlanOp) : List Nat :=
  match ops with
  | [] => []
  | o :: l => (scanUses l (o.outs.map (fun r => if r.produced then some r.idx else none))).eraseDups

/-! ### Checks of fetched planes (Table 02-7, orders 8 to 10) -/

/-- Rows, or run lanes, whose digits must be legal (R39): rows that hold a value; under RLE the runs that cover one, once the ends are known. -/
def ColScan.checked (k : ColScan) (h : Hdr) : List Nat :=
  let valid : List Bool := if h.validity && decide (0 < h.nulls) then (match mget 0 k.planes with
    | some d => (List.range h.rows).map (validBit d)
    | none => List.replicate h.rows false) else List.replicate h.rows true
  let rows := rowsAt valid
  if h.enc = encRle then match k.ends 0 h with
    | .ok e => (rows.map (runOf e)).eraseDups
    | .error _ => []
  else rows

/-- The first of conditions 8 to 10 that the planes fetched so far break. -/
def ColScan.fault (k : ColScan) (h : Hdr) : Option Nat :=
  let lanes := k.checked h
  let at_ (i : Nat) : Option Digits := mget (h.stored0 i) k.planes
  let above (i m : Nat) : Bool := match at_ i with
    | some d => lanes.any (fun r => decide (m < (d.getD r 0).toNat))
    | none => false
  let all (lo n : Nat) : Option (List Digits) := (List.range n).mapM (fun i => at_ (lo + i))
  let values := h.enc = encPlain || h.enc = encRle
  let digits := values && ((h.ty.code == tBool && above 0 1) ||
    (h.ty.isDec && (above 0 1 || (List.range h.ty.prec).any (fun i => above (i + 1) 9))) ||
    (h.ty.isDec && (match all 0 h.stored with
      | some ps => lanes.any (fun r => (ps.headD []).getD r 0 == 0 && (ps.drop 1).all (fun p => p.getD r 0 == 9))
      | none => false)))
  let lens := h.ty.isStr && h.enc == encPlain && (match all 32 5 with
    | some ps => lanes.any (fun r => decide ((if h.heap then 65536 else 16) < digsNat (ps.map (fun p => p.getD r 0))))
    | none => false)
  let ends := h.enc == encRle && (match k.ends 0 h with
    | .ok e => !(ascending e && e.getLastD 0 + 1 == h.rows)
    | .error _ => false)
  let sums := h.enc == encFor && (match all 0 h.stored with
    | some ps => lanes.any (fun r => decide (16 ^ h.ty.width ≤ h.forBase + digsNat (ps.map (fun p => p.getD r 0))))
    | none => false)
  let codes := h.enc == encDict && (match k.dict, all 0 h.stored with
    | some d, some ps => lanes.any (fun r => decide (d.length ≤ digsNat (ps.map (fun p => p.getD r 0))))
    | _, _ => false)
  if digits || lens then some 8 else if ends || sums then some 9 else if codes then some 10 else none

/-! ### Materialising columns (R66) -/

/-- Bytes of a dictionary read whole: its descriptor, and each entry block with its header, check table and planes. -/
def State.dictBytesRead (s : State) (cl da : Nat) : List (Nat × Nat) :=
  match s.dictRead (some cl) da with
  | none => [(da, 16)]
  | some d => (da, 16 + 8 * d.blocks.length + 4) :: d.blocks.map (fun b =>
      let h := hdrRead (s.viewGet (some cl) b 2 128)
      (b, h.size / 2))

/-- Read a DICT column's dictionary once for the task, charged; none when it fails its checks (Table 02-7, order 10). -/
def State.loadDict (s : State) (w : Work) (c : Nat) (k : ColScan) (h : Hdr) : State × Option (Work × DictDesc) :=
  let cl := w.cluster
  let charge (s : State) : State := (s.dictBytesRead cl h.dict).foldl (fun (s : State) (x : Nat × Nat) => s.chargeTask w x.1 x.2) s
  match s.dictEntries (some cl) h.dict with
  | none => (charge s, none)
  | some (d, es) =>
    let s := if k.dict.isSome then s else charge s
    (s, some ({ w with cols := lset w.cols c { k with dict := some es } }, d))

/-- What becomes of columns that an operator needs as values. -/
inductive Filled where
  | wait (n : List Need)
  | drop (cond da : Nat)
  | ok (w : Work) (b : Batch)

/-- Turn the given columns of the batch in hand into values: what is still to fetch, a drop, or the batch with them. -/
def fillCols : List Nat → State → Work → Batch → List Need → State × Filled
  | [], s, w, b, [] => (s, .ok w b)
  | [], s, _, _, n => (s, .wait n)
  | i :: l, s, w, b, n =>
    match b.cols[i]? with
    | none => fillCols l s w b n
    | some col => match col.scan with
      | none => fillCols l s w b n
      | some c => match w.cols[c]? with
        | none => fillCols l s w b n
        | some k => match k.hdr with
          | none => fillCols l s w b n
          | some h => match k.vals c h with
            | .error m => fillCols l s w b (n ++ m)
            | .ok v =>
              let put (v : List ColVal) : Batch := { b with cols := lset b.cols i { col with scan := none, vals := v } }
              if h.enc = encDict && k.dict.isNone then
                match s.loadDict w c k h with
                | (s, none) => (s, .drop 10 k.da)
                | (s, some (w', _)) =>
                  let k' := w'.cols.getD c k
                  if (k'.fault h).isSome then (s, .drop 10 k.da)
                  else match k'.vals c h with
                    | .ok v => fillCols l s w' (put v) n
                    | .error m => fillCols l s w' b (n ++ m)
              else fillCols l s w (put v) n

/-! ### Moving on -/

/-- What an operator passes on: its output vector over produced and input columns (R216). -/
def PlanOp.outCols (o : PlanOp) (made : List Column) (b : Batch) : List Column :=
  o.outs.map (fun r => ((if r.produced then made[r.idx]? else b.cols[r.idx]?).getD ⟨⟨0, 0, 0⟩, none, []⟩))

/-- Forget what belonged to the operator in hand. -/
def Work.fresh (w : Work) : Work :=
  { w with codes := [], heap := [], search := [], pos := 0, made := [], casts := [], folded := [], pairs := [] }

/-- The batch in hand is done with at its operator. -/
def Work.pop (w : Work) : Work := { w.fresh with todo := w.todo.drop 1 }

/-- The batch in hand goes on to the next operator. -/
def Work.next (w : Work) (b : Batch) : Work :=
  match w.todo with
  | (i, _) :: l => { w.fresh with todo := (i + 1, b) :: l }
  | [] => w

/-- Planes of needed blocks that a finished SCAN left unfetched (Table 03-9). -/
def Work.unfetched (w : Work) : Nat :=
  (w.cols.map (fun k => match k.hdr with
    | some h => if !k.need || k.table.isNone then 0
        else h.planes - k.planes.length - (if h.validity && h.nulls == 0 then 1 else 0)
    | none => 0)).sum

/-- A filter's context on a tile. -/
def State.filterCtx (s : State) (t : Task) (o : PlanOp) (terms : List FTerm) (steps : List Nat) : FilterCtx :=
  let n := s.rg .FLT_CTL_inlist_lanes t.w.tile
  ⟨t.p, t.e.binds, o.ins, terms, steps, s.rg .SCN_CTL_zone_en t.w.tile == 1, if n = 0 || 16 < n then 16 else n⟩

/-- What happened when an operator was tried with nothing from outside. -/
inductive Moved where
  | wait
  | moved

/-- A table write's batch is held for the commit (R234). -/
def State.holdWrite (s : State) (t : Task) (op : Nat) (b : Batch) : State :=
  s.modExec t.w.exec (fun (e : Exec) => { e with writes := mput op (mgetD [] op e.writes ++ [b]) e.writes })

/-- The SCAN in hand: once every needed block has its header and check table, its batch goes on with its columns not yet fetched. -/
def Task.scanOut (t : Task) (o : PlanOp) (b : Batch) : Option Batch :=
  if t.w.cols.any (fun k => k.need && (k.hdr.isNone || k.table.isNone)) then none
  else
    let made := t.w.cols.zipIdx.map (fun q => (⟨(q.1.hdr.map (·.ty)).getD ⟨0, 0, 0⟩, some q.2, []⟩ : Column))
    some { b with cols := o.outCols made b }

/-- Try the operator in hand: SCAN, FILTER and TABLE_WRITE need no event of their own once their data is there, and a batch past the last operator leaves the
fragment. Operators with events of their own wait for them. -/
def State.tryOp (s : State) (t : Task) : State × Moved :=
  match t.w.todo with
  | [] => (s, .wait)
  | (i, b) :: _ =>
    match t.ops[i]? with
    | none =>
      match fillCols (List.range b.cols.length) s t.w b [] with
      | (s, .wait _) => (s, .wait)
      | (s, .drop c da) => (s.dropBatch t t.w .malformed c da, .moved)
      | (s, .ok w b) => (s.setWork t.key { w.pop with out := w.out ++ [b] }, .moved)
    | some o => match o.body with
      | .scan _ _ => match t.scanOut o b with
        | none => (s, .wait)
        | some b' => (s.setWork t.key (t.w.next b'), .moved)
      | .filter terms steps =>
        let x := s.filterCtx t o terms steps
        match x.eval t.w b with
        | .error _ => (s, .wait)
        | .ok sel =>
          let s := (s.ra .FLT_ROWS_rows_in t.w.tile b.liveRows.length).ra .FLT_ROWS_rows_selected t.w.tile (rowsAt sel).length
          let s := if !x.zonePass t.w b then s.ra .SCN_BLOCKS_skipped t.w.tile (t.w.cols.filter (fun k => k.need && k.hdr.isSome)).length else s
          if sel.any id then (s.setWork t.key (t.w.next { b with sel := sel, cols := o.outCols [] b }), .moved) else (s.setWork t.key t.w.pop, .moved)
      | .tableWrite _ _ drop _ =>
        match fillCols o.ins s t.w b [] with
        | (s, .wait _) => (s, .wait)
        | (s, .drop c da) => (s.dropBatch t t.w .malformed c da, .moved)
        | (s, .ok w b) =>
          let cols := o.ins.filterMap (fun c => b.cols[c]?)
          let w := { w with todo := (i, b) :: w.todo.drop 1 }
          let s := cols.foldl (fun (s : State) c => (b.liveRows.map c.at).foldl (fun (s : State) v => match v with
            | .str n _ da => if 16 < n then s.chargeTask w da (heapBytes n) else s
            | .null | .dig _ => s) s) s
          let bad := if drop then [] else b.liveRows.filterMap (fun r => (cols.findSome? (fun c => s.heapFault w.cluster (c.at r))).map (fun e => (r, e)))
          if bad.isEmpty then
            let s := if drop then s else s.holdWrite t (t.opIx i) { b with cols := cols }
            (s.setWork t.key w.pop, .moved)
          else (bad.foldl (fun (s : State) x => s.dropNow t.key x.1 x.2.1 x.2.2) (s.setWork t.key w), .moved)
      | _ => (s, .wait)

/-- Types that an execution's tables give the plan. -/
def Exec.env (e : Exec) : TyEnv := ⟨fun k => (mget k e.snaps).map (fun (t : Table) => t.cols.map (·.ty))⟩

/-- Types of operator i's input references, all known once tables are bound. -/
def Task.refTypes (t : Task) (i : Nat) : List ColType :=
  match t.p.ops[i]? with
  | some o => (List.range o.ins.length).map (fun k => (t.p.inTy t.e.env i k).getD ⟨0, 0, 0⟩)
  | none => []

/-- Input types of an aggregate's functions. -/
def Task.fnTypes (t : Task) (i : Nat) (fns : List AggFn) : List ColType :=
  let tys := t.refTypes i
  fns.map (fun f => tys.getD f.input ⟨0, 0, 0⟩)

/-- The partial entry of a keyless AGGREGATE with final = 0 as the task's last batch (R144, R535). -/
def Task.partialOut (t : Task) : Option Batch :=
  let i := t.f.first + t.f.count - 1
  match t.w.partly, t.p.ops[i]? with
  | some (seq, g), some o => match o.body with
    | .aggregate _ _ _ fns => some (partialBatch fns (t.fnTypes i fns) o.outs seq g)
    | _ => none
  | _, _ => none

/-- Move a task's batches on as far as nothing from outside is needed; a task with nothing left emits its partial entry and is done. -/
def settleTask (key : Nat) : Nat → State → State
  | 0, s => s
  | n + 1, s =>
    match s.taskAt key with
    | none => s
    | some t =>
      if t.w.failed.isSome || t.w.done then s
      else if t.w.todo.isEmpty then
        if t.w.hold then s else
        let out := match t.partialOut with
          | some b => t.w.out ++ [b]
          | none => t.w.out
        (s.ra .SCN_PLANES_not_fetched t.w.tile t.w.unfetched).setWork key { t.w with done := true, out := out, partly := none }
      else match s.tryOp t with
        | (s, .wait) => s
        | (s, .moved) => settleTask key n s

/-- Move a task on. -/
def State.settleWork (s : State) (key : Nat) : State :=
  match s.taskAt key with
  | some t => settleTask key (34 * (t.w.todo.length + 1)) s
  | none => s

/-- Put work back and move it on. -/
def State.goOn (s : State) (key : Nat) (w : Work) : State := (s.setWork key w).settleWork key

/-- What the operator in hand waits for from the Scan unit, the tile core or the Match Unit. -/
def State.needs (s : State) (t : Task) : List Need :=
  match t.w.todo with
  | [] => []
  | (i, b) :: _ =>
    let cols (l : List Nat) : List Need := match fillCols l s t.w b [] with
      | (_, .wait n) => n
      | (_, .drop _ _) | (_, .ok _ _) => []
    match t.ops[i]? with
    | none => cols (List.range b.cols.length)
    | some o => match o.body with
      | .filter terms steps => match (s.filterCtx t o terms steps).eval t.w b with
        | .error n => n
        | .ok _ => []
      | _ => cols o.reads

/-- Start a task's work for its token (R216): a SCAN batch from the snapshot, a delivered batch, the batches staged for an ON_FENCE task, or a final phase. -/
def State.workOf (s : State) (id : Nat) (e : Exec) (p : Plan) (frag tile : Nat) (body : TokBody) (route : Option Route) : Work :=
  let f := (p.frags[frag]?).getD ⟨0, 0, 0, 0, false, [], 0⟩
  let ops := p.opsOf f
  let w : Work := ⟨id, frag, e.camp, tile, s.ticks, body, route, 0, [], [], [], [], [], 0, [], [], [], [], [], none, [], [], 0, [], false, false, none⟩
  match body with
  | .seed param index =>
    let need := neededCols ops
    let ent := ((mget param e.snaps).bind (fun (t : Table) => t.batches[index]?)).getD ⟨0, [], []⟩
    let cols := match ops.headD ⟨[], [], .hash⟩ with
      | ⟨_, _, .scan _ cs⟩ => cs
      | _ => []
    { w with
      rows := ent.rows
      cols := cols.zipIdx.map (fun q => ⟨ent.blocks.getD q.1 0, need.contains q.2, none, none, [], none⟩)
      todo := [(0, Batch.full index ent.rows [] [])] }
  | .batch b => { w with rows := b.rows, todo := [(0, b)] }
  | .fence (some d) =>
    let op := (p.feeder frag).bind (fun g => (p.frags[g]?).map (fun f => f.first + f.count - 1))
    { w with todo := (mgetD [] ((op.getD 0) * 128 + d) e.staged).map (fun b => (0, b)) }
  | .final _ _ => { w with hold := true }
  | .fence none | .thread _ _ => w

end Sys2Proof.Machine
end

