-- ==== Sys2Proof/Machine/Trace.lean ====
section
/-! DEFINITION. The dispatch trace (R288 to R290) and bucket levels (R276, R277). -/

namespace Sys2Proof.Machine

/-- The bucket level of a cluster in nJ, signed (Table 09-22). -/
def State.level (s : State) (c : Nat) : Int := sInt 32 (s.rg .PWR_BUCKET_level c)
/-- Set a cluster's bucket level. -/
def State.setLevel (s : State) (c : Nat) (v : Int) : State :=
  s.rs .PWR_BUCKET_level c (ofInt 32 (max (-(2 ^ 31 : Nat)) (min v (2 ^ 31 - 1))))

/-- What a trace record says of its event (Table 09-7). -/
structure Trace where
  tag : Nat
  epoch : Nat
  camp : Nat
  cluster : Nat
  tile : Nat
  priority : Nat
  reason : Nat
  taskClass : Nat
  aux : Nat
  plan : Nat
  deriving DecidableEq, Repr

/-- The 32 bytes of a trace record; the first lap of a ring has phase 1 (DESIGN CHOICE, log 40: the manual gives no first phase). -/
def Trace.bytes (t : Trace) (devtime bucket seq log2 : Nat) : Bytes :=
  leBytes 8 devtime ++
  leBytes 4 (t.tag + 2 ^ 16 * t.epoch + 2 ^ 20 * t.camp) ++
  leBytes 4 (t.cluster + 2 ^ 4 * t.tile + 2 ^ 8 * t.priority + 2 ^ 12 * t.reason + 2 ^ 20 * t.taskClass) ++
  leBytes 4 bucket ++ leBytes 4 (min t.aux (2 ^ 32 - 1)) ++ leBytes 4 t.plan ++
  leBytes 4 (seq % 2 ^ 31 + (if seq / 2 ^ log2 % 2 = 0 then 2 ^ 31 else 0))

/-- Is a ring's size one of R288's? -/
def ringSize (n : Nat) : Bool := decide (8 ≤ n) && decide (n ≤ 20)

/-- Write a record to a die's root ring. -/
def State.traceRoot (s : State) (die : Nat) (t : Trace) : State :=
  let n := s.rg .DPT_TRACE_size_log2 die
  if s.rg .DPT_CTL_trace_en die = 0 || !ringSize n then s else
  let k := mgetD 0 die s.traceSeq
  let b := t.bytes s.devtime.toNat (s.rg .PWR_BUCKET_level t.cluster) k n
  { s.memPut (s.rg .DPT_TRACE_base die + 64 * (k % 2 ^ n)) b with traceSeq := mput die (k + 1) s.traceSeq }

/-- Write a record to the ring of its Camp, in the Camp's own pages: through the Camp's view (R297). A record that cannot be placed is lost. The bucket
level appears only when the Camp was created with trace_bucket set (R289). -/
def State.traceCamp (s : State) (die : Nat) (t : Trace) : State :=
  let n := s.rg .CPM_TRACE_size_log2 t.camp
  if s.rg .DPT_CTL_trace_en die = 0 || !ringSize n || t.camp = 0 then s else
  let k := mgetD 0 (2 + t.camp) s.traceSeq
  let level := if s.rg .CPM_STATE_trace_bucket t.camp = 1 then s.rg .PWR_BUCKET_level t.cluster else 0
  let b := t.bytes s.devtime.toNat level k n
  let (s, _) := s.viewPut 16 t.camp (s.rg .CPM_TRACE_base t.camp + 64 * (k % 2 ^ n)) b
  { s with traceSeq := mput (2 + t.camp) (k + 1) s.traceSeq }

/-- Write a record of a task: to its die's root ring and its Camp's ring (R288). -/
def State.trace (s : State) (die : Nat) (t : Trace) : State := (s.traceRoot die t).traceCamp die t

/-- Write a record that concerns the device as a whole: Camp 0, root rings only (R288). -/
def State.traceDevice (s : State) (die cluster reason aux : Nat) : State :=
  s.traceRoot die ⟨0, 0, 0, cluster, 0, 0, reason, 0, aux, 0⟩

end Sys2Proof.Machine
end

