-- ==== Sys2Proof/Machine/Entries.lean ====
section
/-! DEFINITION. Matching-store entries, ready lists, selection and placement (R255 to R268, R272 to R274, R277, R283). -/

namespace Sys2Proof.Machine

/-- A die's dispatcher. -/
def State.die (s : State) (d : Nat) : DieState := mgetD DieState.empty d s.dies
/-- Replace a die's dispatcher. -/
def State.setDie (s : State) (d : Nat) (x : DieState) : State := { s with dies := mput d x s.dies }
/-- An entry of a die's matching store. -/
def State.entry (s : State) (d tag : Nat) : Entry := mgetD Entry.fresh tag (s.die d).entries
/-- Replace an entry. -/
def State.setEntry (s : State) (d tag : Nat) (e : Entry) : State :=
  s.setDie d { s.die d with entries := mputD Entry.fresh tag e (s.die d).entries }
/-- Put an entry into a state, from now (Table 09-2, word 3). -/
def State.enter (s : State) (d tag : Nat) (st : EntryState) : State :=
  s.setEntry d tag { s.entry d tag with state := st, since := s.ticks }

/-- The plan handle of an execution, 0 where there is none. -/
def State.execHandle (s : State) (id : Nat) : Nat :=
  match mget id s.execs with
  | some e => match mget e.plan s.plans.plans with
    | some q => planHandle e.camp e.plan q.gen
    | none => 0
  | none => 0

/-- Write a trace record of an entry. -/
def State.traceEntry (s : State) (d tag : Nat) (e : Entry) (reason aux : Nat) : State :=
  let placed := e.state == .running || e.state == .draining
  s.trace d ⟨tag, e.epoch, e.camp, if placed then e.tile / 8 else 0, if placed then e.tile % 8 else 0, e.priority, reason, e.taskClass, aux,
    if e.thread then 0 else s.execHandle e.exec⟩

/-- Are all slots of an entry satisfied (R258)? -/
def Entry.complete (e : Entry) : Bool := e.arrived % 2 ^ e.slots == 2 ^ e.slots - 1

/-- An entry becomes READY and joins the ready list of its priority (R258, R263). -/
def State.makeReady (s : State) (d tag : Nat) : State :=
  let s := s.enter d tag .ready
  let e := s.entry d tag
  let s := s.setDie d { s.die d with ready := (s.die d).ready ++ [⟨e.priority, e.camp, tag⟩] }
  s.traceEntry d tag e 0x01 0

/-- A WAITING entry whose slots are all satisfied becomes READY (R258). -/
def State.readyIf (s : State) (d tag : Nat) : State :=
  let e := s.entry d tag
  if e.state == .waiting && e.complete then s.makeReady d tag else s

/-- An entry whose task has ended drains: it leaves the ready lists (R260). -/
def State.drainEntry (s : State) (d tag : Nat) : State :=
  let s := s.enter d tag .draining
  s.setDie d { s.die d with ready := (s.die d).ready.filter (fun r => r.tag != tag) }

/-! ### Placement (R264 to R267) -/

/-- Operator tasks that run on a tile (R266). -/
def State.tileWorks (s : State) (tile : Nat) : List Work := (s.run.works.map (·.2)).filter (fun w => w.tile == tile)

/-- Thread tasks that run on a tile. -/
def State.tileThreads (s : State) (tile : Nat) : Nat :=
  (s.dies.map (fun d => (d.2.entries.filter (fun p => p.2.thread && p.2.state == .running && p.2.tile == tile)).length)).sum

/-- Can a Camp's park area take no further batch, with batches of the Camp parked at the tile (R170)? -/
def State.parkFull (s : State) (camp tile : Nat) : Bool :=
  (s.takeNear camp 1).isNone && s.execs.any (fun p => p.2.camp == camp && p.2.ports.any (fun q => q.1 / 128 % 128 == tile && !q.2.parked.isEmpty))

/-- Does the task of an entry feed an exchange? -/
def State.feedsExchange (s : State) (e : Entry) : Bool :=
  match mget e.exec s.execs with
  | some x => match s.planOf x with
    | some p => match p.lastOp e.frag with
      | some o => (exchangeOf o).isSome
      | none => false
    | none => false
  | none => false

/-- Must the task run elsewhere than on this tile? -/
def Entry.mayRun (e : Entry) (tile : Nat) : Bool :=
  if e.thread then e.tile == tile
  else match e.place with
    | .any => true
    | .cluster c => tile / 8 == c
    | .tile t => tile == t

/-- Has a tile capacity for the task, whatever the energy (R265, R287)? `park` says whether a full park area counts. -/
def State.hasRoom (s : State) (e : Entry) (tile : Nat) (park : Bool) : Bool :=
  decide (s.rg .PWR_CLUSTER_pstate (tile / 8) < 2) && e.mayRun tile &&
  (e.thread || decide ((s.tileWorks tile).length < 4)) && !(s.tileWorks tile).any (fun w => w.camp == e.camp) &&
  !(park && !e.thread && s.feedsExchange e && s.parkFull e.camp tile)

/-- The estimate of a Camp and task class (R277). -/
def State.est (s : State) (camp cls : Nat) : Nat := s.rg .PWR_EST_estimate (16 * camp + cls)

/-- Does a cluster's bucket allow the task (R265)? -/
def State.hasEnergy (s : State) (d : Nat) (e : Entry) (c : Nat) : Bool :=
  decide ((s.est e.camp e.taskClass : Int) ≤ s.level c) ||
  (decide (s.rg .DPT_CTL_urgent_level d ≤ e.priority) && decide (-((s.rg .DPT_CTL_urgent_floor d * 1000 : Nat) : Int) < s.level c))

/-- Of two tiles the one R265 chooses: the cluster with the higher level, then the lower cluster, then the tile with fewer tasks, then the lower tile. -/
def State.betterTile (s : State) (a b : Nat) : Nat :=
  let load (t : Nat) : Nat := (s.tileWorks t).length + s.tileThreads t
  if a / 8 != b / 8 then
    if s.level (b / 8) < s.level (a / 8) then a else if s.level (a / 8) < s.level (b / 8) then b else if a < b then a else b
  else if load a < load b then a else if load b < load a then b else if a < b then a else b

/-- The tiles of a die. -/
def dieTiles (d : Nat) : List Nat := (List.range 64).map (· + 64 * d)

/-- place (R265): the tile for an entry's task on a die. -/
def State.place (s : State) (d : Nat) (e : Entry) (on : Nat) : Option Nat :=
  match (dieTiles on).filter (fun t => s.hasRoom e t true && s.hasEnergy d e (t / 8)) with
  | [] => none
  | t :: l => some (l.foldl s.betterTile t)

/-- Has any tile of the die capacity for the task under R265, whatever the energy (R287)? -/
def State.roomOnDie (s : State) (d : Nat) (e : Entry) : Bool := (dieTiles d).any (fun t => s.hasRoom e t true)

/-- Components of a Camp that are exhausted, as a mask. -/
def State.exhaustedMask (s : State) (c : Nat) : Nat := s.rg .CPM_STATE_exhausted c

/-- May a Camp's tasks of a level be placed (R254, R264, R272, R274)? -/
def State.eligible (s : State) (d camp lvl : Nat) : Bool :=
  s.campState camp == .active && (camp == 0 && s.alive || s.mode == .service || s.mode == .detached) &&
  s.exhaustedMask camp == 0 &&
  !(decide (lvl < s.rg .DPT_CTL_urgent_level d) && s.rg .CPM_RATION_amount (8 * camp) != unlimited && camp != 0 &&
    decide (s.remain camp 0 ≤ ((s.rg .CPM_RATION_amount (8 * camp) * s.rg .CPM_STATE_urgent_reserve camp / 100 : Nat) : Int)))

/-- Start a task on a tile: its entry runs, the bucket is charged its estimate, an Idle cluster wakes, and its work begins (R264, R277, R283). -/
def State.startTask (s : State) (d tag tile : Nat) : State :=
  let e := s.entry d tag
  let waited := s.ticks - e.since
  let s := s.setEntry d tag { e with state := .running, since := s.ticks, tile := tile }
  let x := s.die d
  let s := s.setDie d { x with ready := x.ready.filter (fun r => r.tag != tag), rr := mput e.priority ((e.camp + 1) % 1024) x.rr }
  let c := tile / 8
  let s := s.setLevel c (s.level c - (s.est e.camp e.taskClass : Int))
  let s := { s.rs .PWR_CLUSTER_pstate c 0 with power := { s.power with since := mdel c s.power.since } }
  let s := s.traceEntry d tag (s.entry d tag) 0x02 waited
  let s := if tile / 64 != d then s.traceEntry d tag (s.entry d tag) 0x08 d else s
  if e.thread then
    match e.body with
    | .thread core slot => { s with ulr := { s.ulr with ctxs := mmod (core * 32 + slot) (fun (u : UCtx) => { u with placed := s.ticks }) s.ulr.ctxs } }
    | _ => s
  else match mget e.exec s.execs with
    | none => s
    | some x => match s.planOf x with
      | none => s
      | some p => s.goOn (d * 65536 + tag) (s.workOf e.exec x p e.frag tile e.body e.route)

/-- Note once a period that a Camp's tasks are held on a die by its Ration (R290). -/
def State.noteRation (s : State) (d camp tag : Nat) : State :=
  let x := s.die d
  if x.heldRation.contains camp || s.exhaustedMask camp = 0 then s
  else (s.setDie d { x with heldRation := x.heldRation ++ [camp] }).traceEntry d tag (s.entry d tag) 0x06 (s.exhaustedMask camp)

/-- Note once a period that a Camp's tasks are held on a die by energy (R290), and count a placement withheld by a full park area (Table 06-10). -/
def State.noteHeld (s : State) (d camp tag : Nat) : State :=
  let e := s.entry d tag
  let x := s.die d
  let s := if (dieTiles d).any (fun t => s.hasRoom e t false) && !s.roomOnDie d e then s.ra .XCH_STALL_withheld camp 1 else s
  if x.heldEnergy.contains camp || !s.roomOnDie d e then s
  else (s.setDie d { x with heldEnergy := x.heldEnergy ++ [camp] }).traceEntry d tag e 0x07 (s.est camp e.taskClass)

/-- Camps with a task in a level's list, from the round-robin pointer on (R263). -/
def DieState.campsAt (x : DieState) (lvl : Nat) : List Nat :=
  let cs := ((x.ready.filter (fun r => r.level == lvl)).map (·.camp)).eraseDups
  let p := mgetD 0 lvl x.rr
  let sorted := cs.foldl (fun (l : List Nat) c => (l.filter (· < c)) ++ [c] ++ (l.filter (fun y => decide (c < y)))) []
  sorted.filter (fun c => decide (p ≤ c)) ++ sorted.filter (fun c => decide (c < p))

/-- One round of select (R264) over the levels and Camps given: whether a task was placed. -/
def selectFrom (d : Nat) : List (Nat × Nat) → State → State × Bool
  | [], s => (s, false)
  | (lvl, camp) :: l, s =>
    match (s.die d).ready.find? (fun r => r.level == lvl && r.camp == camp) with
    | none => selectFrom d l s
    | some r =>
      if !s.eligible d camp lvl then selectFrom d l (s.noteRation d camp r.tag)
      else
        let e := s.entry d r.tag
        let here := s.place d e d
        let there := if here.isNone && decide (s.rg .DPT_CTL_xdie_wait d ≤ s.ticks - e.since) then s.place d e (1 - d) else none
        match here.or there with
        | some tile => (s.startTask d r.tag tile, true)
        | none => selectFrom d l (s.noteHeld d camp r.tag)

/-- Select until nothing more can be placed on a die (R264). -/
def selectAll (d : Nat) : Nat → State → State
  | 0, s => s
  | n + 1, s =>
    let x := s.die d
    let order := (List.range 16).reverse.flatMap (fun lvl => (x.campsAt lvl).map (fun c => (lvl, c)))
    match selectFrom d order s with
    | (s, true) => selectAll d n s
    | (s, false) => s

/-- Run both dies' selection; READY work that is left has waited (R278). -/
def State.dispatch (s : State) : State :=
  if !s.alive then s else
  [0, 1].foldl (fun (s : State) d =>
    if (s.die d).ready.isEmpty then s else
    let s := selectAll d (s.die d).ready.length s
    if (s.die d).ready.isEmpty then s else s.setDie d { s.die d with workWaited := true }) s

/-! ### The end of a task (R260, R277, Table 09-3) -/

/-- A stopped task corrects its cluster's bucket and its estimate with its measured energy (R277). -/
def State.settleEnergy (s : State) (c camp cls m : Nat) : State :=
  let e := s.est camp cls
  let s := s.setLevel c (s.level c + (e : Int) - (m : Int))
  let e' : Int := (e : Int) + ((m : Int) - (e : Int)).tdiv 8
  s.rs .PWR_EST_estimate (16 * camp + cls) (max 1000 (min e' 16000000)).toNat

/-- Does the cluster hold a task (R283)? -/
def State.clusterBusy (s : State) (c : Nat) : Bool :=
  s.run.works.any (fun p => p.2.tile / 8 == c) ||
  s.dies.any (fun d => d.2.entries.any (fun p => p.2.thread && p.2.state == .running && p.2.tile / 8 == c))

/-- A Running cluster that holds no task becomes Idle (R283). -/
def State.idleIf (s : State) (c : Nat) : State :=
  if s.rg .PWR_CLUSTER_pstate c != 0 || s.clusterBusy c then s
  else { s.rs .PWR_CLUSTER_pstate c 1 with power := { s.power with since := mput c s.ticks s.power.since } }

end Sys2Proof.Machine
end

