-- ==== Sys2Proof/Machine/Ports.lean ====
section
/-! DEFINITION. Tokens and Exchange ports: quotas of an execution, packing, credits, parking, staging and delivery (R165 to R172, R228, R256). -/

namespace Sys2Proof.Machine

/-! ### Memory an execution holds (R176, R313) -/

/-- Take near-memory units for an execution; none when the Camp's quota cannot hold them. -/
def State.execTake (s : State) (id u : Nat) : Option State :=
  match mget id s.execs with
  | none => none
  | some e => (s.takeNear e.camp u).map (fun (s : State) => s.modExec id (fun (e : Exec) => { e with nearUnits := e.nearUnits + u }))

/-- Give near-memory units of an execution back. -/
def State.execGive (s : State) (id u : Nat) : State :=
  match mget id s.execs with
  | none => s
  | some e => (s.giveNear e.camp u).modExec id (fun (e : Exec) => { e with nearUnits := e.nearUnits - u })

/-- Take a Moraine page for an execution (R138, R313): it counts against the Moraine size, which is part of the near-memory quota when no DIMMs are
fitted and of the far-memory quota otherwise. Camp 0, which no descriptor limits, is not limited (DESIGN CHOICE, log 54). -/
def State.execMoraine (s : State) (id u : Nat) : Option State :=
  match mget id s.execs with
  | none => none
  | some e => match mget e.camp s.camps with
    | none => if e.camp = 0 then some (s.modExec id (fun (e : Exec) => { e with moraineUnits := e.moraineUnits + u })) else none
    | some i => if i.moraine < i.moraineUsed + u then none else
      some ({ s with camps := mput e.camp { i with moraineUsed := i.moraineUsed + u } s.camps }.modExec id
        (fun (e : Exec) => { e with moraineUnits := e.moraineUnits + u }))

/-- Give Moraine pages back. -/
def State.giveMoraine (s : State) (id u : Nat) : State :=
  match mget id s.execs with
  | none => s
  | some e => { s with camps := mmod e.camp (fun (i : CampInfo) => { i with moraineUsed := i.moraineUsed - u }) s.camps }.modExec id
      (fun (e : Exec) => { e with moraineUnits := e.moraineUnits - u })

/-- An execution fails outside any task (R232): counted once as an execution failure when it is its first (Table 16-3). -/
def State.failRun (s : State) (id status : Nat) : State :=
  match mget id s.execs with
  | some e => if e.failed.isSome then s else (s.countErr 3).failExec id status
  | none => s

/-! ### Sizes (DESIGN CHOICE, log 41: the manual gives no layout of a batch on its way) -/

/-- Digits of one value of a column on its way: a marker and the stored form, or length, prefix and heap DA of a string. -/
def Column.rowDigits (c : Column) : Nat := 1 + (if c.ty.isStr then 49 else c.ty.width)
/-- Bytes of a batch on its way: its selected rows, with 11 digits of origin where it carries one (R167). -/
def Batch.bytes (b : Batch) : Nat :=
  (b.rows * ((b.cols.map Column.rowDigits).sum + (if b.origin.isEmpty then 0 else 11)) + 1) / 2
/-- 64 KiB units that hold a batch. -/
def Batch.units (b : Batch) : Nat := units64k b.bytes

/-! ### Tokens (R256) -/

/-- How a fragment stands. -/
def Exec.frag (e : Exec) (f : Nat) : FragRun := mgetD FragRun.empty f e.frags
/-- Change how a fragment stands. -/
def Exec.modFrag (e : Exec) (f : Nat) (g : FragRun → FragRun) : Exec := { e with frags := mput f (g (e.frag f)) e.frags }

/-- A token sets out for a die: its consumer has one more token or task to complete; along a batch edge its producer has one more batch on its way. -/
def State.addTok (s : State) (k : NetTok) : State :=
  let s := { s with run := { s.run with net := mput s.run.next k s.run.net, next := s.run.next + 1 } }
  s.modExec k.exec (fun (e : Exec) =>
    let e := e.modFrag k.frag (fun g => { g with live := g.live + 1 })
    match k.src with
    | some f => e.modFrag f (fun g => { g with flying := g.flying + 1 })
    | none => e)

/-- The data edge that leaves a fragment: a batch edge, or an EXCH_END fence (R218). -/
def Plan.dataEdge (p : Plan) (f : Nat) : Option Edge := p.edges.find? (fun e => e.src == f && (e.kind == 0 || (e.kind == 1 && e.fence == 1)))

/-- The die of a place; a task that may run anywhere is created on die 0. -/
def Where.die : Where → Nat
  | .any => 0
  | .cluster c => c / 8
  | .tile t => t / 64

/-! ### Exchanges -/

/-- An exchange as its ports see it: execution, operator, mode, whether it carries origin, window, destinations, and its consumer. -/
structure Xchg where
  exec : Nat
  op : Nat
  mode : Nat
  carry : Bool
  window : Nat
  places : List Where
  dst : Nat
  onFence : Bool
  whole : Bool
  deriving DecidableEq, Repr

/-- The exchange that operator `op` of an execution's plan is. BROADCAST, and GATHER in an ordered plan, send batches whole (R168). -/
def Plan.xchg (p : Plan) (id op : Nat) : Option Xchg :=
  match p.ops[op]? with
  | none => none
  | some o => match o.body with
    | .exchange mode tiles carry window _ _ dests _ => match (p.fragOf op).bind p.dataEdge with
      | none => none
      | some e => some ⟨id, op, mode, carry || mode == 1, window,
          dests.map (fun d => if tiles then Where.tile d else Where.cluster d), e.dst, e.kind == 1, mode == 2 || (mode == 3 && p.ordered)⟩
    | _ => none

/-- The exchange of an execution. -/
def State.xchgOf (s : State) (id op : Nat) : Option Xchg :=
  match mget id s.execs with
  | none => none
  | some e => (s.planOf e).bind (fun p => p.xchg id op)

/-- Number of a port. -/
def portKey (op tile dest : Nat) : Nat := (op * 128 + tile) * 128 + dest
/-- Number of a destination of an exchange or sort. -/
def destKey (op dest : Nat) : Nat := op * 128 + dest
/-- A port of an execution. -/
def State.port (s : State) (id key : Nat) : Port :=
  match mget id s.execs with
  | some e => mgetD Port.empty key e.ports
  | none => Port.empty
/-- Replace a port. -/
def State.setPort (s : State) (id key : Nat) (q : Port) : State := s.modExec id (fun (e : Exec) => { e with ports := mput key q e.ports })

/-- The window of an exchange at a tile (R170, Table 06-8). -/
def State.windowAt (s : State) (x : Xchg) (tile : Nat) : Nat :=
  let m := s.rg .XCH_CTL_max_window tile
  min x.window (if m = 0 || 64 < m then 64 else m)

/-- Is this token, entry or work a reader of the same staging copy: the same whole batch from the same port of the same exchange on the same die? -/
def sameCopy (op src seq : Nat) (r : Option Route) (b : TokBody) : Bool :=
  match r, b with
  | some r, .batch b => r.op == op && r.src == src && b.seq == seq
  | _, _ => false

/-- Does anything still read the staging copy of a broadcast batch on a die (R169)? -/
def State.copyRead (s : State) (id die op src seq : Nat) : Bool :=
  s.run.net.any (fun k => k.2.exec == id && k.2.die == die && k.2.entry.isNone && sameCopy op src seq k.2.route k.2.body) ||
  (s.die die).entries.any (fun p => (p.2.state == .waiting || p.2.state == .ready || p.2.state == .running) && !p.2.thread && p.2.exec == id &&
    sameCopy op src seq p.2.route p.2.body)

/-- What becomes of a batch that a port would send: sent or parked; no park area to hold it yet; or no staging area for it within the quota. -/
inductive Sent where
  | ok (s : State)
  | wait
  | quota

/-- The port of `tile` sends a batch to destination `k` (R169, R170): one credit, staging on the destination's die, one copy for all destinations of a
broadcast on that die, and a token, or a place among the batches staged for an ON_FENCE task. -/
def State.sendNow (s : State) (x : Xchg) (tile k : Nat) (b : Batch) : Sent :=
  let place := x.places.getD k .any
  let u := if x.mode = 2 && s.copyRead x.exec place.die x.op tile b.seq then 0 else b.units
  match s.execTake x.exec u with
  | none => .quota
  | some s =>
    let key := portKey x.op tile k
    let q := s.port x.exec key
    let camp := match mget x.exec s.execs with
      | some e => e.camp
      | none => 0
    let s := (s.ra .XCH_STAT_sent tile 1).charge camp 1 (if u = 0 then 0 else b.bytes)
    if x.onFence then
      let s := s.setPort x.exec key { q with credits := q.credits + 1 }
      .ok (s.modExec x.exec (fun (e : Exec) => { e with staged := mput (destKey x.op k) (mgetD [] (destKey x.op k) e.staged ++ [b]) e.staged }))
    else
      let s := s.setPort x.exec key { q with credits := q.credits + 1, flying := q.flying + 1 }
      .ok (s.addTok ⟨x.exec, x.dst, place.die, .batch b, place, some ⟨x.op, tile, k⟩, none, u, false, none⟩)

/-- Offer a batch to a port: it is sent, or parked without credit or behind parked batches (R170, R171). -/
def State.offer (s : State) (x : Xchg) (tile k : Nat) (b : Batch) : Sent :=
  let key := portKey x.op tile k
  let q := s.port x.exec key
  if q.credits < s.windowAt x tile && q.parked.isEmpty then s.sendNow x tile k b
  else match s.execTake x.exec b.units with
    | none => .wait
    | some s =>
      let camp := match mget x.exec s.execs with
        | some e => e.camp
        | none => 0
      .ok (((s.ra .XCH_STALL_parked camp 1).charge camp 1 b.bytes).setPort x.exec key { q with parked := q.parked ++ [(b, b.units)] })

/-- Send parked batches while there is credit, or all of them (R170, R172). -/
def State.unpark (s : State) (x : Xchg) (tile k : Nat) (all : Bool) : Nat → State
  | 0 => s
  | n + 1 =>
    let key := portKey x.op tile k
    let q := s.port x.exec key
    match q.parked with
    | [] => s
    | (b, u) :: l =>
      if !all && s.windowAt x tile ≤ q.credits then s
      else
        let s := (s.setPort x.exec key { q with parked := l }).execGive x.exec u
        match s.sendNow x tile k b with
        | .ok s => s.unpark x tile k all n
        | .wait | .quota => s.failRun x.exec stQuotaExhausted

/-- An exchanged batch was consumed or dropped: its credit returns and the pair's parked batches follow (R170). -/
def State.creditBack (s : State) (id : Nat) (r : Route) : State :=
  match s.xchgOf id r.op with
  | none => s
  | some x =>
    let key := portKey r.op r.src r.dest
    let q := s.port id key
    let s := s.setPort id key { q with credits := q.credits - 1 }
    s.unpark x r.src r.dest false q.parked.length

/-- A batch of a route has been delivered. -/
def State.landed (s : State) (id : Nat) (r : Route) : State :=
  let key := portKey r.op r.src r.dest
  let q := s.port id key
  s.setPort id key { q with flying := q.flying - 1 }

/-- The batch packed so far at a port, numbered (Table 08-12). -/
def Port.packed (q : Port) (tile : Nat) : Batch := Batch.full (tile * 2 ^ 25 + q.n) q.packRows q.pack q.packOrigin

/-- Send what a port has packed. -/
def State.emitPack (s : State) (x : Xchg) (tile k : Nat) : Sent :=
  let key := portKey x.op tile k
  let q := s.port x.exec key
  if q.packRows = 0 then .ok s else
  (s.setPort x.exec key { q with pack := [], packRows := 0, packOrigin := [], n := q.n + 1 }).offer x tile k (q.packed tile)

/-- Append rows to what a port has packed. -/
def Port.add (q : Port) (cols : List Column) (origin : List (Nat × Nat)) (rows now : Nat) : Port :=
  { q with
    pack := if q.packRows = 0 then cols else List.zipWith (fun (a b : Column) => { a with vals := a.vals ++ b.vals }) q.pack cols
    packRows := q.packRows + rows
    packOrigin := q.packOrigin ++ origin
    lastTick := now }

/-- Pack rows of a batch for a destination (R168): the pack is sent whenever it reaches 4,096 rows, and at once when packing is disabled. -/
def State.packRows (x : Xchg) (tile k : Nat) (b : Batch) : Nat → State → List Nat → Sent
  | 0, s, _ => .ok s
  | _ + 1, s, [] => .ok s
  | n + 1, s, rows =>
    let key := portKey x.op tile k
    let q := s.port x.exec key
    let now := rows.take (4096 - q.packRows)
    let q := q.add (pickRows b.cols now) (if x.carry then now.map b.originOf else []) now.length s.ticks
    let s := s.setPort x.exec key q
    if q.packRows = 4096 || s.rg .XCH_CTL_flush_ticks tile = 0 then
      match s.emitPack x tile k with
      | .ok s => State.packRows x tile k b n s (rows.drop now.length)
      | r => r
    else .ok s

/-- Fold a step over destinations until one waits or fails. -/
def sendFold {α : Type} (f : State → α → Sent) : List α → State → Sent
  | [], s => .ok s
  | a :: l, s => match f s a with
    | .ok s => sendFold f l s
    | r => r

/-- Flush what every port of an exchange has packed, and what an ON_FENCE consumer's ports have parked (R172). -/
def State.flushPorts (s : State) (x : Xchg) : State :=
  let keys : List Nat := match mget x.exec s.execs with
    | some e => (e.ports.map (·.1)).filter (fun k => k / 16384 == x.op)
    | none => []
  keys.foldl (fun (s : State) key =>
    let tile := key / 128 % 128
    let k := key % 128
    let s := match s.emitPack x tile k with
      | .ok s => s
      | .wait | .quota => s.failRun x.exec stQuotaExhausted
    if x.onFence then s.unpark x tile k true (s.port x.exec key).parked.length else s) s

/-- Does a port hold or fly nothing? -/
def Port.idle (q : Port) : Bool := q.packRows == 0 && q.parked.isEmpty && q.flying == 0

/-- Has everything sent toward a destination been delivered? -/
def Exec.destIdle (e : Exec) (op dest : Nat) : Bool := e.ports.all (fun p => !(p.1 / 16384 == op && p.1 % 128 == dest) || p.2.idle)
/-- Has everything sent through an exchange been delivered? -/
def Exec.portsIdle (e : Exec) (op : Nat) : Bool := e.ports.all (fun p => !(p.1 / 16384 == op) || p.2.idle)

/-- EXCHANGE_FLUSH_TIMEOUT (R168): after `dt` ticks a port's packing timeout has passed since its last row, and it sends what it has packed. -/
def execExchangeFlushTimeout (dt id op tile dest : Nat) (s : State) : Res :=
  let s := s.advance dt
  let q := s.port id (portKey op tile dest)
  if !s.alive || q.packRows = 0 || s.ticks < q.lastTick + s.rg .XCH_CTL_flush_ticks tile then .next s
  else match mget id s.execs, s.xchgOf id op with
    | some e, some x => if e.cancelled then .next s else
      (match s.emitPack x tile dest with
      | .ok s => .next s
      | .wait => .next s
      | .quota => .next (s.failRun id stQuotaExhausted))
    | _, _ => .next s

end Sys2Proof.Machine
end

