-- ==== Sys2Proof/Machine/Progress.lean ====
section
/-! DEFINITION. How fragments close, run their final phases and complete, and how fences fire (R172, R213, R214, R226, R257). -/

namespace Sys2Proof.Machine

/-- Destinations of the exchange that ends fragment `f`, with its operator. -/
def Plan.exchAt (p : Plan) (f : Nat) : Option (Nat × List Where) :=
  match p.frags[f]? with
  | none => none
  | some fr =>
    let op := fr.first + fr.count - 1
    match p.ops[op]? with
    | none => none
    | some o => (exchangeOf o).map (fun x => (op, x.2.2.map (fun d => if x.2.1 then Where.tile d else Where.cluster d)))

/-- Fence edges into a fragment. -/
def Plan.fencesOf (p : Plan) (f : Nat) : List Edge := p.edges.filter (fun e => e.dst == f && e.kind == 1)

/-- Has the end fence of fragment `g`'s exchange reached destination k (R172)? -/
def Exec.endedAt (e : Exec) (p : Plan) (g k : Nat) : Bool :=
  match p.exchAt g with
  | some (op, _) => e.ended.contains (destKey op k)
  | none => true

/-- The tasks of an ON_FENCE fragment (R213): one for each destination of the exchange whose end fence it takes, or one. -/
def Plan.onFenceTasks (p : Plan) (f : Nat) : List (Option Nat × Where) :=
  match (p.fencesOf f).find? (fun e => e.fence == 1) with
  | none => [(none, .any)]
  | some e => match p.exchAt e.src with
    | none => [(none, .any)]
    | some (_, ds) => ds.zipIdx.map (fun d => (some d.2, d.1))

/-! ### Input closing (R214) -/

/-- Has a fragment's input closed? -/
def Exec.inputDone (e : Exec) (p : Plan) (i : Nat) (f : Frag) : Bool :=
  let r := e.frag i
  r.live == 0 &&
  (if f.onFence then r.made.length == (p.onFenceTasks i).length
   else match p.feeder i with
   | none => true
   | some g => (e.frag g).complete && (match p.exchAt g with
     | some (_, ds) => (List.range ds.length).all (e.endedAt p g)
     | none => (e.frag g).flying == 0))

/-- Key of a join table as its build leaves it, and as a probe operator has changed it. -/
def buildKey (id copy : Nat) : Nat := id * 128 + copy
def probeKey (op copy : Nat) : Nat := (op + 1) * 32768 + copy

/-- The copies of a join's table. -/
def Exec.copies (e : Exec) (id : Nat) : List Nat := (e.joins.map (·.1)).filterMap (fun k => if k / 128 = id then some (k % 128) else none)

/-- A join table as a probe operator sees it. -/
def Exec.tabAt (e : Exec) (op id copy : Nat) : Option JoinTab := (mget (probeKey op copy) e.joins).or (mget (buildKey id copy) e.joins)

/-- Copies of the table of a probe operator that its final phase still has to work on: spilled partitions, or records left for an unmatched scan. -/
def Exec.probeLeft (e : Exec) (op id kind : Nat) : List Nat :=
  (e.copies id).filter (fun c => match e.tabAt op id c with
    | some t => !t.parts.isEmpty || ((kind == 2 || kind == 3) && !t.chains.isEmpty)
    | none => false)

/-- Where the final phase of a copy of a join table runs: on its cluster, or, for a copy shared by all, anywhere. -/
def copyPlace (p : Plan) (id copy : Nat) : Where :=
  match p.buildOf id with
  | some (o, i) => (match o.body with
    | .joinBuild _ _ true _ _ _ => (match (p.fragOf i).bind p.feeder with
      | some g => (match p.exchAt g with
        | some (_, ds) => ds.getD copy .any
        | none => .any)
      | none => .any)
    | _ => .cluster copy)
  | none => .any

/-- Final tasks of the probes of a fragment, the first probe with work left first (R134). -/
def Exec.probeFinals (e : Exec) (p : Plan) (f : Frag) : List (TokBody × Where) :=
  (((p.opsOf f).zipIdx.map (fun o => match o.1.body with
    | .joinProbe id kind => (e.probeLeft (f.first + o.2) id kind).map (fun c => (TokBody.final (f.first + o.2) c, copyPlace p id c))
    | _ => [])).find? (fun l => !l.isEmpty)).getD []

/-- Where a destination of the exchange that feeds a fragment lies; a fragment without one runs anywhere. -/
def Plan.destPlace (p : Plan) (i k : Nat) : Where :=
  match (p.feeder i).bind p.exchAt with
  | some (_, ds) => ds.getD k .any
  | none => .any

/-- Final tasks of the last operator of a fragment (R141, R159, R144): a keyed aggregate's cluster tables, a keyless one's single table, a sort's destinations. -/
def Exec.lastFinals (e : Exec) (p : Plan) (i : Nat) (f : Frag) : List (TokBody × Where) :=
  let op := f.first + f.count - 1
  match p.ops[op]? with
  | none => []
  | some o => match o.body with
    | .aggregate 0 true _ _ => [(.final op (match p.destPlace i 0 with | .cluster c => c | .tile t => t / 8 | .any => 0), p.destPlace i 0)]
    | .aggregate _ true _ _ => (e.groups.filter (fun g => g.1 / 32 == op)).map (fun g => (.final op (g.1 % 32), .cluster (g.1 % 32)))
    | .sort _ _ _ _ => (e.sorts.filter (fun g => g.1 / 128 == op)).map (fun g => (.final op (g.1 % 128), p.destPlace i (g.1 % 128)))
    | _ => []

/-- Create final tasks. -/
def State.addFinals (s : State) (id frag : Nat) (l : List (TokBody × Where)) : State :=
  l.foldl (fun (s : State) x => s.addTok ⟨id, frag, x.2.die, x.1, x.2, none, none, 0, false, none⟩) s

/-- Must a fragment's final phases still wait? Their tasks are tasks of the fragment, so its fences satisfy their slots first (R213, R214; log 106). -/
def Exec.finalsWait (e : Exec) (p : Plan) (i : Nat) (f : Frag) : Bool :=
  (p.opsOf f).any (fun o => match o.body with
    | .joinProbe _ _ | .aggregate _ true _ _ | .sort _ _ _ _ => true
    | _ => false) && (p.fencesOf i).any (fun x => !(e.frag i).slots.contains x.slot)

/-- Move one fragment on: its input closes, its final phases start, it completes. -/
def State.settleFrag (id : Nat) (s : State) (i : Nat) : State :=
  match mget id s.execs with
  | none => s
  | some e => match s.planOf e with
    | none => s
    | some p => match p.frags[i]? with
      | none => s
      | some f =>
        let r := e.frag i
        if r.complete || e.cancelled || e.failed.isSome then s
        else if !r.closed && !e.inputDone p i f then s
        else if r.live != 0 then s
        else
          let s := s.modExec id (fun (e : Exec) => e.modFrag i (fun g => { g with closed := true }))
          if e.finalsWait p i f then s else
          match e.probeFinals p f with
          | x :: l => s.addFinals id i (x :: l)
          | [] =>
            let fin := if r.final < 2 then e.lastFinals p i f else []
            let s := s.modExec id (fun (e : Exec) => e.modFrag i (fun g => { g with final := 2, complete := fin.isEmpty }))
            s.addFinals id i fin

/-- Move an execution's fragments on until nothing changes: along its edges no chain is longer than its fragments. -/
def State.settleExec (s : State) (id : Nat) : State :=
  match (mget id s.execs).bind s.planOf with
  | none => s
  | some p =>
    let l := List.range p.frags.length
    l.foldl (fun (s : State) _ => l.foldl (State.settleFrag id) s) s

/-! ### Fences (R226, R257) -/

/-- Fence slots of a fragment, as a mask. -/
def Plan.fenceMask (p : Plan) (f : Nat) : Nat := ((p.fencesOf f).map (fun e => 2 ^ e.slot)).sum

/-- Slots that have fired, as a mask. -/
def FragRun.mask (r : FragRun) : Nat := (r.slots.map (2 ^ ·)).sum

/-- A slot of a fragment fires: every entry of it marks the slot arrived (R257), and becomes READY when that was its last (R258). -/
def State.fireSlot (s : State) (id : Nat) (p : Plan) (dst slot : Nat) : State :=
  let s := s.modExec id (fun (e : Exec) => e.modFrag dst (fun g => if g.slots.contains slot then g else { g with slots := g.slots ++ [slot] }))
  let left := match mget id s.execs with
    | some e => p.fenceMask dst != 0 && (p.fencesOf dst).any (fun x => !(e.frag dst).slots.contains x.slot)
    | none => false
  [0, 1].foldl (fun (s : State) d =>
    let tags := ((s.die d).entries.filter (fun q => q.2.state == .waiting && !q.2.thread && q.2.exec == id && q.2.frag == dst)).map (·.1)
    tags.foldl (fun (s : State) t =>
      let e := s.entry d t
      let s := s.setEntry d t { e with arrived := if bits e.arrived slot 1 = 1 then e.arrived else e.arrived + 2 ^ slot, fenceBound := left }
      s.readyIf d t) s) s

/-- Create the ON_FENCE tasks whose fence slots have all fired (R213, R257). -/
def State.onFence (s : State) (id : Nat) (p : Plan) : State :=
  p.frags.zipIdx.foldl (fun (s : State) q =>
    if !q.1.onFence then s else
    match mget id s.execs with
    | none => s
    | some e =>
      let r := e.frag q.2
      let fs := p.fencesOf q.2
      if (fs.filter (·.fence == 0)).any (fun x => !r.slots.contains x.slot) then s else
      ((p.onFenceTasks q.2).zipIdx.filter (fun t => !r.made.contains t.2 &&
          (match t.1.1 with
           | some k => (fs.filter (·.fence == 1)).all (fun x => e.endedAt p x.src k)
           | none => true))).foldl (fun (s : State) t =>
        let s := s.addTok ⟨id, q.2, t.1.2.die, .fence t.1.1, t.1.2, none, none, 0, false, none⟩
        s.modExec id (fun (e : Exec) => e.modFrag q.2 (fun g => { g with made := g.made ++ [t.2] }))) s) s

/-- After fences: ON_FENCE tasks, closings, selection. -/
def State.afterFence (s : State) (id : Nat) (p : Plan) : State := ((s.onFence id p).settleExec id).dispatch

/-- Flush the ports of a completed fragment once (R172). -/
def State.flushFrag (s : State) (id f : Nat) (p : Plan) : State :=
  match mget id s.execs with
  | none => s
  | some e =>
    if !(e.frag f).complete || (e.frag f).flushed then s else
    let s := match p.exchAt f with
      | some (op, _) => (match s.xchgOf id op with | some x => s.flushPorts x | none => s)
      | none => s
    s.modExec id (fun (e : Exec) => e.modFrag f (fun g => { g with flushed := true }))

/-- Has everything a fragment emitted been delivered? -/
def Exec.fragIdle (e : Exec) (p : Plan) (f : Nat) : Bool :=
  (e.frag f).flying == 0 && (match p.exchAt f with
    | some (op, _) => e.portsIdle op
    | none => true)

/-- FENCE_FIRE (R226, R172): the ports of a completed fragment are flushed; once everything it emitted has been delivered, its COMPLETE fence fires, once. The
fences of a failed or aborted execution never fire (R232). -/
def execFenceFire (id f : Nat) (s : State) : Res :=
  if !s.alive then .next s else
  match mget id s.execs with
  | none => .next s
  | some e => match s.planOf e with
    | none => .next s
    | some p =>
      if e.cancelled || e.failed.isSome || !(e.frag f).complete || (e.frag f).fired then .next s else
      let s := s.flushFrag id f p
      match mget id s.execs with
      | none => .next s
      | some e =>
        if e.cancelled || !e.fragIdle p f then .next s else
        let s := s.modExec id (fun (e : Exec) => e.modFrag f (fun g => { g with fired := true }))
        let es := p.edges.filter (fun x => x.src == f && x.kind == 1 && x.fence == 0)
        .next ((es.foldl (fun (s : State) x => s.fireSlot id p x.dst x.slot) s).afterFence id p)

/-- EXCH_END_FIRE (R172): the end fence of an exchange reaches a destination once every batch sent there has been delivered. -/
def execExchEndFire (id op dest : Nat) (s : State) : Res :=
  if !s.alive then .next s else
  match mget id s.execs with
  | none => .next s
  | some e => match s.planOf e with
    | none => .next s
    | some p => match p.fragOf op with
      | none => .next s
      | some f =>
        let isX := match p.exchAt f with
          | some (o, ds) => o == op && decide (dest < ds.length)
          | none => false
        if !isX || e.cancelled || e.failed.isSome || !(e.frag f).complete || e.ended.contains (destKey op dest) then .next s else
        let s := s.flushFrag id f p
        match mget id s.execs with
        | none => .next s
        | some e =>
          if e.cancelled || !e.destIdle op dest then .next s else
          .next ((s.modExec id (fun (e : Exec) => { e with ended := e.ended ++ [destKey op dest] })).afterFence id p)

end Sys2Proof.Machine
end

