-- ==== Sys2Proof/Machine/Rows.lean ====
section
/-! DEFINITION. The Arithmetic unit's row groups, string casts, and the Hash unit (R90 to R110, R116 to R121). -/

namespace Sys2Proof.Machine

/-! ### Strips -/

/-- A COMPUTE in hand: its strip and the types its operands have. -/
structure StripRun where
  strip : Strip
  types : StripTypes
  deriving DecidableEq, Repr

/-- The strip of the COMPUTE in hand over a batch whose input columns are values. -/
def Task.stripRun (t : Task) (o : PlanOp) (b : Batch) (off len : Nat) : StripRun :=
  let p := stripRead ((t.p.blob.drop off).take len)
  ⟨p, ⟨(List.range p.inCount).map (fun k => (o.ins[k]?).bind (fun i => (b.cols[i]?).map (·.ty))),
    p.consts.map (fun k => (t.p.consts[k]?).map (·.ty)),
    p.params.map (fun k => (t.p.params[k]?).map (·.ty))⟩⟩

/-- A constant or parameter of the strip. -/
def Task.stripLit (t : Task) (p : Strip) (x : Nat) : Lit :=
  if x < 0xC0 then ((p.consts[x - 0x80]?).bind (fun k => (t.p.consts[k]?).map (·.lit))).getD .null
  else match (p.params[x - 0xC0]?).bind (fun k => mget k t.e.binds) with
    | some (.value v) => v
    | some (.table _) | none => .null

/-- Rows of row group g of a batch. -/
def groupRows (b : Batch) (g : Nat) : List Nat := (List.range (min 256 (b.rows - 256 * g))).map (· + 256 * g)

/-- A constant as a lane value. -/
def litLane (ty : Option ColType) (v : Lit) : Lane :=
  match v, ty with
  | .dig d, some ty => some (storedInt ty d)
  | .str _, _ => some 0
  | .null, _ | .dig _, none => none

/-- The source lanes of a row group: inputs, constants and parameters (Table 04-4). -/
def Task.sourceLanes (t : Task) (x : StripRun) (o : PlanOp) (b : Batch) (rows : List Nat) : Map (List Lane) :=
  let ins := (List.range x.strip.inCount).map (fun k => match (o.ins[k]?).bind (fun i => b.cols[i]?) with
    | some c => (0x40 + k, rows.map (fun r => laneOf c.ty (c.at r)))
    | none => (0x40 + k, []))
  let lit (base n : Nat) (tys : List (Option ColType)) : Map (List Lane) :=
    (List.range n).map (fun k => (base + k, rows.map (fun _ => litLane ((tys[k]?).join) (t.stripLit x.strip (base + k)))))
  ins ++ lit 0x80 x.strip.consts.length x.types.consts ++ lit 0xC0 x.strip.params.length x.types.params

/-- A source of a string cast at a row, none where it is null. -/
def Task.castSource (t : Task) (p : Strip) (o : PlanOp) (b : Batch) (x r : Nat) : Option ColVal :=
  if 0x40 ≤ x ∧ x < 0x80 then
    match (o.ins[x - 0x40]?).bind (fun i => b.cols[i]?) with
    | none => none
    | some c => if c.at r == .null then none else some (c.at r)
  else match t.stripLit p x with
    | .str s => some (.str s.length (s.take 16) 0)
    | .null | .dig _ => none

/-- Is operation i a string cast (R91)? -/
def StripOp.isCast (o : StripOp) : Bool := stripBase o.code == 0x38 || stripBase o.code == 0x3E

/-- Key of a cast: operation and row. -/
def castKey (op r : Nat) : Nat := op * 4096 + r

/-- The casts that the lanes wait for at the selected rows of a row group. -/
def Task.castsMissing (t : Task) (p : Strip) (o : PlanOp) (b : Batch) (rows : List Nat) : List (Nat × Nat) :=
  p.ops.zipIdx.flatMap (fun q => if !q.1.isCast then [] else
    (rows.filter (fun r => b.live r && (t.castSource p o b q.1.a r).isSome && !mhas (castKey q.2 r) t.w.casts)).map (fun r => (q.2, r)))

/-- Code of an arithmetic exception in ARU_EXCLOG, and the status it fails a command with (R107, Table 12-11). -/
def ArithExc.code : ArithExc → Nat
  | .overflow => 1
  | .divideByZero => 2
  | .invalidCast => 3
def ArithExc.status : ArithExc → Nat
  | .overflow => stOverflow
  | .divideByZero => stDivideByZero
  | .invalidCast => stInvalidCast

/-- Count a task's exception in its Camp's ARU_EXC (R108, R143). -/
def State.countExc (s : State) (camp : Nat) (x : ArithExc) : State :=
  match x with
  | .overflow => s.ra .ARU_EXC_overflow camp 1
  | .divideByZero => s.ra .ARU_EXC_div_zero camp 1
  | .invalidCast => s.ra .ARU_EXC_invalid_cast camp 1

/-- Latch the first exception of a tile (R110). -/
def State.latchExc (s : State) (t : Task) (op row : Nat) (x : ArithExc) : State :=
  let n := t.w.tile
  if s.rg .ARU_EXCLOG_valid n = 1 then s else
  let die := t.key / 65536
  let tag := t.key % 65536
  ((((((s.rs .ARU_EXCLOG_op_index n op).rs .ARU_EXCLOG_row n row).rs .ARU_EXCLOG_kind n x.code).rs .ARU_EXCLOG_camp n t.w.camp).rs
    .ARU_EXCLOG_task_tag n tag).rs .ARU_EXCLOG_epoch n (s.entry die tag).epoch).rs .ARU_EXCLOG_valid n 1

/-- Fill input columns of the batch in hand and keep the values: the task's work and batch, or what the command does instead. -/
def State.withCols (s : State) (t : Task) (cols : List Nat) (b : Batch) (k : State → Work → Batch → Res) : Res :=
  match fillCols cols s t.w b [] with
  | (s, .wait _) => .next s
  | (s, .drop c da) => .next ((s.dropBatch t t.w .malformed c da).settleWork t.key)
  | (s, .ok w b) => k s { w with todo := match w.todo with
      | (i, _) :: l => (i, b) :: l
      | [] => [] } b

/-- The batch in hand goes on with an operator's produced columns; a batch with no row left goes no further (R84). -/
def State.passOn (s : State) (t : Task) (w : Work) (o : PlanOp) (b : Batch) (made : List Column) : State :=
  if b.sel.any id then s.goOn t.key (w.next { b with cols := o.outCols made b }) else s.goOn t.key w.pop

/-- A task fails for data that the device lost: its command fails with DATA_LOSS, logged, and a STRICT command quarantines its Camp (R137, R151). -/
def State.loseData (s : State) (t : Task) (w : Work) (unit da : Nat) : State :=
  (s.setWork t.key { w with failed := some stDataLoss }).dataLoss w.exec unit da w.tile

/-- What tile scratch answers (R314): a corrected word is counted, and an uncorrectable one fails the task that holds the region. -/
def State.scratchEcc (s : State) (t : Task) (ecc : Ecc) : State :=
  match ecc with
  | .ok => s
  | .corrected => (s.ra .CCH_PARITY_scratch_corrected t.w.cluster 1).countErr 1
  | .uncorrectable => (s.cchErr t.w.cluster 0 6 t.w.exec).loseData t t.w 0x08 0

/-- STRIP_ROW_GROUP (R90, R95, R100, R107, R108): once every cast of the group has its result, every operation of the strip runs on the next 256 rows in strip order; the
first exception stops and fails the task. `ecc` is what tile scratch answers meanwhile. -/
def execStripRowGroup (die tag : Nat) (ecc : Ecc) (s : State) : Res :=
  match s.task die tag with
  | none => .next s
  | some t => match t.head with
    | none => .next s
    | some (_, o, b) => match o.body with
      | .compute off len =>
        let s := s.scratchEcc t ecc
        if ecc == .uncorrectable then .next s else
        s.withCols t o.ins b (fun s w b =>
          let t := { t with w := w }
          let x := t.stripRun o b off len
          let rows := groupRows b w.pos
          if !(t.castsMissing x.strip o b rows).isEmpty then .next (s.setWork t.key w) else
          let sel := rows.map b.live
          let cast (i r : Nat) : Option (Int × Nat) := (mgetD none (castKey i (256 * w.pos + r)) w.casts)
          let s := s.ra .ARU_STRIPS_row_groups w.tile 1
          match runGroup x.strip x.types rows.length sel cast x.strip.ops.zipIdx ⟨t.sourceLanes x o b rows, [], sel⟩ 0 with
          | .error (op, r, e) =>
            let s := (((s.ra .ARU_STRIPS_tasks w.tile 1).countExc w.camp e).latchExc t op (256 * w.pos + r) e)
            .next (s.failTask t w e.status)
          | .ok (l, nulled) =>
            let s := s.ra .ARU_NULLED_rows w.camp nulled
            let outs := x.strip.outs.zipIdx.map (fun q =>
              let v := mgetD [] (0xD0 + q.2) l.vals
              let vals := (List.range rows.length).map (fun r => if sel.getD r false then laneStored q.1 (v.getD r none) else ColVal.null)
              (⟨q.1, none, ((w.made[q.2]?).map (·.vals)).getD [] ++ vals⟩ : Column))
            let w := { w with made := outs, pos := w.pos + 1 }
            if b.rows ≤ 256 * w.pos then .next ((s.ra .ARU_STRIPS_tasks w.tile 1).passOn t w o b outs)
            else .next (s.setWork t.key w))
      | _ => .next s

/-- STRING_CAST (R91, R103): the tile core reads a string of the row group in hand and parses it. A heap record that fails drops the row (R50). -/
def execStringCast (die tag op row : Nat) (s : State) : Res :=
  match s.task die tag with
  | none => .next s
  | some t => match t.head with
    | none => .next s
    | some (_, o, b) => match o.body with
      | .compute off len => s.withCols t o.ins b (fun s w b =>
          let t := { t with w := w }
          let x := t.stripRun o b off len
          if !(t.castsMissing x.strip o b (groupRows b w.pos)).contains (op, row) then .next (s.setWork t.key w) else
          let done (s : State) (c : StripOp) (v : Bytes) : Res :=
            .next (s.setWork t.key { w with casts := mput (castKey op row) (parseNumber (stripBase c.code == 0x38) v) w.casts })
          match x.strip.ops[op]? with
          | none => .next s
          | some c => if c.a < 0x80 then match t.castSource x.strip o b c.a row with
              | some (.str n pre da) =>
                let s := s.chargeTask w da (heapBytes n)
                match s.strBytes (some w.cluster) n pre da with
                | .ok v => done s c v
                | .error e => .next (s.dropRow t w row e da)
              | some _ | none => .next s
            else match t.stripLit x.strip c.a with
              | .str v => done s c v
              | .null | .dig _ => .next s)
      | _ => .next s

/-! ### The Hash unit -/

/-- Key references that an operator's rows are hashed by (R120, R165): the operator itself, a join side, a keyed grouping, or a HASH exchange. -/
def PlanOp.hashCols (o : PlanOp) : List Nat :=
  match o.body with
  | .hash | .joinProbe _ _ => o.ins
  | .joinBuild _ _ _ k _ _ => o.ins.take k
  | .aggregate k _ _ _ => o.ins.take k
  | .exchange 0 _ _ _ _ _ _ _ => o.ins
  | _ => []

/-- The key digit string of a row (R116), or the heap record that fails it. -/
def State.keyString (s : State) (cl : Nat) (r : Nat) : List Column → Except (HeapFault × Nat) Digits
  | [] => .ok []
  | c :: l =>
    let v := c.at r
    let b : Except (HeapFault × Nat) Bytes := match v with
      | .str n pre da => (match s.strBytes (some cl) n pre da with | .ok b => .ok b | .error e => .error (e, da))
      | .null | .dig _ => .ok []
    match b with
    | .error e => .error e
    | .ok b => match s.keyString cl r l with
      | .ok d => .ok (keyDigs v b ++ d)
      | .error e => .error e

/-- Heap reads of a row's key: DA and bytes. -/
def keyReads (cols : List Column) (r : Nat) : List (Nat × Nat) :=
  cols.filterMap (fun c => match c.at r with
    | .str n _ da => if 16 < n then some (da, heapBytes n) else none
    | .null | .dig _ => none)

/-- The hashes of the batch in hand so far, as the fragment's internal column. -/
def Work.hashes (w : Work) : List ColVal := ((w.made.head?).map (·.vals)).getD []
/-- The salt-0 hash of a row of the batch in hand. -/
def Work.hashOf (w : Work) (r : Nat) : Nat := match w.hashes[r]? with
  | some (.dig d) => digsNat d
  | _ => 0
/-- Put a hash after the others. -/
def Work.addHash (w : Work) (h : Nat) : Work := { w with made := [⟨⟨tUint64, 0, 0⟩, none, w.hashes ++ [.dig (natDigs 16 h)]⟩] }

/-- Hash one row of the batch in hand; a row that is not selected gets 0. -/
def hashRow (key : Nat) (cols : List Nat) (s : State) (r : Nat) : State :=
  match s.taskAt key with
  | none => s
  | some t => if t.w.failed.isSome then s else
    match t.w.todo with
    | [] => s
    | (_, b) :: _ =>
      if !b.live r then s.setWork key (t.w.addHash 0) else
      let cs := cols.filterMap (fun i => b.cols[i]?)
      let s := (keyReads cs r).foldl (fun (s : State) (x : Nat × Nat) => s.chargeTask t.w x.1 x.2) s
      match s.keyString t.w.cluster r cs with
      | .error (e, da) => s.dropRow t (t.w.addHash 0) r e da
      | .ok k =>
        let s := s.ra .HSH_ROWS_rows t.w.tile 1
        let s := if 64 < k.length then s.ra .HSH_ROWS_core_rows t.w.tile 1 else s
        s.setWork key (t.w.addHash (khash k 0))

/-- Are the hashes of the batch in hand complete? -/
def Work.hashed (w : Work) (b : Batch) : Bool := w.hashes.length == b.rows

/-- HASH_GROUP (R116, R119, R121): the next 128 rows of the batch in hand are hashed by the operator's key columns; strings beyond 64 digits by the tile core, a failing heap
record dropping its row. -/
def execHashGroup (die tag : Nat) (s : State) : Res :=
  match s.task die tag with
  | none => .next s
  | some t => match t.head with
    | none => .next s
    | some (_, o, b) =>
      if o.hashCols.isEmpty || t.w.hashed b then .next s else
      s.withCols t o.hashCols b (fun s w b =>
        let n := w.hashes.length
        let s := ((List.range (min 128 (b.rows - n))).map (· + n)).foldl (hashRow t.key o.hashCols) (s.setWork t.key w)
        match s.taskAt t.key with
        | none => .next s
        | some t => match t.w.failed.isSome, t.w.todo, o.body with
          | false, (_, b) :: _, .hash => if t.w.hashed b then .next (s.passOn t t.w o b t.w.made) else .next s
          | _, _, _ => .next s)

end Sys2Proof.Machine
end

