-- ==== Sys2Proof/Machine/Spill.lean ====
section
/-! DEFINITION. Build records and spill pages: layout, writing, and reading back (R125, R133, R136 to R138). -/

namespace Sys2Proof.Machine

/-! ### Records (Table 05-3) -/

/-- Bytes rounded up to a multiple of 16. -/
def pad16 (n : Nat) : Nat := (n + 15) / 16 * 16

/-- Digits as bytes, zero-padded to a 16-byte boundary. -/
def digitArea (d : Digits) : Bytes := bslice (digitBytes d) 0 (pad16 ((d.length + 1) / 2))

/-- Length of a build record in bytes. -/
def Rec.len (r : Rec) : Nat := 16 + (digitArea r.key).length + (digitArea r.pay).length

/-- Bytes of a build record. -/
def Rec.bytes (r : Rec) : Bytes :=
  leBytes 4 (r.len % 2 ^ 13 + 2 ^ 13 * (r.key.length % 2 ^ 8) + (if r.matched then 2 ^ 31 else 0)) ++ leBytes 4 0 ++ leBytes 8 r.hash ++
    digitArea r.key ++ digitArea r.pay

/-- The stored key form of a row over columns (R125). -/
def rowKeyForm (cols : List Column) (r : Nat) : Digits := cols.flatMap (fun c => keyForm (c.at r))

/-! ### Pages (Table 05-5) -/

/-- Records of a page. -/
def PageBody.count : PageBody → Nat
  | .recs l => l.length
  | .groups l => l.length
  | .sorts l => l.length
  | .bitmap l => l.length

/-- A page's image: its header, its CRC and its records. -/
def pageImage (magic kind level path count next : Nat) (body : Bytes) : Bytes :=
  let h := leBytes 4 (magic + 2 ^ 16 + 2 ^ 24 * kind) ++ leBytes 4 level ++ leBytes 4 path ++ leBytes 4 (count % 2 ^ 13) ++ leBytes 4 (64 + body.length) ++
    leBytes 8 next ++ List.replicate 32 0
  h ++ leBytes 4 (crc32c (h ++ body)) ++ body

/-- Size of a page in digits. -/
def pageDigits : Nat := 131072

/-- Memory in use by plan copies, tables, the snapshots of executions and their pages. -/
def State.inUse (s : State) : List Extent :=
  (s.plans.plans.filter (fun q => q.2.plan.isSome)).map (fun q => (⟨q.2.da, 65536 * q.2.units⟩ : Extent)) ++
  (s.plans.tables.filterMap (fun q => q.2.tab)).flatMap (fun t => ⟨t.da, t.batches.length * (8 + 8 * t.cols.length)⟩ :: t.batches.flatMap (·.own)) ++
  s.execs.flatMap (fun e => e.2.snaps.flatMap (fun t => t.2.batches.flatMap (·.own)) ++ e.2.pages.map (fun da => ⟨da, 65536⟩))

/-- Do two pieces of memory share a digit? -/
def Extent.meets (x y : Extent) : Bool := decide (max x.da y.da < min (x.da + 2 * x.bytes) (y.da + 2 * y.bytes))

/-- Is memory at a DA in no use? -/
def State.unused (s : State) (da n : Nat) : Bool := !s.inUse.any (fun x => x.meets ⟨da, n⟩)

/-- Are pieces of memory apart from one another? -/
def extentsApart : List Extent → Bool
  | [] => true
  | x :: l => !l.any x.meets && extentsApart l

/-- Can a page of a tier lie at this DA: aligned, in memory that exists and is in no use? -/
def State.pageFree (s : State) (far : Bool) (da : Nat) : Bool :=
  da % pageDigits == 0 && s.inTier (if far then 1 else 0) da pageDigits && s.unused da 65536

/-- Do the Camps' Moraines lie in far memory (R26, R313)? -/
def State.moraineFar (s : State) : Bool := s.farBytes != 0

/-- Something that pages were needed for: done, with the DAs left over; no DA to go on with; or no Moraine left. -/
inductive Paged (α : Type) where
  | ok (s : State) (a : α) (das : List Nat)
  | wait
  | full

/-- Open a Moraine page at the first of the DAs offered (R138). -/
def State.openPage (s : State) (id : Nat) (das : List Nat) : Paged Nat :=
  match das with
  | [] => .wait
  | da :: l =>
    if !s.pageFree s.moraineFar da then .wait else
    match s.execMoraine id 1 with
    | none => .full
    | some s => .ok (s.modExec id (fun (e : Exec) => { e with pages := e.pages ++ [da] })) da l

/-- Write a spill page of a join or aggregate task (R136, R150). -/
def State.writePage (s : State) (w : Work) (da kind level path count next : Nat) (body : Bytes) : State :=
  let b := pageImage 0x3A11 kind level path count next body
  let s := ((s.memPut da b).chargeDev w.camp da b.length).ra .JNU_SPILL_written w.camp 1
  s.rs .JNU_SPILL_deepest w.camp (max (s.rg .JNU_SPILL_deepest w.camp) level)

/-- Put a record into a partition's pages: a page is opened at its first record and written once the next is. -/
def State.pagePut (s : State) (w : Work) (kind level path : Nat) (q : PageSet) (item : Bytes) (push : PageBody → PageBody) (fresh : PageBody) (das : List Nat) :
    Paged PageSet :=
  match q.da with
  | none => match s.openPage w.exec das with
    | .ok s da l => .ok s { q with da := some da, body := push fresh, image := item } l
    | .wait => .wait
    | .full => .full
  | some da =>
    if 64 + q.image.length + item.length ≤ 65536 then .ok s { q with body := push q.body, image := q.image ++ item } das
    else match s.openPage w.exec das with
      | .wait => .wait
      | .full => .full
      | .ok s next l =>
        .ok (s.writePage w da kind level path q.body.count next q.image)
          { full := q.full ++ [⟨da, q.body⟩], da := some next, body := push fresh, image := item } l

/-- Write the page being filled as the last of its set. -/
def State.pageClose (s : State) (w : Work) (kind level path : Nat) (q : PageSet) (fresh : PageBody) : State × PageSet :=
  match q.da with
  | none => (s, q)
  | some da => (s.writePage w da kind level path q.body.count 0 q.image, ⟨q.full ++ [⟨da, q.body⟩], none, fresh, []⟩)

/-- Add a build record to records, or keep another body. -/
def PageBody.addRec (r : Rec) : PageBody → PageBody
  | .recs l => .recs (l ++ [r])
  | b => b
/-- Add a group entry. -/
def PageBody.addGroup (g : GEntry) : PageBody → PageBody
  | .groups l => .groups (l ++ [g])
  | b => b
/-- Build records of a page. -/
def PageBody.recList : PageBody → List Rec
  | .recs l => l
  | _ => []
/-- Group entries of a page. -/
def PageBody.groupList : PageBody → List GEntry
  | .groups l => l
  | _ => []

/-- Put a build or probe record into pages. -/
def State.putRec (s : State) (w : Work) (kind level path : Nat) (q : PageSet) (r : Rec) (das : List Nat) : Paged PageSet :=
  s.pagePut w kind level path q r.bytes (PageBody.addRec r) (.recs []) das

/-- Put several. -/
def putRecs (w : Work) (kind level path : Nat) : List Rec → State → PageSet → List Nat → Paged PageSet
  | [], s, q, das => .ok s q das
  | r :: l, s, q, das => match s.putRec w kind level path q r das with
    | .ok s q das => putRecs w kind level path l s q das
    | .wait => .wait
    | .full => .full

/-! ### Reading back (R137) -/

/-- Does a page read back whole: none, or whether it was poisoned. -/
def State.pageFault (s : State) (cl da : Nat) : Option Bool :=
  let b := s.viewGet (some cl) da 514 65536
  let used := word32 b 4 % 2 ^ 17
  if s.memPoisoned da (min 65536 (max 64 used)) then some true
  else if used < 64 || 65536 < used || crc32c (bslice b 0 60 ++ bslice b 64 (used - 64)) != word32 b 15 then some false
  else none

/-- A spill page has failed (R137): latched for the cluster, and the command loses data. -/
def State.pageLost (s : State) (t : Task) (w : Work) (da : Nat) (poison : Bool) : State :=
  let c := w.cluster
  let s := if s.rg .JNU_ERRLOG_valid c = 1 then s else
    (((s.rs .JNU_ERRLOG_page_da c da).rs .JNU_ERRLOG_poisoned c (if poison then 1 else 0)).rs .JNU_ERRLOG_camp c w.camp).rs .JNU_ERRLOG_valid c 1
  s.loseData t w 0x03 da

/-- Read pages back, counted and charged: the state, and the first page that fails. -/
def readPages (w : Work) : List Page → State → State × Option (Nat × Bool)
  | [], s => (s, none)
  | p :: l, s =>
    let used := word32 (s.viewGet (some w.cluster) p.da 2 64) 4 % 2 ^ 17
    let s := (s.ra .JNU_SPILL_read w.camp 1).chargeDev w.camp p.da (min 65536 (max 64 used))
    match s.pageFault w.cluster p.da with
    | some x => (s, some (p.da, x))
    | none => readPages w l s

/-! ### Partition digits (Table 05-1) -/

/-- Types of key columns, read back from a stored key form with its strings' bytes: the key digit string (R116). -/
def State.fullKey (s : State) (cl : Nat) (l : List (ColType × ColVal)) : Except (HeapFault × Nat) Digits :=
  match l with
  | [] => .ok []
  | (_, v) :: l =>
    let b : Except (HeapFault × Nat) Bytes := match v with
      | .str n pre da => (match s.strBytes (some cl) n pre da with | .ok b => .ok b | .error e => .error (e, da))
      | .null | .dig _ => .ok []
    match b with
    | .error e => .error e
    | .ok b => match s.fullKey cl l with
      | .ok d => .ok (keyDigs v b ++ d)
      | .error e => .error e

/-- The level-L digit of a key (Table 05-1): of the salt-0 hash, or from level 4 on of the salt-1 hash of the key digit string. -/
def State.levelDigit (s : State) (cl : Nat) (tys : List ColType) (level hash : Nat) (key : Digits) : Except (HeapFault × Nat) Nat :=
  if level < 4 then .ok (spillDigit hash level)
  else match s.fullKey cl (List.zip tys (keyUnforms tys key)) with
    | .ok k => .ok (spillDigit (khash k 1) level)
    | .error e => .error e

/-- Path of the partition with digit d of a table at a level and path (Table 05-5). -/
def partPath (level path d : Nat) : Nat := path + d * 16 ^ level

/-- The partition of a digit among spilled ones. -/
def partAt (l : List Part) (level path d : Nat) : Option Part := l.find? (fun q => q.level == level && q.path == partPath level path d)
/-- Replace a partition. -/
def partSet (l : List Part) (q : Part) : List Part := l.map (fun x => if x.level == q.level && x.path == q.path then q else x)
/-- Add a partition in ascending order of its path among its table's own. -/
def partAdd (l : List Part) (q : Part) : List Part := l.filter (fun x => decide (x.path < q.path)) ++ [q] ++ l.filter (fun x => decide (q.path < x.path))

/-- The partition, among those with digits d not spilled yet, that holds the most bytes; of equals the higher digit (R133). -/
def victim (sizes : List (Nat × Nat)) : Option Nat :=
  (sizes.foldl (fun (best : Option (Nat × Nat)) x => match best with
    | none => some x
    | some b => if b.2 ≤ x.2 then some x else some b) none).map (·.1)

/-! ### Key equality (R129, R142) -/

/-- Are two key values equal: strings beyond 16 bytes by their heap records (R73)? -/
def State.valEq (s : State) (cl : Nat) (a b : ColVal) : Except (HeapFault × Nat) Bool :=
  match a, b with
  | .str n p d, .str m q e =>
    if n != m || p.take 16 != q.take 16 then .ok false
    else if n ≤ 16 then .ok true
    else match s.heapRead (some cl) d n with
      | .error x => .error (x, d)
      | .ok x => match s.heapRead (some cl) e m with
        | .error y => .error (y, e)
        | .ok y => .ok (x == y)
  | a, b => .ok (a == b)

/-- Are two stored key forms equal? -/
def State.keyEq (s : State) (cl : Nat) : List (ColVal × ColVal) → Except (HeapFault × Nat) Bool
  | [] => .ok true
  | (a, b) :: l => match s.valEq cl a b with
    | .error e => .error e
    | .ok false => .ok false
    | .ok true => s.keyEq cl l

/-- Heap records that a key comparison reads: DA and bytes. -/
def eqReads (l : List (ColVal × ColVal)) : List (Nat × Nat) :=
  l.flatMap (fun x => match x.1, x.2 with
    | .str n p d, .str m q e => if n != m || p.take 16 != q.take 16 || n ≤ 16 then [] else [(d, heapBytes n), (e, heapBytes m)]
    | _, _ => [])

end Sys2Proof.Machine
end

