-- ==== Sys2Proof/Machine/Join.lean ====
section
/-! DEFINITION. Hash joins: builds, probes, spills, passes, chunks and unmatched scans (R122 to R138). -/

namespace Sys2Proof.Machine

/-! ### Tables (R122, R123, R127) -/

/-- Bucket bits of a table for a row estimate: 2^b is the smallest power of two not below a sixth of it, 4 ≤ b ≤ 30 (R127). -/
def bucketBits (estimate : Nat) : Nat :=
  ((List.range 27).map (· + 4)).find? (fun b => decide (estimate ≤ 6 * 2 ^ b)) |>.getD 30

/-- Buckets that a chain of n rows takes, its first among them (R123). -/
def chainBuckets (n : Nat) : Nat := max 1 ((n + 5) / 7)

/-- Bucket of a hash (Table 05-1). -/
def bucketOf (b h : Nat) : Nat := bits h 16 b
/-- Tag of a hash. -/
def hashTag (h : Nat) : Nat := bits h 48 16

/-- An empty table. -/
def JoinTab.fresh (level path b : Nat) : JoinTab := ⟨level, path, b, [], [], false, false, 0⟩

/-- The records of a table, bucket by bucket in chain order. -/
def JoinTab.recs (t : JoinTab) : List Rec := t.chains.flatMap (·.2)

/-- Bytes that a table takes: its buckets, overflow buckets and records (R127). -/
def JoinTab.bytes (t : JoinTab) : Nat :=
  128 * (2 ^ t.b + (t.chains.map (fun c => chainBuckets c.2.length - 1)).sum) + (t.recs.map Rec.len).sum

/-- Put a record at the end of its chain. -/
def JoinTab.insert (t : JoinTab) (r : Rec) : JoinTab :=
  let k := bucketOf t.b r.hash
  { t with chains := mput k (mgetD [] k t.chains ++ [r]) t.chains }

/-- Take the records that a test picks out of a table. -/
def JoinTab.remove (t : JoinTab) (out : Rec → Bool) : JoinTab :=
  { t with chains := (t.chains.map (fun c => (c.1, c.2.filter (fun r => !out r)))).filter (fun c => !c.2.isEmpty) }

/-- Near-memory units that the Camp has left, and those a table holds already (R132; DEDUCED: what the table holds is not taken twice); Camp 0 has the
device's (DESIGN CHOICE, log 54). -/
def State.freeUnits (s : State) (camp : Nat) : Nat :=
  match mget camp s.camps with
  | some i => i.nearQuota - i.nearUsed
  | none => if camp = 0 then 8388608 else 0

/-- Budget of a table in bytes (R132): its descriptor's, or what the Camp's near-memory quota has left. -/
def State.buildBudget (s : State) (camp budget held : Nat) : Nat := 65536 * min budget (s.freeUnits camp + held)

/-! ### The build side -/

/-- A JOIN_BUILD of a plan. -/
structure BuildSpec where
  id : Nat
  kind : Nat
  broadcast : Bool
  keys : Nat
  estimate : Nat
  budget : Nat
  deriving DecidableEq, Repr

/-- The build of a join. -/
def Plan.buildSpec (p : Plan) (id : Nat) : Option BuildSpec :=
  match p.buildOf id with
  | some (o, _) => (match o.body with
    | .joinBuild id kind bc k est bud => some ⟨id, kind, bc, k, est, bud⟩
    | _ => none)
  | none => none

/-- The copy that a build task builds: its cluster's, or under BROADCAST the one of its destination (R131). -/
def Task.buildCopy (t : Task) (b : BuildSpec) : Nat :=
  if !b.broadcast then t.w.cluster
  else match t.w.route, t.w.body with
    | some r, _ => r.dest
    | none, .fence (some k) => k
    | none, _ => 0

/-- Put a table. -/
def State.setTab (s : State) (id key : Nat) (t : JoinTab) : State := s.modExec id (fun (e : Exec) => { e with joins := mput key t e.joins })

/-- Is some key column of a row null (R128)? -/
def nullKey (keys : List Column) (r : Nat) : Bool := keys.any (fun c => c.at r == .null)

/-- The next selected row from `pos` on. -/
def nextLive (b : Batch) (pos : Nat) : Option Nat := (b.liveRows).find? (fun r => decide (pos ≤ r))

/-- After a row of the batch in hand: the next one, or the batch is done with. -/
def Work.after (w : Work) (b : Batch) (r : Nat) : Work :=
  match nextLive b (r + 1) with
  | some n => { w with pos := n }
  | none => w.pop

/-- Bytes moved by an insert into a chain of n rows (R150; DEDUCED from Table 05-7): its buckets read, the last one written, with the fresh one where it overflows, and the record. -/
def insertBytes (n len : Nat) : Nat := 128 * (chainBuckets n + chainBuckets (n + 1) - chainBuckets n + 1) + len

/-- Insert a record into a table that has room for it within its budget, taking the near memory it grows by. -/
def State.fitInsert (s : State) (id : Nat) (budget : Nat) (camp : Nat) (t : JoinTab) (r : Rec) : Option (State × JoinTab) :=
  let t' := t.insert r
  if s.buildBudget camp budget t.units < t'.bytes then none
  else
    let u := units64k t'.bytes
    (s.execTake id (u - t.units)).map (fun s => (s, { t' with units := max u t.units }))

/-- BUCKET_INSERT (R122 to R127, R132, R133): the next live row of a build batch is inserted, or goes to the pages of its partition when that has spilled, `da` being the
DA of the page this opens. A row that does not fit waits for a spill, or fails the command when spilling is off. `lost`: the lines read were poisoned (Table 10-9). -/
def execBucketInsert (die tag da : Nat) (lost : Bool) (s : State) : Res :=
  match s.task die tag with
  | none => .next s
  | some t => match t.head with
    | none => .next s
    | some (_, o, b) => match o.body with
      | .joinBuild id kind bc k est bud =>
        if !t.w.hashed b then .next s else
        if lost then .next (s.loseData t t.w 0x03 0) else
        s.withCols t o.ins b (fun s w b =>
          match nextLive b w.pos with
          | none => .next (s.goOn t.key w.pop)
          | some r =>
            let cols := o.ins.filterMap (fun i => b.cols[i]?)
            let keys := cols.take k
            let copy := t.buildCopy ⟨id, kind, bc, k, est, bud⟩
            let key := buildKey id copy
            let tab := (mget key t.e.joins).getD (JoinTab.fresh 0 0 (bucketBits est))
            let tab := { tab with anyRow := true, nullKey := tab.nullKey || nullKey keys r }
            let h := w.hashOf r
            let rec_ : Rec := ⟨h, rowKeyForm keys r, rowKeyForm (cols.drop k) r, false⟩
            if nullKey keys r && kind != 2 && kind != 3 then .next ((s.setTab w.exec key tab).goOn t.key (w.after b r))
            else match partAt tab.parts 0 0 (spillDigit h 0) with
              | some part => match s.putRec w 0 part.level part.path part.build rec_ [da] with
                | .ok s q _ => .next ((s.setTab w.exec key { tab with parts := partSet tab.parts { part with build := q } }).goOn t.key (w.after b r))
                | .wait => .next s
                | .full => .next (s.failTask t w stMoraineFull)
              | none =>
                let n := (mgetD [] (bucketOf tab.b h) tab.chains).length
                match s.fitInsert w.exec bud w.camp tab rec_ with
                | some (s, tab) =>
                  let s := (s.ra .JNU_STAT_built w.tile 1).charge w.camp 1 (insertBytes n rec_.len)
                  .next ((s.setTab w.exec key tab).goOn t.key (w.after b r))
                | none =>
                  let s := s.setTab w.exec key tab
                  if s.rg .JNU_CTL_spill_en w.cluster = 0 then .next (s.failTask t w stMoraineFull) else .next (s.setWork t.key w))
      | _ => .next s

/-! ### Spilling (R133) -/

/-- Level digits of a table's records, bucket by bucket. -/
def State.tabDigits (s : State) (cl : Nat) (tys : List ColType) (t : JoinTab) : Except (HeapFault × Nat) (List (Rec × Nat)) :=
  t.recs.mapM (fun r => (s.levelDigit cl tys t.level r.hash r.key).map (fun d => (r, d)))

/-- Bytes of each resident partition of a table, by digit. -/
def partSizes (parts : List Part) (level path : Nat) (ds : List (Nat × Nat)) : List (Nat × Nat) :=
  ((List.range 16).filter (fun d => (partAt parts level path d).isNone)).map (fun d =>
    (d, ((ds.filter (fun x => x.2 == d)).map (·.1)).sum))

/-- An empty spilled partition. -/
def Part.fresh (level path : Nat) (body : PageBody) : Part := ⟨level, path, PageSet.none body, PageSet.none (.recs [])⟩

/-- Spill the largest resident partition of a join table (R133). -/
def State.spillTab (s : State) (w : Work) (tys : List ColType) (t : JoinTab) (das : List Nat) : Except (HeapFault × Nat) (Option (Paged JoinTab)) :=
  match s.tabDigits w.cluster tys t with
  | .error e => .error e
  | .ok ds => match victim (partSizes t.parts t.level t.path (ds.map (fun x => (x.1.len, x.2)))) with
    | none => .ok none
    | some d =>
      let mine := (ds.filter (fun x => x.2 == d)).map (·.1)
      let part := Part.fresh t.level (partPath t.level t.path d) (.recs [])
      match putRecs w 0 part.level part.path mine s part.build das with
      | .ok s q l =>
        let t' := { t.remove (fun r => mine.contains r) with parts := partAdd t.parts { part with build := q } }
        .ok (some (.ok s t' l))
      | .wait => .ok (some .wait)
      | .full => .ok (some .full)

/-- Does the row of a build batch in hand wait for a spill? The table it is for. -/
def State.buildWaits (s : State) (t : Task) : Option (Nat × JoinTab × List ColType) :=
  match t.head with
  | some (i, o, b) => (match o.body with
    | .joinBuild id kind bc k est bud =>
      let cols := o.ins.filterMap (fun i => b.cols[i]?)
      match nextLive b t.w.pos, mget (buildKey id (t.buildCopy ⟨id, kind, bc, k, est, bud⟩)) t.e.joins with
      | some r, some tab =>
        let rec_ : Rec := ⟨t.w.hashOf r, rowKeyForm (cols.take k) r, rowKeyForm (cols.drop k) r, false⟩
        if !t.w.hashed b || cols.any (fun c => c.scan.isSome) || (nullKey (cols.take k) r && kind != 2 && kind != 3) ||
            (partAt tab.parts 0 0 (spillDigit rec_.hash 0)).isSome || (s.fitInsert t.w.exec bud t.w.camp tab rec_).isSome then none
        else some (buildKey id (t.buildCopy ⟨id, kind, bc, k, est, bud⟩), tab, (t.refTypes (t.opIx i)).take k)
      | _, _ => none
    | _ => none)
  | none => none

/-- Spill for a build that waits: the join part of SPILL_PARTITION. -/
def State.spillBuild (s : State) (t : Task) (das : List Nat) : Option Res :=
  match s.buildWaits t with
  | none => none
  | some (key, tab, tys) =>
    if s.rg .JNU_CTL_spill_en t.w.cluster = 0 then none else
    some (match s.spillTab t.w tys tab das with
      | .error (h, _) => .next (s.failTask t t.w h.status)
      | .ok none => .next s
      | .ok (some (.ok s' tab' _)) =>
        let u := units64k tab'.bytes
        .next ((s'.execGive t.w.exec (tab.units - u)).setTab t.w.exec key { tab' with units := u })
      | .ok (some .wait) => .next s
      | .ok (some .full) => .next (s.failTask t t.w stMoraineFull))

/-! ### The probe side (R128 to R131) -/

/-- The copy that a probe task reads: its cluster's; under BROADCAST the one whose destination lies in its cluster, else the lowest (DEDUCED). -/
def Task.probeCopy (t : Task) (id : Nat) : Nat :=
  match t.p.buildSpec id with
  | some b => if !b.broadcast then t.w.cluster else
      let cs := t.e.copies id
      (cs.find? (fun c => match copyPlace t.p id c with
        | .cluster k => k == t.w.cluster
        | .tile n => n / 8 == t.w.cluster
        | .any => true)).getD (cs.headD 0)
  | none => t.w.cluster

/-- Build rows of a join: does any copy hold one with a null key, and any at all (ANTI_NA, R128)? -/
def Exec.anyNullKey (e : Exec) (id : Nat) : Bool := (e.copies id).any (fun c => match mget (buildKey id c) e.joins with | some t => t.nullKey | none => false)
def Exec.anyBuildRow (e : Exec) (id : Nat) : Bool := (e.copies id).any (fun c => match mget (buildKey id c) e.joins with | some t => t.anyRow | none => false)

/-- A row that a join emits: the probe's columns (none: an unmatched build row), with their origin where the batch carries one, and the build record it matched. -/
structure JRow where
  pass : Option (List ColVal)
  origin : Option (Nat × Nat)
  build : Option Rec
  deriving DecidableEq, Repr

/-- What a probe emits for a probe row with the records that matched it (Table 05-4), `na`: whether a build row with a null key silences an ANTI_NA join. -/
def emitFor (kind : Nat) (na : Bool) (ms : List Rec) : List (Option Rec) :=
  match kind with
  | 0 | 2 => ms.map some
  | 1 | 3 => if ms.isEmpty then [none] else ms.map some
  | 4 => if ms.isEmpty then [] else [none]
  | 5 => if ms.isEmpty then [none] else []
  | _ => if ms.isEmpty && !na then [none] else []

/-- What a probe row with a null key emits (Table 05-4); `empty`: the build side is empty. -/
def emitNull (kind : Nat) (empty : Bool) : List (Option Rec) :=
  match kind with
  | 1 | 3 | 5 => [none]
  | 6 => if empty then [none] else []
  | _ => []

/-- Is the matched bit kept (R128)? -/
def keepsMatched (kind : Nat) : Bool := kind == 2 || kind == 3

/-- A probe operator: its index, join, and types of its key, of the build's payload, and of the columns it passes on. -/
structure ProbeSpec where
  op : Nat
  id : Nat
  kind : Nat
  keys : List ColType
  pays : List ColType
  pass : List Nat
  passTys : List ColType
  deriving DecidableEq, Repr

/-- The probe that operator `op` is. -/
def Task.probeSpec (t : Task) (op : Nat) : Option ProbeSpec :=
  match t.p.ops[op]? with
  | none => none
  | some o => match o.body with
    | .joinProbe id kind =>
      let v := t.p.vec t.e.env op
      let pass := (o.outs.filter (fun r => !r.produced)).map (·.idx)
      some ⟨op, id, kind, t.refTypes op, (t.p.payTypes t.e.env t.p.fuel id).map (fun x => x.getD ⟨0, 0, 0⟩), pass,
        pass.map (fun i => (tyAt v i).getD ⟨0, 0, 0⟩)⟩
    | _ => none

/-- An output batch of a probe (R128): the operator's output vector over the rows' sides. -/
def ProbeSpec.batch (x : ProbeSpec) (o : PlanOp) (seq : Nat) (rows : List JRow) : Batch :=
  let pays := rows.map (fun r => match r.build with
    | some b => keyUnforms x.pays b.pay
    | none => [])
  let col (r : OutRef) : Column :=
    if r.produced then ⟨x.pays.getD r.idx ⟨0, 0, 0⟩, none, pays.map (fun v => v.getD r.idx .null)⟩
    else
      let j := x.pass.idxOf r.idx
      ⟨x.passTys.getD j ⟨0, 0, 0⟩, none, rows.map (fun q => match q.pass with
        | some v => v.getD j .null
        | none => .null)⟩
  let origin := if rows.any (fun r => r.origin.isSome) then rows.zipIdx.map (fun r => r.1.origin.getD (seq, r.2)) else []
  Batch.full seq rows.length (o.outs.map col) origin

/-- Output batches of at most 4,096 rows. -/
def chop {α : Type} : Nat → List α → List (List α)
  | 0, _ => []
  | n + 1, l => if l.isEmpty then [] else l.take 4096 :: chop n (l.drop 4096)

/-- The batch in hand's row as a join passes it on. -/
def ProbeSpec.row (x : ProbeSpec) (b : Batch) (q : Nat × Option Rec) : JRow :=
  ⟨some (x.pass.map (fun i => ((b.cols[i]?).map (fun c => c.at q.1)).getD .null)), if b.origin.isEmpty then none else some (b.originOf q.1), q.2⟩

/-- Send 4,096 pairs on, or, at the end of the batch, what is left; the operator after the probe takes them. -/
def Work.flushPairs (w : Work) (x : ProbeSpec) (o : PlanOp) (i : Nat) (b : Batch) (all : Bool) : Work :=
  let full := if all then w.pairs.length else w.pairs.length / 4096 * 4096
  let out := (chop (full / 4096 + 1) (w.pairs.take full)).map (fun l => (i + 1, x.batch o b.seq (l.map (x.row b))))
  { w with pairs := w.pairs.drop full, todo := w.todo ++ out }

/-- A probe's candidates in its chain: records whose tag agrees (R129), each with its key columns against the probe row's. -/
def candidates (tys : List ColType) (t : JoinTab) (h : Nat) (key : List ColVal) : List (Rec × List (ColVal × ColVal)) :=
  ((mgetD [] (bucketOf t.b h) t.chains).filter (fun r => hashTag r.hash == hashTag h)).map (fun r => (r, List.zip key (keyUnforms tys r.key)))

/-- Is a stored key null in some column? -/
def keyHasNull (vs : List ColVal) : Bool := vs.any (· == .null)

/-- The records of a table that equal a key, in chain order; SEMI stops at the first (R128, R129). -/
def State.matchRecs (s : State) (cl kind : Nat) : List (Rec × List (ColVal × ColVal)) → Except (HeapFault × Nat) (List Rec)
  | [] => .ok []
  | (r, ks) :: l => match (if keyHasNull (ks.map (·.2)) then .ok false else s.keyEq cl ks) with
    | .error e => .error e
    | .ok false => s.matchRecs cl kind l
    | .ok true => if kind = 4 then .ok [r] else match s.matchRecs cl kind l with
      | .ok m => .ok (r :: m)
      | .error e => .error e

/-- Mark the matched records of a chain. -/
def JoinTab.mark (t : JoinTab) (h : Nat) (ms : List Rec) : JoinTab :=
  { t with chains := mmod (bucketOf t.b h) (fun c => c.map (fun r => if ms.contains r then { r with matched := true } else r)) t.chains }

/-- Charges of a lookup (R150): the chain's buckets, and each candidate record by lines of 128 bytes; heap records apart. -/
def State.chargeLookup (s : State) (w : Work) (t : JoinTab) (h : Nat) (cs : List (Rec × List (ColVal × ColVal))) : State :=
  let n := (mgetD [] (bucketOf t.b h) t.chains).length
  let s := s.charge w.camp 1 (128 * chainBuckets n + (cs.map (fun c => (c.1.len + 127) / 128 * 128)).sum)
  (cs.flatMap (fun c => eqReads c.2)).foldl (fun (s : State) (x : Nat × Nat) => s.chargeTask w x.1 x.2) s

/-- Hidden digits of a carried origin (R167): 8 of seq, 3 of row. -/
def originDigits (o : Nat × Nat) : Digits := natDigs 8 o.1 ++ natDigs 3 o.2

/-- The payload of a spilled probe row: the columns it passes on, and its origin where it carries one. -/
def ProbeSpec.spillPay (x : ProbeSpec) (b : Batch) (r : Nat) : Digits :=
  (x.pass.flatMap (fun i => keyForm (((b.cols[i]?).map (fun c => c.at r)).getD .null))) ++ (if b.origin.isEmpty then [] else originDigits (b.originOf r))

/-- PROBE_LOOKUP (R129, R133): the next live row of a probe batch is looked up, or goes to its partition's probe pages, `da` being the page this opens. Heap records that
fail drop the row (R50). -/
def execProbeLookup (die tag da : Nat) (lost : Bool) (s : State) : Res :=
  match s.task die tag with
  | none => .next s
  | some t => match t.head with
    | none => .next s
    | some (i, o, b) => match o.body, t.probeSpec (t.opIx i) with
      | .joinProbe id kind, some x =>
        if !t.w.hashed b then .next s else
        if lost then .next (s.loseData t t.w 0x03 0) else
        s.withCols t o.reads b (fun s w b =>
          let t := { t with w := w }
          let done (s : State) (w : Work) (r : Nat) (out : List (Option Rec)) : Res :=
            let w := { w with pairs := w.pairs ++ out.map (fun q => (r, q)) }
            let w := w.flushPairs x o i b (nextLive b (r + 1)).isNone
            .next (s.goOn t.key (w.after b r))
          match nextLive b w.pos with
          | none => .next (s.goOn t.key (w.flushPairs x o i b true).pop)
          | some r =>
            let keys := o.ins.filterMap (fun i => b.cols[i]?)
            if nullKey keys r then done s w r (emitNull kind (!t.e.anyBuildRow id))
            else
              let copy := t.probeCopy id
              let tab := (t.e.tabAt x.op id copy).getD (JoinTab.fresh 0 0 4)
              let h := w.hashOf r
              match partAt tab.parts 0 0 (spillDigit h 0) with
              | some part => match s.putRec w 1 part.level part.path part.probe ⟨h, rowKeyForm keys r, x.spillPay b r, false⟩ [da] with
                | .ok s q _ => done (s.setTab w.exec (probeKey x.op copy) { tab with parts := partSet tab.parts { part with probe := q } }) w r []
                | .wait => .next s
                | .full => .next (s.failTask t w stMoraineFull)
              | none =>
                let cs := candidates x.keys tab h (keys.map (fun c => c.at r))
                let s := ((s.ra .JNU_STAT_probed w.tile 1).chargeLookup w tab h cs)
                match s.matchRecs w.cluster kind cs with
                | .error (e, hda) =>
                  let s := s.dropRow t w r e hda
                  match s.taskAt t.key with
                  | some t' => if t'.w.failed.isSome then .next s else
                    (match t'.w.todo with
                    | (_, b') :: _ => .next (s.goOn t.key ((t'.w.flushPairs x o i b' (nextLive b' (r + 1)).isNone).after b' r))
                    | [] => .next s)
                  | none => .next s
                | .ok ms =>
                  let s := if keepsMatched kind && !ms.isEmpty then
                      (s.charge w.camp 1 (128 * ms.length)).setTab w.exec (probeKey x.op copy) (tab.mark h ms) else s
                  done s w r (emitFor kind (t.e.anyNullKey id) ms))
      | _, _ => .next s

/-! ### Final tasks (R131, R134, R135) -/

/-- The final task of a probe: its operator, the copy it works on and that copy's table. -/
def Task.probeFinal (t : Task) : Option (ProbeSpec × PlanOp × BuildSpec × Nat × JoinTab) :=
  match t.w.body with
  | .final op copy => match t.probeSpec op, t.p.ops[op]? with
    | some x, some o => match t.p.buildSpec x.id, t.e.tabAt op x.id copy with
      | some b, some tab => some (x, o, b, copy, tab)
      | _, _ => none
    | _, _ => none
  | _ => none

/-- Output batches of a final task (Table 08-12): seq (cluster << 25) | i, going on to the operator after the probe. -/
def Work.emitRows (w : Work) (x : ProbeSpec) (o : PlanOp) (first copy : Nat) (rows : List JRow) : Work :=
  let bs := (chop (rows.length / 4096 + 1) rows).zipIdx.map (fun l => (x.op - first + 1, x.batch o (copy * 2 ^ 25 + w.emitted + l.2) l.1))
  { w with todo := w.todo ++ bs, emitted := w.emitted + bs.length }

/-- Is a final task's work over: nothing spilled, and no record left for an unmatched scan? -/
def finalOver (kind : Nat) (t : JoinTab) : Bool := t.parts.isEmpty && !(keepsMatched kind && !t.chains.isEmpty)

/-- Put a final task's table back and go on; the task ends with the last of its work. -/
def State.endPass (s : State) (t : Task) (w : Work) (x : ProbeSpec) (copy : Nat) (tab : JoinTab) : State :=
  (s.setTab w.exec (probeKey x.op copy) tab).goOn t.key { w with hold := !finalOver x.kind tab }

/-- UNMATCHED_SCAN (R131): a RIGHT or FULL join emits the records of a cluster table whose matched bit is 0, build rows with a null key among them. -/
def execUnmatchedScan (die tag : Nat) (s : State) : Res :=
  match s.task die tag with
  | none => .next s
  | some t => match t.probeFinal with
    | none => .next s
    | some (x, o, _, copy, tab) =>
      if !keepsMatched x.kind || tab.chains.isEmpty || !t.w.todo.isEmpty then .next s else
      let left := tab.recs.filter (fun r => !r.matched)
      let s := s.charge t.w.camp 1 (128 * 2 ^ tab.b + (tab.recs.map Rec.len).sum)
      .next (s.endPass t (t.w.emitRows x o t.f.first copy (left.map (fun r => ⟨none, none, some r⟩))) x copy { tab with chains := [] })

/-- A spilled probe row read back: its key values, the columns it passes on, and its origin. -/
def ProbeSpec.readRow (x : ProbeSpec) (r : Rec) : List ColVal × JRow :=
  let rec_ (tys : List ColType) (d : Digits) : List ColVal × Digits := tys.foldl (fun (a : List ColVal × Digits) ty => let (v, l) := keyUnform ty a.2; (a.1 ++ [v], l)) ([], d)
  let (pass, rest) := rec_ x.passTys r.pay
  (keyUnforms x.keys r.key, ⟨some pass, if rest.isEmpty then none else some (digsNat (rest.take 8), digsNat ((rest.drop 8).take 3)), none⟩)

/-- What a pass over a partition has so far: its table, the rows it emits, and DAs left for pages. -/
structure PassAcc where
  tab : JoinTab
  rows : List JRow
  das : List Nat

/-- How a pass ends early. -/
inductive PassEnd where
  | wait
  | full
  | heap (e : HeapFault)

/-- Spill until a record fits (R132), at most once for each of the 16 partitions; none: even with its partition resident it does not fit. -/
def fitPass (w : Work) (x : BuildSpec) (tys : List ColType) (nest : Bool) (r : Rec) (d : Nat) : Nat → State → PassAcc → Except PassEnd (Option (State × PassAcc))
  | 0, _, _ => .ok none
  | n + 1, s, a =>
    match partAt a.tab.parts a.tab.level a.tab.path d with
    | some part => match s.putRec w 0 part.level part.path part.build r a.das with
      | .ok s q das => .ok (some (s, { a with tab := { a.tab with parts := partSet a.tab.parts { part with build := q } }, das := das }))
      | .wait => .error .wait
      | .full => .error .full
    | none =>
      let t' := a.tab.insert r
      if t'.bytes ≤ s.buildBudget w.camp x.budget 0 then
        let k := (mgetD [] (bucketOf a.tab.b r.hash) a.tab.chains).length
        .ok (some ((s.ra .JNU_STAT_built w.tile 1).charge w.camp 1 (insertBytes k r.len), { a with tab := t' }))
      else if !nest then .ok none
      else match s.spillTab w tys a.tab a.das with
        | .error (e, _) => .error (.heap e)
        | .ok none => .ok none
        | .ok (some (.ok s tab das)) => fitPass w x tys nest r d n s { a with tab := tab, das := das }
        | .ok (some .wait) => .error .wait
        | .ok (some .full) => .error .full

/-- The digit of a record in a table that nests; a table past the last level has none (R134). -/
def State.nestDigit (s : State) (cl : Nat) (tys : List ColType) (nest : Bool) (level : Nat) (r : Rec) : Except PassEnd Nat :=
  if !nest then .ok 0 else match s.levelDigit cl tys level r.hash r.key with
    | .ok d => .ok d
    | .error (e, _) => .error (.heap e)

/-- Rebuild a partition's table from its build records (R134); none: it exceeds its budget and may not spill again. -/
def rebuild (w : Work) (x : BuildSpec) (tys : List ColType) (nest : Bool) : List Rec → State → PassAcc → Except PassEnd (Option (State × PassAcc))
  | [], s, a => .ok (some (s, a))
  | r :: l, s, a => match s.nestDigit w.cluster tys nest a.tab.level r with
    | .error e => .error e
    | .ok d => match fitPass w x tys nest r d 17 s a with
      | .error e => .error e
      | .ok none => .ok none
      | .ok (some (s, a)) => rebuild w x tys nest l s a

/-- Look a spilled probe row up in a table: what it matches. -/
def State.lookup (s : State) (w : Work) (x : ProbeSpec) (t : JoinTab) (h : Nat) (key : List ColVal) : State × Except PassEnd (List Rec) :=
  let cs := candidates x.keys t h key
  let s := (s.ra .JNU_STAT_probed w.tile 1).chargeLookup w t h cs
  (s, match s.matchRecs w.cluster x.kind cs with
    | .ok m => .ok m
    | .error (e, _) => .error (.heap e))

/-- Probe a rebuilt table from a partition's probe records (R134). -/
def reprobe (w : Work) (x : ProbeSpec) (na nest : Bool) : List Rec → State → PassAcc → Except PassEnd (State × PassAcc)
  | [], s, a => .ok (s, a)
  | r :: l, s, a => match s.nestDigit w.cluster x.keys nest a.tab.level r with
    | .error e => .error e
    | .ok d => match (if nest then partAt a.tab.parts a.tab.level a.tab.path d else none) with
      | some part => match s.putRec w 1 part.level part.path part.probe r a.das with
        | .ok s q das => reprobe w x na nest l s { a with tab := { a.tab with parts := partSet a.tab.parts { part with probe := q } }, das := das }
        | .wait => .error .wait
        | .full => .error .full
      | none =>
        let (key, row) := x.readRow r
        match s.lookup w x a.tab r.hash key with
        | (_, .error e) => .error e
        | (s, .ok ms) =>
          let a := { a with rows := a.rows ++ (emitFor x.kind na ms).map (fun m => { row with build := m }) }
          let a := if keepsMatched x.kind && !ms.isEmpty then { a with tab := a.tab.mark r.hash ms } else a
          reprobe w x na nest l s a

/-- Bring a partition's pages back: closed, read and checked; its build and probe records. -/
def State.partRecs (s : State) (t : Task) (q : Part) : State × Option (Part × List Rec × List Rec) :=
  let (s, b) := s.pageClose t.w 0 q.level q.path q.build (.recs [])
  let (s, p) := s.pageClose t.w 1 q.level q.path q.probe (.recs [])
  match readPages t.w (b.full ++ p.full) s with
  | (s, some (da, x)) => (s.pageLost t t.w da x, none)
  | (s, none) => (s, some ({ q with build := b, probe := p }, b.full.flatMap (fun g => g.body.recList), p.full.flatMap (fun g => g.body.recList)))

/-- The largest spill level of a cluster. -/
def State.maxLevel (s : State) (cl : Nat) : Nat := s.rg .JNU_CTL_max_level cl

/-- The next partition of a join's final task as a fresh table at the next level (R134): rebuilt from its build pages, probed from its probe pages. At the last level a
table does not spill, and one beyond its budget waits for CHUNK_JOIN. -/
def State.joinPass (s : State) (t : Task) (das : List Nat) : Option Res :=
  match t.probeFinal with
  | none => none
  | some (x, o, b, copy, tab) => match tab.parts with
    | [] => none
    | q :: rest =>
      if !t.w.todo.isEmpty || t.w.pos != 0 then none else
      some (match s.partRecs t q with
      | (s', none) => .next s'
      | (s', some (_, build, probe)) =>
        let nest := decide (q.level < s.maxLevel t.w.cluster)
        match rebuild t.w b (x.keys) nest build s' ⟨JoinTab.fresh (q.level + 1) q.path (bucketBits b.estimate), [], das⟩ with
        | .error .wait => .next s
        | .error .full => .next (s'.failTask t t.w stMoraineFull)
        | .error (.heap e) => .next (s'.failTask t t.w e.status)
        | .ok none => .next s
        | .ok (some (s', a)) => match reprobe t.w x (t.e.anyNullKey x.id) nest probe s' a with
          | .error .wait => .next s
          | .error .full => .next (s'.failTask t t.w stMoraineFull)
          | .error (.heap e) => .next (s'.failTask t t.w e.status)
          | .ok (s', a) =>
            let left := if keepsMatched x.kind then (a.tab.recs.filter (fun r => !r.matched)).map (fun r => (⟨none, none, some r⟩ : JRow)) else []
            .next (s'.endPass t (t.w.emitRows x o t.f.first copy (a.rows ++ left)) x copy { tab with parts := a.tab.parts ++ rest }))

/-! ### Chunks (R135) -/

/-- As many build records as fit the budget, at least one. -/
def chunkOf (s : State) (camp : Nat) (b : BuildSpec) : JoinTab → List Rec → JoinTab × List Rec
  | t, [] => (t, [])
  | t, r :: l =>
    let t' := t.insert r
    if t.chains.isEmpty || t'.bytes ≤ s.buildBudget camp b.budget 0 then chunkOf s camp b t' l else (t, r :: l)

/-- Does a join keep a bitmap of matched probe rows (R135)? -/
def keepsBitmap (kind : Nat) : Bool := kind != 0 && kind != 2

/-- Bytes of a bitmap. -/
def bitmapBytes : Nat → List Bool → Bytes
  | 0, _ => []
  | n + 1, l => BitVec.ofNat 8 (((l.take 8).zipIdx.map (fun b => if b.1 then 2 ^ b.2 else 0)).sum) :: bitmapBytes n (l.drop 8)

/-- Open the pages of a bitmap of n bytes. -/
def State.openPages (s : State) (id : Nat) : Nat → List Nat → List Nat → Paged (List Nat)
  | 0, got, das => .ok s got das
  | n + 1, got, das => match s.openPage id das with
    | .ok s da l => s.openPages id n (got ++ [da]) l
    | .wait => .wait
    | .full => .full

/-- Write the bitmap's pages; what a bitmap page's record_count holds is not stated: free. -/
def State.writeBitmap (s : State) (w : Work) (level path : Nat) : List Nat → Bytes → State
  | [], _ => s
  | da :: l, b =>
    let (k, s) := s.draw
    (s.writePage w da 3 level path (Config.freeWord k).toNat (l.headD 0) (b.take 65472)).writeBitmap w level path l (b.drop 65472)

/-- One chunk probed by the whole probe partition: rows emitted, marks, the chunk with its matched bits. -/
def chunkProbe (w : Work) (x : ProbeSpec) : List (Rec × Bool) → State → JoinTab → List JRow → List Bool → State × Except PassEnd (JoinTab × List JRow × List Bool)
  | [], s, t, rows, marks => (s, .ok (t, rows, marks))
  | (r, m) :: l, s, t, rows, marks =>
    let (key, row) := x.readRow r
    match s.lookup w x t r.hash key with
    | (s, .error e) => (s, .error e)
    | (s, .ok ms) =>
      let out : List (Option Rec) := match x.kind with
        | 0 | 1 | 2 | 3 => ms.map some
        | 4 => if m || ms.isEmpty then [] else [none]
        | _ => []
      let t := if keepsMatched x.kind && !ms.isEmpty then t.mark r.hash ms else t
      chunkProbe w x l s t (rows ++ out.map (fun b => { row with build := b })) (marks ++ [m || !ms.isEmpty])

/-- CHUNK_JOIN (R135): one chunk of a partition that exceeds its budget at the last level. Its unmatched build rows follow it, and the probe rows without a match follow
the last one. -/
def execChunkJoin (die tag : Nat) (das : List Nat) (s : State) : Res :=
  match s.task die tag with
  | none => .next s
  | some t => match t.probeFinal with
    | none => .next s
    | some (x, o, b, copy, tab) => match tab.parts with
      | [] => .next s
      | q :: rest =>
        if !t.w.todo.isEmpty || q.level < s.maxLevel t.w.cluster then .next s else
        match s.partRecs t q with
        | (s', none) => .next s'
        | (s', some (q, build, probe)) =>
          let whole := build.foldl JoinTab.insert (JoinTab.fresh (q.level + 1) q.path (bucketBits b.estimate))
          if t.w.pos = 0 && whole.bytes ≤ s.buildBudget t.w.camp b.budget 0 then .next s else
          let marks := if t.w.marks.isEmpty then List.replicate probe.length false else t.w.marks
          let need := if keepsBitmap x.kind && t.w.pos = 0 then (probe.length + 523775) / 523776 else 0
          match s'.openPages t.w.exec need t.w.maps das with
          | .wait => .next s
          | .full => .next (s'.failTask t t.w stMoraineFull)
          | .ok s' maps _ =>
            let (chunk, later) := chunkOf s' t.w.camp b (JoinTab.fresh (q.level + 1) q.path (bucketBits b.estimate)) (build.drop t.w.pos)
            let n := build.length - t.w.pos - later.length
            match chunkProbe t.w x (List.zip probe marks) s' chunk [] [] with
            | (s', .error e) => .next (s'.failTask t t.w (match e with | .heap h => h.status | .wait | .full => stMoraineFull))
            | (s', .ok (chunk, rows, marks)) =>
              let s' := if keepsBitmap x.kind then s'.writeBitmap t.w q.level q.path maps (bitmapBytes ((marks.length + 7) / 8) marks) else s'
              let left := if keepsMatched x.kind then (chunk.recs.filter (fun r => !r.matched)).map (fun r => (⟨none, none, some r⟩ : JRow)) else []
              let bare := if later.isEmpty && (x.kind == 1 || x.kind == 3 || x.kind == 5 || (x.kind == 6 && !t.e.anyNullKey x.id)) then
                  ((List.zip probe marks).filter (fun p => !p.2)).map (fun p => (x.readRow p.1).2) else []
              let w := t.w.emitRows x o t.f.first copy (rows ++ left ++ bare)
              if later.isEmpty then .next (s'.endPass t { w with pos := 0, marks := [], maps := [] } x copy { tab with parts := rest })
              else .next (s'.endPass t { w with pos := t.w.pos + n, marks := marks, maps := maps } x copy { tab with parts := q :: rest })

end Sys2Proof.Machine
end

