-- ==== Sys2Proof/Machine/Aggregate.lean ====
section
/-! DEFINITION. The Aggregate unit: folding batches, merging groups, spills and passes, final results (R139 to R148, R535). -/

namespace Sys2Proof.Machine

/-- An AGGREGATE as its tasks see it: operator index, keys, whether it is final, budget in 64 KiB units, functions with their input types, key types. -/
structure AggSpec where
  op : Nat
  keys : Nat
  final : Bool
  budget : Nat
  fns : List (AggFn × ColType)
  keyTys : List ColType
  deriving DecidableEq, Repr

/-- The aggregate that operator `op` of a task's plan is. -/
def Task.aggSpec (t : Task) (op : Nat) : Option AggSpec :=
  match t.p.ops[op]? with
  | none => none
  | some o => match o.body with
    | .aggregate k fin bud fns => some ⟨op, k, fin, bud, List.zip fns (t.fnTypes op fns), (t.refTypes op).take k⟩
    | _ => none

/-- Size of an entry. -/
def AggSpec.size (x : AggSpec) (g : GEntry) : Nat := g.size (x.fns.map (·.1)) (x.fns.map (·.2))
/-- Bytes of an entry. -/
def AggSpec.bytes (x : AggSpec) (g : GEntry) : Bytes := g.bytes (x.fns.map (·.1)) (x.fns.map (·.2))

/-- A task fails with an arithmetic exception of its accumulators (R143): counted for its Camp and latched for its tile. -/
def State.aggFail (s : State) (t : Task) (w : Work) (x : AggSpec) (i : Nat) (finalise : Bool) : State :=
  let n := w.tile
  let s := s.countExc w.camp .overflow
  let (slot, bin) := slotOf (x.fns.map (·.1)) (x.fns.map (·.2)) i
  let die := t.key / 65536
  let tag := t.key % 65536
  let s := if s.rg .AGU_ERRLOG_valid n = 1 then s else
    ((((((s.rs .AGU_ERRLOG_slot n slot).rs .AGU_ERRLOG_binary n (if bin then 1 else 0)).rs .AGU_ERRLOG_finalise n (if finalise then 1 else 0)).rs
      .AGU_ERRLOG_camp n w.camp).rs .AGU_ERRLOG_task_tag n tag).rs .AGU_ERRLOG_epoch n (s.entry die tag).epoch).rs .AGU_ERRLOG_valid n 1
  s.failTask t w stOverflow

/-- A merge that fails: with its exception, or with the status of the heap record it could not read (DESIGN CHOICE, log 46: entries stand for many rows). -/
def State.mergeFail (s : State) (t : Task) (w : Work) (x : AggSpec) (i : Nat) (e : AccErr) : State :=
  match e with
  | .overflow => s.aggFail t w x i false
  | .heap h _ => s.failTask t w h.status

/-! ### Folding a batch (R142, first step) -/

/-- Fold one row of the batch in hand. -/
def foldRow (key : Nat) (x : AggSpec) (o : PlanOp) (s : State) (r : Nat) : State :=
  match s.taskAt key with
  | none => s
  | some t => if t.w.failed.isSome then s else
    match t.w.todo with
    | [] => s
    | (_, b) :: _ =>
      if !b.live r then s else
      let cols := o.ins.filterMap (fun i => b.cols[i]?)
      let form := rowKeyForm (cols.take x.keys) r
      let vals := x.fns.map (fun f => ((cols[f.1.input]?).map (fun c => c.at r)).getD .null)
      let g := (t.w.folded.find? (fun g => g.key == form)).getD (GEntry.fresh (if x.keys = 0 then 0 else t.w.hashOf r) form (x.fns.map (·.1)))
      let s := (extReads g.accs (vals.map (fun v => .ext (some v)))).foldl (fun (s : State) (q : Nat × Nat) => s.chargeTask t.w q.1 q.2) s
      match s.entryAdd t.w.cluster g x.fns g.accs vals 0 with
      | .error (i, .overflow) => s.aggFail t t.w x i false
      | .error (_, .heap e da) => s.dropRow t t.w r e da
      | .ok accs =>
        let g' := { g with rows := g.rows + 1, accs := accs }
        let l := if t.w.folded.any (fun q => q.key == form) then t.w.folded.map (fun q => if q.key == form then g' else q) else t.w.folded ++ [g']
        (s.ra .AGU_STAT_rows t.w.tile 1).setWork key { t.w with folded := l }

/-- BATCH_FOLD (R139, R140, R142): the rows of the batch in hand with equal stored key forms are folded together. A keyless partial aggregate keeps the task's one entry
and is done with the batch (R144). -/
def execBatchFold (die tag : Nat) (s : State) : Res :=
  match s.task die tag with
  | none => .next s
  | some t => match t.head with
    | none => .next s
    | some (i, o, b) => match t.aggSpec (t.opIx i) with
      | none => .next s
      | some x =>
        if (x.keys != 0 && !t.w.hashed b) || t.w.pos != 0 then .next s else
        s.withCols t o.ins b (fun s w b =>
          let s := b.liveRows.foldl (foldRow t.key x o) (s.setWork t.key w)
          match s.taskAt t.key with
          | none => .next s
          | some t => if t.w.failed.isSome then .next s else
            if t.w.folded.isEmpty then .next (s.goOn t.key t.w.pop)
            else if x.final then .next (s.setWork t.key { t.w with pos := 1 })
            else
              let g := t.w.folded.headD (GEntry.fresh 0 [] [])
              match t.w.partly with
              | none => .next (s.goOn t.key { t.w.pop with partly := some (b.seq, g) })
              | some (seq, p) => match s.entryMerge t.w.cluster x.fns p.accs g.accs 0 with
                | .error (i, e) => .next (s.mergeFail t t.w x i e)
                | .ok accs => .next (s.goOn t.key { t.w.pop with partly := some (seq, { p with rows := p.rows + g.rows, accs := accs }) }))

/-! ### Group tables (R142, R145, R146) -/

/-- Key of a cluster's group table. -/
def groupKey (op cl : Nat) : Nat := op * 32 + cl
/-- An empty table. -/
def GroupTab.fresh : GroupTab := ⟨0, 0, [], [], 0⟩
/-- Put a group table. -/
def State.setGroup (s : State) (id key : Nat) (t : GroupTab) : State := s.modExec id (fun (e : Exec) => { e with groups := mput key t e.groups })

/-- Set bits of a mask of 16. -/
def ones16 (m : Nat) : Nat := ((List.range 16).map (fun i => bits m i 1)).sum

/-- The group budget of a cluster table in bytes (R146): the descriptor's, or the capacity of the Camp's ways, 2 MiB each. -/
def State.groupBudget (s : State) (cl camp budget : Nat) : Nat := min (65536 * budget) (ones16 (s.wayMask cl camp) * 2097152)

/-- Bytes of a table's entries (DESIGN CHOICE, log 47: the buckets that lead to them, whose number is not given, do not count). -/
def GroupTab.bytes (t : GroupTab) (x : AggSpec) : Nat := (t.entries.map x.size).sum

/-- What merging an entry into resident ones does. -/
inductive Merged where
  | into (l : List GEntry)
  | absent
  | fail (i : Nat) (e : AccErr)

/-- Merge an entry into the resident entry with its key, if there is one (R142). -/
def State.mergeInto (s : State) (cl : Nat) (x : AggSpec) (g : GEntry) : List GEntry → Merged
  | [] => .absent
  | r :: l =>
    let eq : Except (HeapFault × Nat) Bool := if r.hash != g.hash then .ok false else
      s.keyEq cl (List.zip (keyUnforms x.keyTys r.key) (keyUnforms x.keyTys g.key))
    match eq with
    | .error (e, da) => .fail 0 (.heap e da)
    | .ok true => match s.entryMerge cl x.fns r.accs g.accs 0 with
      | .error (i, e) => .fail i e
      | .ok accs => .into ({ r with rows := r.rows + g.rows, accs := accs } :: l)
    | .ok false => match s.mergeInto cl x g l with
      | .into l => .into (r :: l)
      | .absent => .absent
      | .fail i e => .fail i e

/-- Heap reads of a merge: the key comparisons it makes and the extremes it compares. -/
def mergeReads (x : AggSpec) (l : List GEntry) (g : GEntry) : List (Nat × Nat) :=
  (l.filter (fun r => r.hash == g.hash)).flatMap (fun r => eqReads (List.zip (keyUnforms x.keyTys r.key) (keyUnforms x.keyTys g.key)) ++
    (if r.key == g.key then extReads r.accs g.accs else []))

/-- Charge a merge (R150): its bucket, and the entry's lines read and written. -/
def State.chargeMerge (s : State) (w : Work) (x : AggSpec) (l : List GEntry) (g : GEntry) (isNew : Bool) : State :=
  let s := (s.ra .AGU_STAT_merges w.tile 1).charge w.camp 1 (if isNew then 256 + x.size g else 128 + 2 * x.size g)
  (mergeReads x l g).foldl (fun (s : State) (q : Nat × Nat) => s.chargeTask w q.1 q.2) s

/-- Digit of an entry at a level. -/
def State.groupDigit (s : State) (cl : Nat) (x : AggSpec) (level : Nat) (g : GEntry) : Except (HeapFault × Nat) Nat :=
  s.levelDigit cl x.keyTys level g.hash g.key

/-- Put a group entry into a partition's kind-2 pages. -/
def State.putGroup (s : State) (w : Work) (x : AggSpec) (q : Part) (g : GEntry) (das : List Nat) : Paged Part :=
  match s.pagePut w 2 q.level q.path q.build (x.bytes g) (PageBody.addGroup g) (.groups []) das with
  | .ok s b l => .ok s { q with build := b } l
  | .wait => .wait
  | .full => .full

/-- Put several. -/
def putGroups (w : Work) (x : AggSpec) : List GEntry → State → Part → List Nat → Paged Part
  | [], s, q, das => .ok s q das
  | g :: l, s, q, das => match s.putGroup w x q g das with
    | .ok s q das => putGroups w x l s q das
    | .wait => .wait
    | .full => .full

/-- Spill the largest resident partition of a group table (R133, R146). -/
def State.spillGroup (s : State) (w : Work) (x : AggSpec) (t : GroupTab) (das : List Nat) : Except (HeapFault × Nat) (Option (Paged GroupTab)) :=
  match t.entries.mapM (fun g => (s.groupDigit w.cluster x t.level g).map (fun d => (g, d))) with
  | .error e => .error e
  | .ok ds => match victim (partSizes t.parts t.level t.path (ds.map (fun q => (x.size q.1, q.2)))) with
    | none => .ok none
    | some d =>
      let mine := (ds.filter (fun q => q.2 == d)).map (·.1)
      match putGroups w x mine s (Part.fresh t.level (partPath t.level t.path d) (.groups [])) das with
      | .ok s q l => .ok (some (.ok s { t with entries := (ds.filter (fun q => q.2 != d)).map (·.1), parts := partAdd t.parts q } l))
      | .wait => .ok (some .wait)
      | .full => .ok (some .full)

/-- The table that a merge task of the aggregate in hand merges into. -/
def Task.groupTab (t : Task) (x : AggSpec) : GroupTab := (mget (groupKey x.op t.w.cluster) t.e.groups).getD GroupTab.fresh

/-- Near-memory units of a table follow its entries. -/
def State.groupUnits (s : State) (id : Nat) (x : AggSpec) (t : GroupTab) : Option (State × GroupTab) :=
  let u := units64k (t.bytes x)
  if u ≤ t.units then some (s.execGive id (t.units - u), { t with units := u })
  else (s.execTake id (u - t.units)).map (fun s => (s, { t with units := u }))

/-- After the first folded entry has been merged. -/
def Work.merged (w : Work) : Work :=
  match w.folded with
  | _ :: g :: l => { w with folded := g :: l }
  | _ => w.pop

/-- GROUP_MERGE (R142, R146): the next folded entry is merged into the entry of its key in the cluster's table, or creates it; in a spilled partition it goes to its pages,
`da` being the page this opens. An entry beyond the budget waits for a spill, or fails the command when spilling is off. -/
def execGroupMerge (die tag da : Nat) (lost : Bool) (s : State) : Res :=
  match s.task die tag with
  | none => .next s
  | some t => match t.head with
    | none => .next s
    | some (i, _, _) => match t.aggSpec (t.opIx i), t.w.folded with
      | some x, g :: _ =>
        if t.w.pos != 1 || !x.final then .next s else
        if lost then .next (s.loseData t t.w 0x03 0) else
        let tab := t.groupTab x
        let key := groupKey x.op t.w.cluster
        match s.groupDigit t.w.cluster x 0 g with
        | .error (e, _) => .next (s.failTask t t.w e.status)
        | .ok d => match partAt tab.parts 0 0 d with
          | some q => match s.putGroup t.w x q g [da] with
            | .ok s q _ => .next ((s.setGroup t.w.exec key { tab with parts := partSet tab.parts q }).goOn t.key t.w.merged)
            | .wait => .next s
            | .full => .next (s.failTask t t.w stMoraineFull)
          | none => match s.mergeInto t.w.cluster x g tab.entries with
            | .fail i e => .next (s.mergeFail t t.w x i e)
            | .into l => .next (((s.chargeMerge t.w x tab.entries g false).setGroup t.w.exec key { tab with entries := l }).goOn t.key t.w.merged)
            | .absent =>
              let tab' := { tab with entries := tab.entries ++ [g] }
              if x.keys != 0 && decide (s.groupBudget t.w.cluster t.w.camp x.budget < tab'.bytes x) then
                if s.rg .JNU_CTL_spill_en t.w.cluster = 0 then .next (s.failTask t t.w stMoraineFull)
                else .next s
              else match s.groupUnits t.w.exec x tab' with
                | none => .next (s.failTask t t.w stQuotaExhausted)
                | some (s, tab') => .next (((s.chargeMerge t.w x tab.entries g true).setGroup t.w.exec key tab').goOn t.key t.w.merged)
      | _, _ => .next s

/-- Does the folded entry in hand wait for a spill? -/
def State.groupWaits (s : State) (t : Task) : Option (AggSpec × GroupTab) :=
  match t.head with
  | none => none
  | some (i, _, _) => match t.aggSpec (t.opIx i), t.w.folded with
    | some x, g :: _ =>
      let tab := t.groupTab x
      let above := match s.groupDigit t.w.cluster x 0 g, s.mergeInto t.w.cluster x g tab.entries with
        | .ok d, .absent => (partAt tab.parts 0 0 d).isNone && decide (s.groupBudget t.w.cluster t.w.camp x.budget < ({ tab with entries := tab.entries ++ [g] } : GroupTab).bytes x)
        | _, _ => false
      if t.w.pos == 1 && x.final && x.keys != 0 && s.rg .JNU_CTL_spill_en t.w.cluster == 1 && above then some (x, tab) else none
    | _, _ => none

/-- SPILL_PARTITION (R133, R146): the sequencer of a task's cluster writes the largest resident partition of the table that an insert or a merge waits for to Moraine
pages at the DAs given. -/
def execSpillPartition (die tag : Nat) (das : List Nat) (s : State) : Res :=
  match s.task die tag with
  | none => .next s
  | some t => match s.spillBuild t das with
    | some r => r
    | none => match s.groupWaits t with
      | none => .next s
      | some (x, tab) => match s.spillGroup t.w x tab das with
        | .error (e, _) => .next (s.failTask t t.w e.status)
        | .ok none => .next s
        | .ok (some .wait) => .next s
        | .ok (some .full) => .next (s.failTask t t.w stMoraineFull)
        | .ok (some (.ok s' tab' _)) => match s'.groupUnits t.w.exec x tab' with
          | some (s', tab') => .next (s'.setGroup t.w.exec (groupKey x.op t.w.cluster) tab')
          | none => .next s

/-! ### Final tasks (R134, R141, R144, R146, R147) -/

/-- The final task of an aggregate and its cluster's table. -/
def Task.aggFinal (t : Task) : Option (AggSpec × Nat × GroupTab) :=
  match t.w.body with
  | .final op k => (t.aggSpec op).map (fun x => (x, k, (mget (groupKey op k) t.e.groups).getD GroupTab.fresh))
  | _ => none

/-- Is a final task's work over? A keyless aggregate emits its one row first. -/
def groupOver (x : AggSpec) (t : GroupTab) (emitted : Nat) : Bool := t.entries.isEmpty && t.parts.isEmpty && (x.keys != 0 || emitted != 0)

/-- AGGREGATE_FINALISE (R139, R141, R144): the entries of a cluster table as they stand give their results, in batches of seq (cluster << 25) | i, and leave the table. A
keyless aggregate that saw no row emits its row all the same. -/
def execAggregateFinalise (die tag : Nat) (s : State) : Res :=
  match s.task die tag with
  | none => .next s
  | some t => match t.aggFinal, t.p.lastOp t.w.frag with
    | some (x, k, tab), some o =>
      if !t.w.todo.isEmpty || (tab.entries.isEmpty && (x.keys != 0 || t.w.emitted != 0)) then .next s else
      let es := if x.keys = 0 && tab.entries.isEmpty then [GEntry.fresh 0 [] (x.fns.map (·.1))] else tab.entries
      let s := s.charge t.w.camp 1 (es.map x.size).sum
      match es.mapM (fun g => finalVals x.fns g.accs 0) with
      | .error i => .next (s.aggFail t t.w x i true)
      | .ok vs =>
        let tys := x.keyTys ++ x.fns.map (fun f => finalType f.1 f.2)
        let rows := (List.zip es vs).map (fun q => keyUnforms x.keyTys q.1.key ++ q.2)
        let col (r : OutRef) (l : List (List ColVal)) : Column := ⟨if r.produced then tys.getD r.idx ⟨0, 0, 0⟩ else ⟨0, 0, 0⟩, none,
          l.map (fun v => if r.produced then v.getD r.idx .null else .null)⟩
        let bs := (chop (rows.length / 4096 + 1) rows).zipIdx.map (fun l =>
          Batch.full (k * 2 ^ 25 + t.w.emitted + l.2) l.1.length (o.outs.map (fun r => col r l.1)) [])
        let tab := { tab with entries := [] }
        let s := match s.groupUnits t.w.exec x tab with
          | some (s, tab) => s.setGroup t.w.exec (groupKey x.op k) tab
          | none => s
        let n := t.w.emitted + bs.length
        .next (s.goOn t.key { t.w with out := t.w.out ++ bs, emitted := n, hold := !groupOver x tab n })
    | _, _ => .next s

/-- Merge a partition's entries into a fresh table at the next level (R146), spilling in turn where it nests; past the last level what does not fit goes to
fresh pages (R147). -/
def regroup (w : Work) (x : AggSpec) (nest : Bool) : List GEntry → State → GroupTab → Part → List Nat → Nat → Except (Nat × AccErr ⊕ Bool) (State × GroupTab × Part × List Nat)
  | _, _, _, _, _, 0 => .error (.inr true)
  | [], s, t, q, das, _ => .ok (s, t, q, das)
  | g :: l, s, t, q, das, n + 1 =>
    let dig : Except (HeapFault × Nat) Nat := if nest then s.groupDigit w.cluster x t.level g else .ok 0
    match dig with
    | .error (e, da) => .error (.inl (0, .heap e da))
    | .ok d => match (if nest then partAt t.parts t.level t.path d else none) with
      | some p => match s.putGroup w x p g das with
        | .ok s p das => regroup w x nest l s { t with parts := partSet t.parts p } q das n
        | .wait => .error (.inr true)
        | .full => .error (.inr false)
      | none => match s.mergeInto w.cluster x g t.entries with
        | .fail i e => .error (.inl (i, e))
        | .into es => regroup w x nest l (s.chargeMerge w x t.entries g false) { t with entries := es } q das n
        | .absent =>
          let t' := { t with entries := t.entries ++ [g] }
          if t'.bytes x ≤ s.groupBudget w.cluster w.camp x.budget || (!nest && t.entries.isEmpty) then
            regroup w x nest l (s.chargeMerge w x t.entries g true) t' q das n
          else if nest then match s.spillGroup w x t das with
            | .error (e, da) => .error (.inl (0, .heap e da))
            | .ok none => .error (.inr true)
            | .ok (some (.ok s t das)) => regroup w x nest (g :: l) s t q das n
            | .ok (some .wait) => .error (.inr true)
            | .ok (some .full) => .error (.inr false)
          else match s.putGroup w x q g das with
            | .ok s q das => regroup w x nest l s t q das n
            | .wait => .error (.inr true)
            | .full => .error (.inr false)

/-- One pass over the first spilled partition of a group table: at the next level, or merged in place of a level past the last. -/
def State.groupPassAt (s : State) (t : Task) (das : List Nat) (last : Bool) : Option Res :=
  match t.aggFinal with
  | none => none
  | some (x, k, tab) => match tab.parts with
    | [] => none
    | q :: rest =>
      if !tab.entries.isEmpty || !t.w.todo.isEmpty || last != decide (s.maxLevel t.w.cluster ≤ q.level) then none else
      some (
        let (s', b) := s.pageClose t.w 2 q.level q.path q.build (.groups [])
        match readPages t.w b.full s' with
        | (s', some (da, p)) => .next (s'.pageLost t t.w da p)
        | (s', none) =>
          let gs := b.full.flatMap (fun g => g.body.groupList)
          let fresh : GroupTab := ⟨q.level + 1, q.path, [], [], tab.units⟩
          match regroup t.w x (!last) gs s' fresh (Part.fresh q.level q.path (.groups [])) das (17 * gs.length + 1) with
          | .error (.inl (i, e)) => .next (s'.mergeFail t t.w x i e)
          | .error (.inr true) => .next s
          | .error (.inr false) => .next (s'.failTask t t.w stMoraineFull)
          | .ok (s', g, left, _) =>
            let again := if left.build.da.isSome then [left] else []
            let g := { g with parts := g.parts ++ again ++ rest }
            match s'.groupUnits t.w.exec x g with
            | none => .next (s'.failTask t t.w stQuotaExhausted)
            | some (s', g) => .next ((s'.setGroup t.w.exec (groupKey x.op k) g).goOn t.key { t.w with hold := !groupOver x g t.w.emitted }))

/-- SPILL_PASS (R134, R146): a final task takes the first of its spilled partitions, depth first, as a fresh table at the next level. -/
def execSpillPass (die tag : Nat) (das : List Nat) (s : State) : Res :=
  match s.task die tag with
  | none => .next s
  | some t => match s.joinPass t das with
    | some r => r
    | none => (s.groupPassAt t das false).getD (.next s)

/-- GROUP_PASS_MERGE (R147): one pass over a group partition at the last level; entries that do not fit go to fresh pages for the next pass. -/
def execGroupPassMerge (die tag : Nat) (das : List Nat) (s : State) : Res :=
  match s.task die tag with
  | none => .next s
  | some t => (s.groupPassAt t das true).getD (.next s)

end Sys2Proof.Machine
end

