-- ==== Sys2Proof/Machine/Report.lean ====
section
/-! DEFINITION. IDENTIFY and GET_LOG (Tables 12-5, 12-5a, 12-6; R2, R465, R494, R537, R538). -/

namespace Sys2Proof.Machine

/-- IDENTIFY device data (Table 12-5). -/
def State.identDevice (s : State) : Bytes :=
  let pol := s.trust.cfg.pol
  let w7 := (if pol.maintAllowed then 1 else 0) + (if pol.keep then 2 else 0) + (if s.trust.exts.isEmpty then 0 else 4) +
    (if pol.spdmAdmin then 8 else 0)
  bslice (leBytes 4 (0x1BE7 + 2 ^ 16 * 0x9640) ++ leBytes 4 (0x02 + (if s.h256 then 256 else 0)) ++ leBytes 8 (s.nearEnd / 2) ++
    leBytes 8 s.farBytes ++ leBytes 4 (1024 + 2 ^ 16 * 4096) ++ leBytes 4 w7) 0 4096

/-- Byte k of the attached-Camp bitmap of a function. -/
def State.campMapByte (s : State) (f k : Nat) : Byte :=
  BitVec.ofNat 8 (((List.range 8).map (fun i => if s.attachedTo (8 * k + i) f then 2 ^ i else 0)).sum)

/-- IDENTIFY function data (Table 12-5a). -/
def State.identFunction (s : State) (f : Nat) : Bytes :=
  let n := ((List.range 1024).filter (fun c => s.attachedTo c f)).length
  bslice (leBytes 4 f ++ leBytes 4 (ioQueues f) ++ leBytes 4 (ringCount f) ++ leBytes 4 (vectorCount f) ++ leBytes 4 n ++ leBytes 4 1024) 0 1024 ++
  bslice ((List.range 128).map (s.campMapByte f)) 0 3072

/-- IDENTIFY: cns 0 the device, 1 the function. -/
def State.doIdentify (s : State) (c : Cmd) : State :=
  match bits (c.w 1) 0 8 with
  | 0 => s.varOut c s.identDevice
  | 1 => s.varOut c (s.identFunction c.ref.fn)
  | _ => s.failCmd c stInvalidField

/-- IDENTIFY. -/
def execIdentify (r : CmdRef) (s : State) : Res := s.withCmd r 0x01 s.doIdentify

/-- The registers of log 0x02, in order (Table 12-6). -/
def campCounters : List Reg :=
  [.SCN_DROP_BLK, .SCN_DROP_ROWS, .ARU_EXC, .ARU_NULLED, .JNU_SPILL, .XCH_STALL, .MAT_SEARCH, .HIF_RETAIN, .HIF_ATTACH]

/-- A retained record's size in the store: its descriptor and its stream (Table 12-8a). -/
def Record.size (r : Record) : Nat := 64 + (r.stream.map (fun m => m.bytes.length)).sum

/-- Capacity of a Camp's retained-result store in bytes (R245, RETAIN record). -/
def State.storeCapacity (s : State) (c : Nat) : Nat :=
  let r := s.trust.cfg.retain.headD ⟨0, 0, 0, 0⟩
  if s.isService c then r.serviceBytes else r.tenantBytes

/-- Bytes free in a Camp's retained-result store. -/
def State.storeFree (s : State) (c : Nat) : Nat :=
  s.storeCapacity c - ((mgetD Store.empty c s.records).recs.map Record.size).sum

/-- The bytes of a log from its start, where one is listed (Table 12-6). -/
def State.logBytes (s : State) (id c : Nat) (ref : CmdRef) : Option Bytes :=
  match id with
  | 1 => some (s.log.entries.flatMap ErrEntry.bytes)
  | 2 => some (campCounters.flatMap (fun r => leBytes 8 (swReadVal r.fields (BitVec.allOnes 64) (s.regValue r c)).toNat))
  | 3 => some s.trust.log
  | 4 => some ((List.range 6).flatMap (fun k => leBytes 8 (s.regValue .CPM_RATION (8 * c + k)).toNat) ++
      (List.range 6).flatMap (fun k => leBytes 8 (s.regValue .CPM_REMAIN (8 * c + k)).toNat))
  | 5 => match mget ref.key s.host.kept with
    | some k => some (leBytes 8 k.dropped ++ leBytes 4 (k.status % 2 ^ 14 + 2 ^ 31) ++ leBytes 4 k.result)
    | none => some (List.replicate 16 0)
  | 6 =>
    let st := mgetD Store.empty c s.records
    let first := (st.recs.head?).elim 0 (·.num)
    let last := (st.recs.getLast?).elim 0 (·.num)
    some (leBytes 8 st.recs.length ++ leBytes 8 first ++ leBytes 8 last ++ leBytes 8 (s.storeFree c) ++ leBytes 8 st.lost)
  | _ => none

/-- GET_LOG with clear = 1: the RC fields of the Camp's counters (R531). -/
def State.clearCounters (s : State) (c : Nat) : State :=
  campCounters.foldl (fun s r => (s.readReg r c (BitVec.allOnes 64)).2) s

/-- GET_LOG (R537). -/
def State.doGetLog (s : State) (c : Cmd) : State :=
  let id := bits (c.w 1) 0 8
  let camp := bits (c.w 9) 0 10
  let ref : CmdRef := ⟨c.ref.fn, bits (c.w 10) 0 16, bits (c.w 11) 0 16⟩
  if id = 1 && c.ref.fn != 0 then s.failCmd c stNotPermitted
  else if id != 5 && c.w 11 != 0 then s.failCmd c stInvalidField
  else match s.logBytes id camp ref with
    | none => s.failCmd c stInvalidField
    | some b =>
      let b := if id = 5 then b else b.drop (c.w 10)
      let s := s.varOut c b
      if id = 2 && bits (c.w 1) 8 1 = 1 then s.clearCounters camp else s

/-- GET_LOG. -/
def execGetLog (r : CmdRef) (s : State) : Res := s.withCmd r 0x02 s.doGetLog

end Sys2Proof.Machine
end

