-- ==== Sys2Proof/Machine/Modes.lean ====
section
/-! DEFINITION. Owner authorization, drains, ACTIVATE, MAINTENANCE, SVN raises, and the board's resets and pins (R281, R360, R467 to R469, R487
to R491, R512 to R518, R522). -/

namespace Sys2Proof.Machine

/-! ### Owner authorization blocks (R467 to R469) -/

/-- The checks of R469, in order. -/
def State.blockOk (s : State) (b : Bytes) (action : Nat) : Bool :=
  let w := word32 b
  bits (w 1) 0 16 == 264 && b.length == 264 && bits (w 0) 0 16 == 0xA071 && bits (w 0) 16 8 == 1 &&
  bits (w 0) 24 8 == action &&
  word64 b 2 == (s.regs.raw .BOT_NONCE 0).toNat &&
  decide (s.rg .BOT_AUTHSEQ_seq 0 < w 4) &&
  bslice b 24 48 == s.trust.fuses.devidHash &&
  sha .sha384 (bslice b 72 96) == s.trust.fuses.owner &&
  ecdsaVerify (bslice b 72 96) (sha .sha384 (bslice b 0 72)) (bslice b 168 48) (bslice b 216 48)

/-- A block that passes takes BOT_AUTHSEQ before its action runs; one that fails leaves it (R469). -/
def State.authorize (s : State) (b : Bytes) (action : Nat) : Option State :=
  if s.blockOk b action then some (s.rs .BOT_AUTHSEQ_seq 0 (word32 b 4)) else none

/-- Blow bits of a bank, one at a time in ascending order, until `n` are blown (R467). -/
def blowTo : Nat → Nat → BitVec 64 → BitVec 64
  | 0, _, b => b
  | fuel + 1, n, b =>
    if n ≤ blown b then b
    else match (List.range 64).find? (fun i => !b.getLsbD i) with
      | some i => blowTo fuel n (b ||| (BitVec.ofNat 64 (2 ^ i)))
      | none => b

/-- An SVN_RAISE block (R467): the status word of the response. Only in MAINTENANCE; above the current minimum and at most the svn of the running
component of the stage. -/
def State.svnRaise (s : State) (b : Bytes) : Nat × State :=
  if s.mode != .maintenance then (stStateConflict, s) else
  match s.authorize b 3 with
  | none => (stAuthFailed, s)
  | some s =>
    let st := bits (word32 b 1) 16 3
    let n := bits (word32 b 1) 19 7
    let limit := s.rg .BOT_SVN_running_svn st
    let none4 := st == 4 && s.trust.exts.isEmpty
    if 4 < st || n = 0 || 64 < n || none4 || n ≤ s.trust.fuses.minSvn st || limit < n then (stInvalidField, s)
    else
      let bank := blowTo 64 n (s.trust.fuses.svn.getD st 0)
      let f := { s.trust.fuses with svn := lset s.trust.fuses.svn st bank }
      let s := { s with trust := { s.trust with fuses := f } }
      (0, ((s.rs .BOT_SVN_fuse_min st (f.minSvn st)).rs .BOT_EVENTS_svn_raised 0 1))

/-! ### Drains, ACTIVATE and MAINTENANCE (R360, R254, R489, R491) -/

/-- Write the completions the CQ write engine holds, oldest first, as CQ space allows. -/
def flushEngine : Nat → State → State
  | 0, s => s
  | n + 1, s => match s.host.engine with
    | [] => s
    | w :: _ => match execCqWrite w.fn w.cq s with
      | .next s' => flushEngine n s'
      | .fault _ | .refused _ => s

/-- ACTIVATE runs: its completion is handed over and written, then the warm restart begins (R360 step 5). -/
def State.runActivate (s : State) (c : Cmd) : State :=
  let s := { s with host := { s.host with drain := none } }
  let s := s.completeCmd c c.okStatus 0
  (flushEngine s.host.engine.length s).warmStart .activate

/-- MAINT_ENTER runs: the Camps are suspended, MAINTENANCE begins, and the command completes. -/
def State.runMaint (s : State) (c : Cmd) : State :=
  let s := { s with host := { s.host with drain := none } }
  let s := { s.maintEvents.suspendCamps with mode := .maintenance }
  s.completeCmd c c.okStatus 0

/-- ACTIVATE and MAINT_ENTER: the owner's block, then either nothing else outstanding, or a drain (R360, R364). -/
def State.doOwner (s : State) (c : Cmd) (data : Bytes) (maint : Bool) : State :=
  let (b, s) := s.dataIn c data
  if maint && !s.trust.cfg.pol.maintAllowed then s.failCmd c stNotPermitted
  else if b.length < 8 then s.failCmd c stLengthShort
  else match wholeLen c (bits (word32 b 1) 0 16) with
    | .error st => s.failCmd c st
    | .ok c => match s.authorize (bslice b 0 (bits (word32 b 1) 0 16)) (if maint then 2 else 1) with
      | none => s.failCmd c stAuthFailed
      | some s =>
        let others := s.host.cmds.any (fun d => d.uid != c.uid)
        if bits (c.w 1) 0 1 = 0 then
          if others then s.conflict c 1 else if maint then s.runMaint c else s.runActivate c
        else
          let limit := c.w 9
          let d : Drain := ⟨c.uid, maint, if limit = 0 then none else some (s.ticks + limit * 25000)⟩
          let s := s.modCmd c.uid (fun x => { x with wait := .drain, long := c.long })
          { s with host := { s.host with drain := some d } }

/-- ACTIVATE. -/
def execActivate (r : CmdRef) (data : Bytes) (s : State) : Res := s.withCmd r 0x1A (fun c => s.doOwner c data false)
/-- MAINT_ENTER. -/
def execMaintEnter (r : CmdRef) (data : Bytes) (s : State) : Res := s.withCmd r 0x1B (fun c => s.doOwner c data true)

/-- MAINT_EXIT: back to SERVICE, each Camp to its former state (R254, R369). -/
def execMaintExit (r : CmdRef) (s : State) : Res :=
  s.withCmd r 0x1C (fun c =>
    if s.mode == .maintenance then ({ s.resumeCamps with mode := .service }).completeCmd c c.okStatus 0 else s.conflict c s.mode.code)

/-- Has everything a drain waits for finished: commands, standing runs and service invocations? -/
def State.drained (s : State) (uid : Nat) : Bool := s.host.cmds.all (fun d => d.uid == uid) && s.execs.isEmpty && s.ulr.ctxs.all (fun u => u.2.inv.isNone)

/-- DRAIN_COMPLETE: what the drain waited for has finished; the ACTIVATE or MAINT_ENTER goes on (R360). -/
def execDrainComplete (s : State) : Res :=
  if !s.alive then .next s else
  match s.host.drain with
  | none => .next s
  | some d => match s.cmdByUid d.uid with
    | none => .next s
    | some c => if !s.drained d.uid then .next s else if d.maint then .next (s.runMaint c) else .next (s.runActivate c)

/-! ### Resets and pins (R487, R512 to R518, R522) -/

/-- Everything but the AON domain, the fuses and the board's levels ends when the device enters RESET (R490, R513): device memory does not survive. The
AON domain itself is cleared at the end of RESET. -/
def State.enterReset (s : State) : State :=
  let r := State.reset
  let keep (p : Nat × BitVec 64) : Bool := match regOfKey p.1 with
    | some (g, _) => g.block == Reg.block .ERR_CTL && g != .ERR_CTL
    | none => false
  { r with
    pending := s.pending, h256 := s.h256, mode := .reset, ticks := s.ticks, devtime := s.devtime, pins := s.pins, log := s.log,
    regs := s.regs.filter keep, out := s.out, draws := s.draws, trust := { r.trust with fuses := s.trust.fuses } }

/-- Are RESET_N and both power-goods high? PWRGD_MAIN counts as deasserted while PWRGD_AON is (R513). -/
def Pins.allHigh (p : Pins) : Bool := p.resetHigh && p.aonGood && p.mainGood

/-- An edge of one of the three inputs: its new level and, when it rises, the tick of the edge (R516). -/
def State.resetEdge (s : State) (p : Pins) : State :=
  { s with pins := { p with lastEdge := s.ticks } }

/-- RESET_N_ASSERT: a low of at least 4 AON ticks; a shorter one has no effect (R515). -/
def execResetNAssert (ticks : Nat) (s : State) : Res :=
  let s := s.advance ticks
  if ticks < 4 then .next s else .next ({ s with pins := { s.pins with resetHigh := false } }.enterReset)

/-- RESET_N_DEASSERT: RESET_N rises (R516). -/
def execResetNDeassert (s : State) : Res :=
  if s.pins.resetHigh then .next s else .next (s.resetEdge { s.pins with resetHigh := true })

/-- PWRGD_AON_DEASSERT: a low of at least 2 AON ticks; PWRGD_MAIN counts as deasserted with it, and the thermal-trip latch clears (R513, R515, R522). -/
def execPwrgdAonDeassert (ticks : Nat) (s : State) : Res :=
  let s := s.advance ticks
  if ticks < 2 then .next s else .next ({ s with pins := { s.pins with aonGood := false, mainGood := false, thermTrip := false } }.enterReset)

/-- PWRGD_AON_ASSERT: PWRGD_AON rises (R516). -/
def execPwrgdAonAssert (s : State) : Res :=
  if s.pins.aonGood then .next s else .next (s.resetEdge { s.pins with aonGood := true })

/-- PWRGD_MAIN_DEASSERT: a low of at least 2 AON ticks (R513, R515). -/
def execPwrgdMainDeassert (ticks : Nat) (s : State) : Res :=
  let s := s.advance ticks
  if ticks < 2 then .next s else .next ({ s with pins := { s.pins with mainGood := false } }.enterReset)

/-- PWRGD_MAIN_ASSERT: PWRGD_MAIN rises; while PWRGD_AON is deasserted it counts as deasserted (R513). -/
def execPwrgdMainAssert (s : State) : Res :=
  if s.pins.mainGood || !s.pins.aonGood then .next s else .next (s.resetEdge { s.pins with mainGood := true })

/-- END_OF_RESET: 200 µs after the last of the three rising edges, unless the thermal-trip latch is set; the straps are sampled, AON state is cleared, FAULT_N
deasserts, and the device is in BOOT (R487, R500, R516, R518). -/
def execEndOfReset (dt strapBoot : Nat) (strapDbg : Bool) (s : State) : Res :=
  let s := s.advance dt
  if s.mode != .reset || !s.pins.allHigh || s.pins.thermTrip || s.ticks < s.pins.lastEdge + 5000 then .next s
  else
    let s' := { State.reset with
      pending := s.pending, h256 := s.h256, ticks := s.ticks, out := s.out, draws := s.draws
      pins := { s.pins with strapBoot := strapBoot % 4, strapDbg := strapDbg, fault := false }
      trust := { State.reset.trust with fuses := s.trust.fuses } }
    .next (if s.pins.prochot then (List.range 16).foldl (fun s c => s.rs .PWR_CLUSTER_prochot c 1) s' else s')

/-- THERMAL_TRIP: a junction at 115 °C sets the latch and THERMTRIP_N; outside RESET the device halts with cause 10 (R522). The comparators are active whenever the
main rails are in band. -/
def execThermalTrip (site : Nat) (s : State) : Res :=
  if !s.pins.mainGood then .next s
  else
    let s := { s with pins := { s.pins with thermTrip := true } }
    if s.mode == .reset then .next s else .next (s.halt 10 0x07 site 0 0)

/-- GPIO_EDGE: an input level that holds for 2 AON ticks; rise and fall are the pin's selection by the configuration image (R390). -/
def execGpioEdge (pin ticks : Nat) (level rise fall : Bool) (s : State) : Res :=
  .next ((s.advance ticks).gpioEdge pin ticks level rise fall)

end Sys2Proof.Machine
end

