-- ==== Sys2Proof/Machine/Scan.lean ====
section
/-! DEFINITION. The Scan unit's events, term reductions on dictionaries and heap compares (R56 to R66, R73, R76). -/

namespace Sys2Proof.Machine

/-- The scan column c of a task that is still to read its header, or its check table. -/
def Task.scanCol (t : Task) (c : Nat) (hdr : Bool) : Option ColScan :=
  match t.w.cols[c]?, t.head with
  | some k, some (_, o, _) => match o.body with
    | .scan _ _ => if !k.need then none
        else if hdr then (if k.hdr.isNone then some k else none)
        else if k.hdr.isSome && k.table.isNone then some k else none
    | _ => none
  | _, _ => none

/-- The schema of a task's scan column. -/
def Task.schemaCol (t : Task) (c : Nat) : Option ColType :=
  match t.head with
  | some (_, o, _) => match o.body with
    | .scan param cs => (mget param t.e.snaps).bind (fun (tab : Table) => (cs[c]?).bind (fun n => (tab.cols[n]?).map (·.ty)))
    | _ => none
  | none => none

/-- A block's header against the batch list and the schema (R56). -/
def Task.agrees (t : Task) (c : Nat) (h : Hdr) : Bool := h.rows == t.w.rows && t.schemaCol c == some h.ty

/-- SCAN_HEADER_READ (R58 step 1, R56, R63): condition 1 on the block's DA, then the 128-byte header: poison, header_crc, conditions 3 to 6, and the
equalities of R56, whose failures Table 02-7 gives no number. -/
def execScanHeaderRead (die tag c : Nat) (s : State) : Res :=
  match s.task die tag with
  | none => .next s
  | some t => match t.scanCol c true with
    | none => .next s
    | some k =>
      if k.da % 256 != 0 then .next (s.dropBatch t t.w .malformed 1 k.da)
      else
        let s := s.chargeTask t.w k.da 128
        let b := s.viewGet (some t.w.cluster) k.da 2 128
        if s.memPoisoned k.da 128 then .next (s.dropBatch t t.w .poisoned 0xF k.da)
        else match hdrFault b with
          | some 2 => .next (s.dropBatch t t.w .crc 2 k.da)
          | some n => .next (s.dropBatch t t.w .malformed n k.da)
          | none =>
            let s := s.ra .SCN_BLOCKS_scanned t.w.tile 1
            let h := hdrRead b
            if !t.agrees c h then
              let (n, s) := s.draw
              .next (s.dropBatch t t.w .malformed ((Config.freeWord n).toNat % 16) k.da)
            else .next (s.goOn t.key { t.w with cols := lset t.w.cols c { k with hdr := some h } })

/-- CHECK_TABLE_READ (R58 steps 2 and 3, R35): the plane check table against table_crc; the zone test follows once every needed block has its own. -/
def execCheckTableRead (die tag c : Nat) (s : State) : Res :=
  match s.task die tag with
  | none => .next s
  | some t => match t.scanCol c false with
    | none => .next s
    | some k => match k.hdr with
      | none => .next s
      | some h =>
        let n := h.tableDigits / 2
        let da := k.da + h.tableOff
        let s := s.chargeTask t.w da n
        let b := s.viewGet (some t.w.cluster) da 5 n
        if s.memPoisoned da n then .next (s.dropBatch t t.w .poisoned 0xF k.da)
        else if crc32c b != h.tableCrc then .next (s.dropBatch t t.w .crc 7 k.da)
        else .next (s.goOn t.key { t.w with cols := lset t.w.cols c { k with table := some b } })

/-- PLANE_FETCH (R58, R61, R68): a plane that the task now needs is read whole and checked, its digits against Table 02-5 and the encoding's rules, and the units go
on with it. No other plane is ever fetched. -/
def execPlaneFetch (die tag c i : Nat) (s : State) : Res :=
  match s.task die tag with
  | none => .next s
  | some t => match t.w.cols[c]? with
    | none => .next s
    | some k => match k.hdr, k.table with
      | some h, some table =>
        if !(s.needs t).contains (.plane c i) then .next s else
        let n := h.planeLen i / 2
        let da := k.da + h.planeOff i
        let s := s.chargeTask t.w da n
        if s.memPoisoned da n then .next (s.dropBatch t t.w .poisoned 0xF k.da)
        else match s.planeRead (some t.w.cluster) k.da h table i with
          | none => .next (s.dropBatch t t.w .crc 7 k.da)
          | some b =>
            let s := s.ra .SCN_PLANES_fetched t.w.tile 1
            let k := { k with planes := mput i (bytesDigits b) k.planes }
            let w := { t.w with cols := lset t.w.cols c k }
            match k.fault h with
            | some n => .next (s.dropBatch t w .malformed n k.da)
            | none => .next (s.goOn t.key w)
      | _, _ => .next s

/-! ### Reductions on dictionaries (R76, R534) -/

/-- The operation and non-null constants that a term's lanes compare with (R533). -/
def FilterCtx.lanesOf (x : FilterCtx) (t : FTerm) : Nat × List Lit :=
  let lits := if t.op = 10 || t.op = 11 || t.colcol then [] else termLits x.plan x.binds t
  let nn := lits.filter (fun l => !l.isNull)
  if nn.length < lits.length && t.op = 6 then (let (o, c) := halfRange t lits; (o, [c])) else (t.op, nn)

/-- The automaton of a LIKE or REGEXP term. -/
def Plan.automaton (p : Plan) (off : Nat) : Automaton := autRead (p.blob.drop (off - off % 4))

/-- Runs of consecutive codes at which a list is true, both ends inclusive. -/
def codeRuns : List Bool → Nat → Option Nat → List (Nat × Nat)
  | [], n, some lo => [(lo, n - 1)]
  | [], _, none => []
  | true :: l, n, o => codeRuns l (n + 1) (some (o.getD n))
  | false :: l, n, some lo => (lo, n - 1) :: codeRuns l (n + 1) none
  | false :: l, n, none => codeRuns l (n + 1) none

/-- The bytes of a dictionary entry, its record read when the comparison reaches it (R73): for LIKE and REGEXP always, otherwise where the prefix ties with a constant's. -/
def State.entryBytes (s : State) (cl : Nat) (like : Bool) (cs : List Lit) (v : ColVal) : Except HeapFault Bytes :=
  match v with
  | .str len pre heap =>
    if len ≤ 16 || (!like && !cs.any (fun c => c.form == hexDigits (bslice pre 0 16))) then .ok (pre.take (min len 16))
    else s.strBytes (some cl) len pre heap
  | .null | .dig _ => .ok []

/-- Heap DAs and bytes that the reduction reads. -/
def reductionReads (like : Bool) (cs : List Lit) (es : List ColVal) : List (Nat × Nat) :=
  es.filterMap (fun v => match v with
    | .str len pre heap => if 16 < len && (like || cs.any (fun c => c.form == hexDigits (bslice pre 0 16))) then some (heap, heapBytes len) else none
    | .null | .dig _ => none)

/-- The truth of a term for one entry. -/
def entryTruth (p : Plan) (t : FTerm) (op : Nat) (cs : List Lit) (b : Bytes) : Bool :=
  if t.op = 10 || t.op = 11 then !(autMatches (p.automaton t.first) b).1.isEmpty
  else statesTruth op t.loIncl t.hiIncl (cs.map (fun c => cmpBytes b (match c with | .str x => x | .dig _ | .null => [])))

/-- The codes of a reduced term: ranges on a sorted dictionary, a bitmap otherwise or where an IN list leaves more codes than the lanes take. -/
def codeSet (sorted : Bool) (t : FTerm) (lanes width : Nat) (l : List Bool) : CodeSet :=
  let runs := codeRuns l 0 none
  let top := 16 ^ width - 1
  if !sorted || 9 < t.op || (t.op == 7 && decide (lanes < (l.filter id).length)) then .bitmap l
  else .ranges ((runs.filter (fun r => decide (r.1 ≤ top))).map (fun r => (r.1, min r.2 top)))

/-- DICT_TERM_REDUCTION (R76, R534): the tile core reduces a term's side on a DICT column, once for the task and dictionary; the dictionary's reads are charged
(R86). A dictionary that fails its checks drops the batch (Table 03-1). -/
def execDictTermReduction (die tag term side : Nat) (s : State) : Res :=
  match s.task die tag with
  | none => .next s
  | some t => match t.head with
    | none => .next s
    | some (_, o, b) => match o.body with
      | .filter terms steps =>
        if !(s.needs t).contains (.reduce term side) then .next s else
        match terms[term]? with
        | none => .next s
        | some ft =>
          let x := s.filterCtx t o terms steps
          let (sa, sb) := x.sides t.w b ft
          match if side = 0 then sa else sb with
          | .vals _ _ => .next s
          | .blk c k h => match s.loadDict t.w c k h with
            | (s, none) => .next (s.dropBatch t t.w .malformed 10 k.da)
            | (s, some (w, d)) =>
              let es := ((w.cols.getD c k).dict).getD []
              match (w.cols.getD c k).fault h with
              | some n => .next (s.dropBatch t w .malformed n k.da)
              | none =>
                if ft.colcol then
                  let same := match sa, sb with
                    | .blk _ _ g, .blk _ _ g' => g.enc == encDict && g'.enc == encDict && g.dict == g'.dict && d.sorted
                    | _, _ => false
                  .next (s.goOn t.key { w with codes := mput (2 * term + side) (if same then .direct else .entries) w.codes })
                else
                  let (op, cs) := x.lanesOf ft
                  let like := ft.op == 10 || ft.op == 11
                  let s := (reductionReads like cs es).foldl (fun (s : State) (r : Nat × Nat) => s.chargeTask w r.1 r.2) s
                  match es.mapM (s.entryBytes w.cluster like cs) with
                  | .error _ => .next (s.dropBatch t w .malformed 10 k.da)
                  | .ok bs =>
                    let set := codeSet d.sorted ft x.lanes h.stored (bs.map (entryTruth t.p ft op cs))
                    .next (s.goOn t.key { w with codes := mput (2 * term) set w.codes })
      | _ => .next s

/-! ### Heap compares (R73) -/

/-- A string of a side at a row: length, prefix bytes and heap DA, once the planes that hold it are there. -/
def Planes.strAt (p : Planes) (r : Nat) : Option (Nat × Bytes × Nat) :=
  match askAll ((List.range 32).map p.dig), p.len, p.heap with
  | .ok ds, .ok ln, .ok hp => some (ln.getD r 0, hexBytes (ds.map (fun d => d.getD r 0)), hp.getD r 0)
  | _, _, _ => none

/-- Read a string for a comparison: its bytes, or the fault and DA of its record. -/
def State.strFor (s : State) (cl : Nat) (v : Nat × Bytes × Nat) : Except (HeapFault × Nat) Bytes :=
  match s.strBytes (some cl) v.1 v.2.1 v.2.2 with
  | .ok b => .ok b
  | .error e => .error (e, v.2.2)

/-- Confirm a Match Unit candidate (R188): the row's bytes against those of the constant that the entry names; a failed one is left to a STEP. -/
def State.confirm (s : State) (t : Task) (ft : FTerm) (a : Side) (term row word : Nat) : Res :=
  match a.all with
  | .error _ => .next s
  | .ok vs => match vs.getD row .null with
    | .str n pre da =>
      let s := (s.ra .FLT_HEAP_compares t.w.tile 1).chargeTask t.w da (heapBytes n)
      match s.strBytes (some t.w.cluster) n pre da with
      | .error e => .next ((s.dropRow t { t.w with search := mput (term * 4096 + row) .dropped t.w.search } row e da).settleWork t.key)
      | .ok v =>
        let seg := (mget (t.opIx ((t.w.todo.headD (0, Batch.full 0 0 [] [])).1) * 64 + term) t.e.segs).getD 64
        let i := bits word 0 14 * (if s.rg .MAT_SEG_wide seg = 1 then 2 else 1) + s.rg .MAT_SEG_base seg
        let c := ((mget i s.run.tern).map (·.const)).getD 0
        let ok := match termLit t.p t.e.binds ft c with
          | .str y => v == y
          | .dig _ | .null => false
        .next (s.goOn t.key { t.w with search := mput (term * 4096 + row) (if ok then .hit (bits word 0 14) else .step word) t.w.search })
    | .null | .dig _ => .next s

/-- HEAP_COMPARE (R73): the tile core reads and checks a row's heap record, both records of a column-with-column term, and settles every state the
row has left open; a candidate of the Match Unit is confirmed. A record that fails drops its row (R50). -/
def execHeapCompare (die tag term row : Nat) (s : State) : Res :=
  match s.task die tag with
  | none => .next s
  | some t => match t.head with
    | none => .next s
    | some (_, o, b) => match o.body with
      | .filter terms steps =>
        if !(s.needs t).contains (.heap term row) then .next s else
        match terms[term]? with
        | none => .next s
        | some ft =>
          let x := s.filterCtx t o terms steps
          let (sa, sb) := x.sides t.w b ft
          match mget (term * 4096 + row) t.w.search with
          | some (.cand word) => s.confirm t ft sa term row word
          | some (.step _) | some (.hit _) | some .miss | some .dropped | none =>
          let at_ (sd : Side) (k : Nat) : Option (Nat × Bytes × Nat) := match sd.planes t.w term k with
            | .ok p => p.strAt row
            | .error _ => none
          let mine : Option (Nat × Bytes × Nat) := if ft.colcol then at_ sa 0 else (match sa with
            | .vals _ v => (Planes.ofVals v).strAt row
            | .blk c k h => (Planes.ofBlock c k h).strAt row)
          match mine with
          | none => .next s
          | some v =>
            let s := (s.ra .FLT_HEAP_compares t.w.tile 1).chargeTask t.w v.2.2 (heapBytes v.1)
            match s.strFor t.w.cluster v with
            | .error (e, da) => .next ((s.dropRow t t.w row e da).settleWork t.key)
            | .ok a =>
              let done (s : State) (l : List Ordering) : Res :=
                .next (s.goOn t.key { t.w with heap := l.zipIdx.foldl (fun (m : Map Ordering) q => mput (heapKey term row q.2) q.1 m) t.w.heap })
              if ft.colcol then match at_ sb 1 with
                | none => .next s
                | some u =>
                  let s := s.chargeTask t.w u.2.2 (heapBytes u.1)
                  match s.strFor t.w.cluster u with
                  | .error (e, da) => .next ((s.dropRow t t.w row e da).settleWork t.key)
                  | .ok c => done s [cmpBytes a c]
              else done s ((x.lanesOf ft).2.map (fun c => cmpBytes a (match c with | .str y => y | .dig _ | .null => [])))
      | _ => .next s

end Sys2Proof.Machine
end

