-- ==== Sys2Proof/Machine/Ternary.lean ====
section
/-! DEFINITION. The ternary associative store: segments, searches, STEPs, parity and scrubbing (R178 to R190). -/

namespace Sys2Proof.Machine

/-! ### Entries -/

/-- Mask of `n` low bits. -/
def lowMask (n : Nat) : Nat := 2 ^ n - 1

/-- Key digits of a value, and their number as `w` digits (R183). -/
def ternKey (v : ColVal) : Digits :=
  match v with
  | .dig d => d
  | .str n pre _ => hexDigits (bslice pre 0 16) ++ natDigs 5 n
  | .null => []

/-- A key as a number of 40 (wide: 80) digits, padded with zeros below. -/
def keyNum (wide : Bool) (d : Digits) : Nat := let n := if wide then 80 else 40; digsNat (d.take n ++ List.replicate (n - d.length) 0)

/-- A logical entry: value and care over 40 or 80 digits, whether it stands for a long string, and its constant. -/
structure TernSpec where
  value : Nat
  care : Nat
  longStr : Bool
  const : Nat
  deriving DecidableEq, Repr

/-- The physical entries of a logical one (R183). -/
def TernSpec.entries (x : TernSpec) (wide : Bool) : List TernEntry :=
  let half (v : Nat) (hi : Bool) : Nat := if hi then v / 2 ^ 160 % 2 ^ 160 else v % 2 ^ 160
  if wide then [⟨half x.value true, half x.care true, true, x.longStr, x.const⟩, ⟨half x.value false, half x.care false, true, x.longStr, x.const⟩]
  else [⟨x.value, x.care, true, x.longStr, x.const⟩]

/-- Entries of an IN list (R184): one for each non-null constant, in list order, every bit cared. -/
def inEntries (wide : Bool) (lits : List Lit) : List TernSpec :=
  lits.zipIdx.filterMap (fun x => match x.1 with
    | .null => none
    | .dig d => some ⟨keyNum wide d, lowMask (if wide then 320 else 160), false, x.2⟩
    | .str b => some ⟨keyNum wide (ternKey (.str b.length (b.take 16) 0)), lowMask (if wide then 320 else 160), decide (16 < b.length), x.2⟩)

/-- Entries of range classes (R184): prefix entries, a class's consecutive; `w` is the key's digits. -/
def rangeEntries (wide : Bool) (w : Nat) (l : List (Nat × Nat × Nat)) : List TernSpec :=
  let n := if wide then 80 else 40
  let shift := 2 ^ (4 * (n - w))
  l.map (fun x => ⟨x.2.1 * shift, lowMask (4 * n) - lowMask x.2.2 * shift, false, x.1⟩)

/-- An entry the store holds at a physical index; an empty one is not valid (R181). -/
def State.tern (s : State) (i : Nat) : TernEntry := (mget i s.run.tern).getD ⟨0, 0, false, false, 0⟩

/-- Does the logical entry i of a segment match a key? -/
def State.ternHit (s : State) (seg : Nat) (key : Digits) (i : Nat) : Bool :=
  let base := s.rg .MAT_SEG_base seg
  let one (p k : Nat) : Bool := let e := s.tern p; e.valid && ((e.value ^^^ k) &&& e.care) == 0
  if s.rg .MAT_SEG_wide seg = 1 then
    let k := keyNum true key
    one (base + 2 * i) (k / 2 ^ 160) && one (base + 2 * i + 1) (k % 2 ^ 160)
  else one (base + i) (keyNum false key)

/-- Matching logical indices of a segment, ascending, from `from_` on (R185, R186). -/
def State.ternMatches (s : State) (seg : Nat) (key : Digits) (from_ : Nat) : List Nat :=
  let n := s.rg .MAT_SEG_size seg / (if s.rg .MAT_SEG_wide seg = 1 then 2 else 1)
  (List.range n).filter (fun i => decide (from_ ≤ i) && s.ternHit seg key i)

/-- The result word of Table 07-2; a miss is 0. -/
def ternWord (l : List Nat) : Nat :=
  match l with
  | [] => 0
  | i :: r => i + 2 ^ 14 + (if r.isEmpty then 0 else 2 ^ 15) + 2 ^ 16 * (r.length + 1)

/-! ### Faults of the unit -/

/-- Latch the first fault or violation of a cluster's unit (Table 07-13). -/
def State.matErr (s : State) (cl index kind camp : Nat) : State :=
  if s.rg .MAT_ERRLOG_valid cl = 1 then s else
  (((s.rs .MAT_ERRLOG_index cl index).rs .MAT_ERRLOG_kind cl kind).rs .MAT_ERRLOG_camp cl camp).rs .MAT_ERRLOG_valid cl 1

/-- A request names a segment, dictionary or image of another Camp (R179): no result; latched, logged, counted as a violation, and the command fails. -/
def State.matViolation (s : State) (cl camp : Nat) (exec : Option Nat) : State :=
  let s := ((s.matErr cl 0 4 camp).countErr 3).logErr 3 0x05 stIsolationViolation 0 camp 0 cl
  let s := match exec with
    | some e => s.failExec e stIsolationViolation
    | none => s
  s.violation camp

/-- A search charged to a Camp (R204). -/
def State.chargeSearch (s : State) (camp n : Nat) : State := (s.charge camp 4 n).ra .MAT_SEARCH_searches camp n

/-- The segment that holds a physical entry. -/
def State.segAt (s : State) (i : Nat) : Option Nat :=
  (List.range 64).find? (fun k => s.rg .MAT_SEG_valid k == 1 && decide (s.rg .MAT_SEG_base k ≤ i) && decide (i < s.rg .MAT_SEG_base k + s.rg .MAT_SEG_size k))

/-- The execution that a segment was allocated for. -/
def State.segExec (s : State) (seg : Nat) : Option Nat := (s.execs.find? (fun e => e.2.segs.any (fun q => q.2 == seg))).map (·.1)

/-- A parity error in an entry (R190): reloaded and counted as correctable, or, with its image poisoned, the loss of the command that uses it. -/
def State.ternParity (s : State) (cl : Nat) (p : TernParity) : State :=
  match p with
  | .ok => s
  | .reload i =>
    let camp := match s.segAt i with | some g => s.rg .MAT_SEG_camp g | none => 0
    ((s.ra .MAT_STAT_corrected cl 1).matErr cl i 1 camp).countErr 1
  | .lost i => match s.segAt i with
    | none => s
    | some g =>
      let s := s.matErr cl 0 2 (s.rg .MAT_SEG_camp g)
      match s.segExec g with
      | some e => s.dataLoss e 0x05 0 cl
      | none => s

/-- Did the image turn out poisoned? -/
def TernParity.isLost : TernParity → Bool
  | .lost _ => true
  | .ok | .reload _ => false

/-! ### Requests of tasks -/

/-- Key of a search of a task: term (0 for a MATCH operator) and row. -/
def searchKey (term row : Nat) : Nat := term * 4096 + row

/-- The number under which an execution keeps a segment: of a filter's term, or of a CLASS operator. -/
def segKey (op term : Nat) : Nat := op * 64 + term

/-- A value of a task's term at a row, and the operator's index; none until it is needed and there. -/
def State.termValue (s : State) (t : Task) (term row : Nat) : Option (FTerm × ColVal) :=
  match t.head with
  | some (_, o, b) => (match o.body with
    | .filter terms steps =>
      if !(s.needs t).contains (.search term row) then none else
      match terms[term]? with
      | none => none
      | some ft =>
        let x := s.filterCtx t o terms steps
        match (x.sides t.w b ft).1.all with
        | .ok v => some (ft, v.getD row .null)
        | .error _ => none
    | _ => none)
  | none => none

/-- Rows of a MATCH operator's batch that it looks up: selected, with a value (DEDUCED: a null finds nothing). -/
def matchRows (o : PlanOp) (b : Batch) : List Nat :=
  match (o.ins.head?).bind (fun i => b.cols[i]?) with
  | some c => b.liveRows.filter (fun r => c.at r != .null)
  | none => []

/-- The class that owns a logical index of a CLASS segment (R187). -/
def State.classAt (s : State) (seg i : Nat) : Nat :=
  (s.tern (s.rg .MAT_SEG_base seg + i * (if s.rg .MAT_SEG_wide seg = 1 then 2 else 1))).const

/-- A MATCH operator whose rows all have their answer gives its column: UINT16 classes or UINT32 payloads; rows without an answer are null. -/
def State.matchDone (s : State) (t : Task) (w : Work) (o : PlanOp) (fn : Nat) (b : Batch) : State :=
  if (matchRows o b).all (fun r => match mget (searchKey 0 r) w.search with
      | some (.hit _) | some .miss | some .dropped => true
      | some (.cand _) | some (.step _) | none => false) then
    let width := if fn = 0 then 4 else 8
    let vals := (List.range b.rows).map (fun r => match mget (searchKey 0 r) w.search with
      | some (.hit p) => if b.live r then ColVal.dig (natDigs width p) else .null
      | _ => .null)
    s.passOn t w o b [⟨if fn = 0 then ⟨0x07, 0, 0⟩ else ⟨0x08, 0, 0⟩, none, vals⟩]
  else s.setWork t.key w

/-- A search of a task's row: the operator's segment is found, checked, searched above `from_`, and `k` takes the matches. -/
def State.taskSearch (s : State) (t : Task) (op term : Nat) (key : Digits) (from_ : Nat) (step : Bool) (p : TernParity) (k : State → Nat → List Nat → Res) : Res :=
  match mget (segKey op term) t.e.segs with
  | none => .next s
  | some seg =>
    let cl := t.w.cluster
    if s.rg .MAT_SEG_camp seg != t.w.camp then .next (s.matViolation cl t.w.camp (some t.w.exec))
    else
      let s := (s.ternParity cl p).chargeSearch t.w.camp 1
      let s := if step then s.ra .MAT_STAT_steps cl 1 else s.ra .MAT_STAT_searches cl 1
      if p.isLost then .next s else k s seg (s.ternMatches seg key from_)

/-- What a search tells an IN term's row (R187, R188). -/
def State.inSearch (s : State) (seg : Nat) (ms : List Nat) : Search :=
  match ms with
  | [] => .miss
  | i :: _ => if (s.tern (s.rg .MAT_SEG_base seg + i * (if s.rg .MAT_SEG_wide seg = 1 then 2 else 1))).longStr then .cand (ternWord ms) else .hit i

/-- TERNARY_SEARCH (R185, R187): one row of a term or CLASS operator, or a core's own request, against a segment. -/
def execTernarySearch (q : MatchReq) (p : TernParity) (s : State) : Res :=
  match q with
  | .core cl camp seg key _ _ =>
    if !s.alive || s.rg .MAT_SEG_valid seg = 0 || 64 ≤ seg then .next s
    else if s.rg .MAT_SEG_camp seg != camp then .next (s.matViolation cl camp none)
    else
      let s := ((s.ternParity cl p).chargeSearch camp 1).ra .MAT_STAT_searches cl 1
      if p.isLost then .next s else .next (s.emit (.matchWords [ternWord (s.ternMatches seg key 0)]))
  | .row die tag term row => match s.task die tag with
    | none => .next s
    | some t => match t.head with
      | none => .next s
      | some (i, o, b) => match o.body with
        | .filter _ _ => match s.termValue t term row with
          | some (ft, v) =>
            if ft.op != 7 || mhas (searchKey term row) t.w.search then .next s else
            s.taskSearch t (t.opIx i) term (ternKey v) 0 false p (fun s seg ms =>
              .next (s.goOn t.key { t.w with search := mput (searchKey term row) (s.inSearch seg ms) t.w.search }))
          | none => .next s
        | .matchOp 0 _ _ _ => s.withCols t o.ins b (fun s w b =>
            let t := { t with w := w }
            if !(matchRows o b).contains row then .next (s.matchDone t w o 0 b)
            else if mhas (searchKey 0 row) w.search then .next (s.setWork t.key w)
            else
              let v := (((o.ins.head?).bind (fun i => b.cols[i]?)).map (fun c => c.at row)).getD .null
              s.taskSearch t (t.opIx i) 63 (ternKey v) 0 false p (fun s seg ms =>
                let r : Search := match ms with
                  | [] => .miss
                  | i :: _ => .hit (s.classAt seg i)
                .next (s.matchDone t { w with search := mput (searchKey 0 row) r w.search } o 0 b)))
        | _ => .next s

/-- TERNARY_STEP (R185, R186, R188): the next matching entry above an index: for a candidate whose heap compare failed, or a core's own request above `above`. -/
def execTernaryStep (q : MatchReq) (above : Nat) (p : TernParity) (s : State) : Res :=
  match q with
  | .core cl camp seg key _ _ =>
    if !s.alive || s.rg .MAT_SEG_valid seg = 0 || 64 ≤ seg then .next s
    else if s.rg .MAT_SEG_camp seg != camp then .next (s.matViolation cl camp none)
    else
      let s := ((s.ternParity cl p).chargeSearch camp 1).ra .MAT_STAT_steps cl 1
      if p.isLost then .next s else .next (s.emit (.matchWords [ternWord (s.ternMatches seg key (above + 1))]))
  | .row die tag term row => match s.task die tag with
    | none => .next s
    | some t => match t.head, s.termValue t term row with
      | some (i, _, _), some (_, v) => match mget (searchKey term row) t.w.search with
        | some (.step word) =>
          s.taskSearch t (t.opIx i) term (ternKey v) (bits word 0 14 + 1) true p (fun s seg ms =>
            .next (s.goOn t.key { t.w with search := mput (searchKey term row) (s.inSearch seg ms) t.w.search }))
        | _ => .next s
      | _, _ => .next s

/-- TERNARY_SCRUB (R190): the background check of an idle entry in a cluster, when scrubbing is on. -/
def execTernaryScrub (cl : Nat) (p : TernParity) (s : State) : Res :=
  if !s.alive || s.rg .MAT_CTL_scrub_en cl = 0 then .next s else .next (s.ternParity cl p)

/-! ### Segments (R180 to R182) -/

/-- Free a segment: every entry of it is emptied (R181). -/
def State.freeSeg (s : State) (seg : Nat) : State :=
  let base := s.rg .MAT_SEG_base seg
  let size := s.rg .MAT_SEG_size seg
  let s := { s with run := { s.run with tern := s.run.tern.filter (fun e => decide (e.1 < base) || decide (base + size ≤ e.1)) } }
  { s with regs := s.regs.setRaw .MAT_SEG seg 0 }

/-- Are the entries [base, base + size) free of segments? -/
def State.segFree (s : State) (base size : Nat) : Bool :=
  (List.range 64).all (fun k => s.rg .MAT_SEG_valid k == 0 || decide (base + size ≤ s.rg .MAT_SEG_base k) || decide (s.rg .MAT_SEG_base k + s.rg .MAT_SEG_size k ≤ base))

/-- The lowest place for a segment of a size (DESIGN CHOICE, log 48: firmware places segments first fit). -/
def State.segPlace (s : State) (size : Nat) : Option Nat :=
  ((List.range 256).map (64 * ·)).find? (fun b => decide (b + size ≤ 16384) && s.segFree b size)

/-- Allocate a segment of a Camp and write its entries (R182). -/
def State.allocSeg (s : State) (camp : Nat) (wide : Bool) (es : List TernSpec) (size : Nat) : Option (State × Nat) :=
  match (List.range 64).find? (fun k => s.rg .MAT_SEG_valid k == 0), s.segPlace size with
  | some k, some base =>
    let phys := es.flatMap (fun e => e.entries wide)
    let s := { s with run := { s.run with tern := phys.zipIdx.foldl (fun (m : Map TernEntry) (e : TernEntry × Nat) => mput (base + e.2) e.1 m) s.run.tern } }
    some (((((s.rs .MAT_SEG_base k base).rs .MAT_SEG_size k size).rs .MAT_SEG_wide k (if wide then 1 else 0)).rs .MAT_SEG_camp k camp).rs .MAT_SEG_valid k 1, k)
  | _, _ => none

end Sys2Proof.Machine
end

