-- ==== Sys2Proof/Machine/Dict.lean ====
section
/-! DEFINITION. Gapped sorted dictionaries and the automaton engine (R191 to R201, R204, R205). -/

namespace Sys2Proof.Machine

/-! ### Keys and their order (R192) -/

/-- Key digits as a dictionary holds them: 40, zeros below. -/
def dictKey (v : ColVal) : Digits := let d := ternKey v; d.take 40 ++ List.replicate (40 - d.length) 0

/-- The slot that a value would take. -/
def slotOf1 (v : ColVal) (payload : Nat) : DictSlot :=
  match v with
  | .str n _ da => ⟨dictKey v, payload, n, if 16 < n then da else 0⟩
  | .dig _ | .null => ⟨dictKey v, payload, 0, 0⟩

/-- Order of two slots: digits, then, for long strings equal in all 40, their heap records. -/
def State.slotCmp (s : State) (cl : Nat) (a b : DictSlot) : Except (HeapFault × Nat) Ordering :=
  match cmpDigs a.key b.key with
  | .eq =>
    if a.len ≤ 16 || b.len ≤ 16 then .ok .eq
    else match s.heapRead (some cl) a.heap a.len with
      | .error e => .error (e, a.heap)
      | .ok x => match s.heapRead (some cl) b.heap b.len with
        | .error e => .error (e, b.heap)
        | .ok y => .ok (cmpBytes x y)
  | o => .ok o

/-- The lowest slot of a span. -/
def spanLow (m : Map DictSlot) : Option DictSlot := (m.head?).map (·.2)

/-- The span that a key belongs to: the last whose lowest key is not above it, else the first. -/
def State.spanFor (s : State) (cl : Nat) (k : DictSlot) : List (Map DictSlot) → Nat → Except (HeapFault × Nat) Nat
  | [], best => .ok best
  | m :: l, i =>
    let rest (j : Nat) : Except (HeapFault × Nat) Nat := match s.spanFor cl k l (i + 1) with
      | .ok r => .ok (if r = i + 1 + l.length then j else r)
      | .error e => .error e
    match spanLow m with
    | none => rest (i + 1 + l.length)
    | some y => match s.slotCmp cl y k with
      | .error e => .error e
      | .ok .gt => .ok (i + 1 + l.length)
      | .ok _ => rest i

/-- Index of the span for a key in a dictionary. -/
def State.spanIx (s : State) (cl : Nat) (k : DictSlot) (d : GDict) : Except (HeapFault × Nat) Nat :=
  match s.spanFor cl k d.spans 0 with
  | .ok r => .ok (if r < d.spans.length then r else 0)
  | .error e => .error e

/-- The entries of a span below and at a key: the last slot not above it, and whether it is equal; and the slot after. -/
def State.spanFind (s : State) (cl : Nat) (k : DictSlot) : List (Nat × DictSlot) → Option (Nat × DictSlot × Bool) → Except (HeapFault × Nat) (Option (Nat × DictSlot × Bool) × Option Nat)
  | [], best => .ok (best, none)
  | (i, y) :: l, best => match s.slotCmp cl y k with
    | .error e => .error e
    | .ok .gt => .ok (best, some i)
    | .ok o => s.spanFind cl k l (some (i, y, o == .eq))

/-- Lowest hole at or after p, and highest hole before p, among 256 slots. -/
def holeUp (m : Map DictSlot) (p : Nat) : Option Nat := (List.range 256).find? (fun i => decide (p ≤ i) && !mhas i m)
def holeDown (m : Map DictSlot) (p : Nat) : Option Nat := (List.range 256).reverse.find? (fun i => decide (i < p) && !mhas i m)

/-- Entries re-spaced from slot 0, one hole after every 16 (R194). -/
def respace (l : List DictSlot) : Map DictSlot := l.zipIdx.map (fun x => (x.2 + x.2 / 16, x.1))

/-- Shift the entries of slots [a, b) by one, up or down. -/
def shiftSlots (m : Map DictSlot) (a b : Nat) (up : Bool) : Map DictSlot :=
  m.map (fun e => if a ≤ e.1 ∧ e.1 < b then (if up then e.1 + 1 else e.1 - 1, e.2) else e)

/-- What an insert into a span does (R194): the slots moved and the span, or a split. -/
def spanInsert (m : Map DictSlot) (p : Nat) (k : DictSlot) : Option (Map DictSlot × Nat) :=
  match holeUp m p, holeDown m p with
  | none, none => none
  | some h, none => some (mput p k (shiftSlots m p h true), h - p)
  | none, some g => some (mput (p - 1) k (shiftSlots m (g + 1) p false), p - 1 - g)
  | some h, some g =>
    if h - p ≤ p - 1 - g then some (mput p k (shiftSlots m p h true), h - p)
    else some (mput (p - 1) k (shiftSlots m (g + 1) p false), p - 1 - g)

/-- How an insert ends: the key was there; it is in, with the bytes it moved and whether a span was split; or no span is left. -/
inductive Inserted where
  | had (payload : Nat)
  | ok (d : GDict) (bytes : Nat) (split : Bool)
  | full

/-- Insert a value (R194, R195): its payload is the number of keys inserted before it (DEDUCED from Table 08-6). -/
def State.dictInsert (s : State) (d : GDict) (v : ColVal) : Except (HeapFault × Nat) Inserted :=
  let k := slotOf1 v d.inserted
  if d.spans.isEmpty then .ok (.ok { d with spans := [[(0, k)]], inserted := d.inserted + 1 } 64 false)
  else match s.spanIx d.home k d with
    | .error e => .error e
    | .ok i =>
      let m := d.spans.getD i []
      match s.spanFind d.home k m none with
      | .error e => .error e
      | .ok (some (_, y, true), _) => .ok (.had y.payload)
      | .ok (_, above) =>
        let p := above.getD ((m.getLast?).map (fun e => e.1 + 1) |>.getD 0)
        match spanInsert m p k with
        | some (m', n) => .ok (.ok { d with spans := lset d.spans i m', inserted := d.inserted + 1 } (64 + 64 * n) false)
        | none =>
          if 4096 ≤ d.spans.length then .ok .full
          else
            let all := (m.filter (fun e => decide (e.1 < p))).map (·.2) ++ [k] ++ (m.filter (fun e => decide (p ≤ e.1))).map (·.2)
            let spans := d.spans.take i ++ [respace (all.take 129), respace (all.drop 129)] ++ d.spans.drop (i + 1)
            .ok (.ok { d with spans := spans, inserted := d.inserted + 1 } (32 * 513 + 64 * (d.spans.length - i - 1)) true)

/-- Near-memory units of a dictionary: its spans of 8 KiB and its directory (R193). -/
def GDict.size (d : GDict) : Nat := units64k (8224 * d.spans.length)

/-- The slot at or below a value, and whether it is equal (R196). -/
def State.dictFloor (s : State) (d : GDict) (v : ColVal) : Except (HeapFault × Nat) (Option (DictSlot × Bool)) :=
  let k := slotOf1 v 0
  match s.spanIx d.home k d with
  | .error e => .error e
  | .ok i => match s.spanFind d.home k (d.spans.getD i []) none with
    | .error e => .error e
    | .ok (b, _) => .ok (b.map (fun x => (x.2.1, x.2.2)))

/-- Delete the slot of an equal key; a span left empty is removed (R196). -/
def State.dictDelete (s : State) (d : GDict) (v : ColVal) : Except (HeapFault × Nat) (Option GDict) :=
  let k := slotOf1 v 0
  match s.spanIx d.home k d with
  | .error e => .error e
  | .ok i =>
    let m := d.spans.getD i []
    match s.spanFind d.home k m none with
    | .error e => .error e
    | .ok (some (j, _, true), _) =>
      let m' := mdel j m
      .ok (some { d with spans := if m'.isEmpty then d.spans.take i ++ d.spans.drop (i + 1) else lset d.spans i m' })
    | .ok _ => .ok none

/-! ### Operations in the home cluster -/

/-- Replace a dictionary, its Camp's quota following its size; none: the quota cannot hold it. -/
def State.putDict (s : State) (n : Nat) (d : GDict) : Option State :=
  let u := d.size
  let put (s : State) : State := { s with run := { s.run with dicts := mput n { d with units := u } s.run.dicts } }
  if u ≤ d.units then some (put (if (mget d.exec s.execs).isSome then s.execGive d.exec (d.units - u) else s.giveNear d.camp (d.units - u)))
  else (if (mget d.exec s.execs).isSome then s.execTake d.exec (u - d.units) else s.takeNear d.camp (u - d.units)).map put

/-- Who asks for a dictionary operation: a row of a task's MATCH operator, or a core; the dictionary, the value, and how the answer gets back. -/
structure DictAsk where
  num : Nat
  dict : GDict
  camp : Nat
  value : ColVal
  back : Option (Task × Work × PlanOp × Nat × Batch × Nat)

/-- Resolve a request: a task's row of a MATCH operator of function `fn`, or a core's own for dictionary `handle`. -/
def State.dictAsk (s : State) (q : MatchReq) (fn : Nat) (k : State → DictAsk → Res) : Res :=
  match q with
  | .core cl camp n key len heap =>
    if !s.alive then .next s else
    match mget n s.run.dicts with
    | none => .next s
    | some d =>
      if d.camp != camp then .next (s.matViolation cl camp none)
      else k s ⟨n, d, camp, if 0 < len then .str len (hexBytes (key.take 32)) heap else .dig (key.take 40), none⟩
  | .row die tag _ row => match s.task die tag with
    | none => .next s
    | some t => match t.head with
      | none => .next s
      | some (_, o, b) => match o.body with
        | .matchOp f id _ _ =>
          if f != fn then .next s else
          s.withCols t o.ins b (fun s w b =>
            let t := { t with w := w }
            if !(matchRows o b).contains row then .next (s.matchDone t w o f b)
            else if mhas (searchKey 0 row) w.search then .next (s.setWork t.key w)
            else match mget id t.e.dicts with
              | none => .next (s.setWork t.key w)
              | some n => match mget n s.run.dicts with
                | none => .next (s.setWork t.key w)
                | some d =>
                  if d.camp != w.camp then .next (s.matViolation w.cluster w.camp (some w.exec))
                  else k s ⟨n, d, w.camp, (((o.ins.head?).bind (fun i => b.cols[i]?)).map (fun c => c.at row)).getD .null, some (t, w, o, f, b, row)⟩)
        | _ => .next s

/-- Charge an operation on a dictionary (R204): one search, the bytes of the slots and directory entries it must touch (DESIGN CHOICE, log 49), and heap records. -/
def State.chargeDict (s : State) (a : DictAsk) (bytes : Nat) : State :=
  let s := (s.chargeSearch a.camp 1).charge a.camp 1 bytes
  match a.value with
  | .str n _ da => if 16 < n then s.chargeDev a.camp da (heapBytes n) else s
  | .dig _ | .null => s

/-- Give an answer: to the task's row, or to the core. -/
def State.dictReply (s : State) (a : DictAsk) (r : Option (Nat × Nat)) : Res :=
  match a.back with
  | some (t, w, o, f, b, row) =>
    .next (s.matchDone t { w with search := mput (searchKey 0 row) (match r with | some (_, p) => .hit p | none => .miss) w.search } o f b)
  | none => .next (s.emit (.dictEntries r.toList))

/-- A dictionary operation that could not read a heap record: the row is dropped (R50); a core gets no answer. -/
def State.dictHeap (s : State) (a : DictAsk) (e : HeapFault) (da : Nat) : Res :=
  match a.back with
  | some (t, w, o, f, _, row) =>
    let s := s.dropRow t w row e da
    match s.taskAt t.key with
    | some t' => (match t'.w.failed, t'.w.todo with
      | none, (_, b') :: _ => .next (s.matchDone t' t'.w o f b')
      | _, _ => .next s)
    | none => .next s
  | none => .next s

/-- A dictionary's memory is lost (R205): latched, and the command that made it fails. -/
def State.dictLost (s : State) (a : DictAsk) : State :=
  (s.matErr a.dict.home 0 5 a.camp).dataLoss a.dict.exec 0x05 0 a.dict.home

/-- DICT_LOOKUP (R196): the payload of an equal key, or a miss. -/
def execDictLookup (q : MatchReq) (lost : Bool) (s : State) : Res :=
  s.dictAsk q 2 (fun s a =>
    let s := s.chargeDict a 64
    if lost then .next (s.dictLost a) else
    match s.dictFloor a.dict a.value with
    | .error (e, da) => s.dictHeap a e da
    | .ok (some (y, true)) => s.dictReply a (some (digsNat y.key, y.payload))
    | .ok _ => s.dictReply a none)

/-- DICT_FLOOR (R196): the greatest entry at or below the key, or a miss. -/
def execDictFloor (q : MatchReq) (lost : Bool) (s : State) : Res :=
  s.dictAsk q 3 (fun s a =>
    let s := s.chargeDict a 64
    if lost then .next (s.dictLost a) else
    match s.dictFloor a.dict a.value with
    | .error (e, da) => s.dictHeap a e da
    | .ok r => s.dictReply a (r.map (fun y => (digsNat y.1.key, y.1.payload))))

/-- DICT_INSERT (R194, R195): a key is inserted by moving toward the nearest hole; a full span splits. A key already there answers with its payload. No span or memory left fails
the command and leaves the dictionary as it was. -/
def execDictInsert (q : MatchReq) (lost : Bool) (s : State) : Res :=
  s.dictAsk q 1 (fun s a =>
    if lost then .next ((s.chargeDict a 64).dictLost a) else
    let fail (s : State) : Res := match a.back with
      | some (t, w, _, _, _, _) => .next (s.failTask t w stMatchResource)
      | none => .next ((s.countErr 3).failExec a.dict.exec stMatchResource)
    let key := digsNat (dictKey a.value)
    match s.dictInsert a.dict a.value with
    | .error (e, da) => (s.chargeDict a 64).dictHeap a e da
    | .ok (.had p) => (s.chargeDict a 64).dictReply a (some (key, p))
    | .ok .full => fail (s.chargeDict a 64)
    | .ok (.ok d bytes split) => match s.putDict a.num d with
      | none => fail (s.chargeDict a 64)
      | some s =>
        let s := (s.chargeDict a bytes).ra .MAT_DICT_inserts d.home 1
        let s := if split then s.ra .MAT_DICT_splits d.home 1 else s
        s.dictReply a (some (key, a.dict.inserted)))

/-- DICT_DELETE (R196): the slot of an equal key becomes a hole, and a span left empty is freed. -/
def execDictDelete (q : MatchReq) (lost : Bool) (s : State) : Res :=
  match q with
  | .row _ _ _ _ => .next s
  | .core _ _ _ _ _ _ => s.dictAsk q 4 (fun s a =>
    let s := s.chargeDict a 64
    if lost then .next (s.dictLost a) else
    match s.dictDelete a.dict a.value with
    | .error (e, da) => s.dictHeap a e da
    | .ok none => s.dictReply a none
    | .ok (some d) => match s.putDict a.num d with
      | some s => s.dictReply a (some (digsNat (dictKey a.value), 0))
      | none => .next s)

/-- DICT_SCAN (R196): the entries of the span-th span in ascending key order. -/
def execDictScan (q : MatchReq) (span : Nat) (lost : Bool) (s : State) : Res :=
  match q with
  | .row _ _ _ _ => .next s
  | .core _ _ _ _ _ _ => s.dictAsk q 4 (fun s a =>
    let m := a.dict.spans.getD span []
    let s := s.chargeDict a (32 + 32 * m.length)
    if lost then .next (s.dictLost a) else .next (s.emit (.dictEntries (m.map (fun e => (digsNat e.2.key, e.2.payload))))))

/-! ### Automata (R199 to R201) -/

/-- What an automaton run takes: searches charged for the bytes consumed (R204). -/
def runCharge (n : Nat) : Nat := 1 + (n - 64) / 64

/-- The store of an image is poisoned (R205): every command that uses it loses data, and its states are freed. -/
def State.autLost (s : State) (cl id : Nat) : State :=
  match mget id s.execs with
  | none => s
  | some e =>
    let n := (e.auts.map (·.2)).sum
    let s := (s.matErr cl 0 3 e.camp).dataLoss id 0x05 0 cl
    ({ s with run := { s.run with autUsed := s.run.autUsed - n } }).modExec id (fun (e : Exec) => { e with auts := [] })

/-- The image that an execution's term runs: automaton of a LIKE or REGEXP term, by its blob offset. -/
def State.autOf (s : State) (id off : Nat) : Option Automaton :=
  match mget id s.execs with
  | none => none
  | some e => if e.auts.any (fun a => a.1 == off) then (s.planOf e).map (fun p => p.automaton off) else none

/-- AUTOMATON_SEARCH (R199 to R201): a row's value runs through its term's automaton to its first match. `lost`: the automaton store was poisoned. A core's own request names an
execution as its handle, the image's offset as `off`, and gives the value's bytes as key digits. -/
def execAutomatonSearch (q : MatchReq) (off : Nat) (lost : Bool) (s : State) : Res :=
  match q with
  | .core cl camp id key _ _ =>
    if !s.alive then .next s else
    match mget id s.execs, s.autOf id off with
    | some e, some a =>
      if e.camp != camp then .next (s.matViolation cl camp none)
      else if lost then .next ((s.chargeSearch camp 1).autLost cl id)
      else
        let (m, n) := autMatches a (hexBytes key)
        let used := match m with | (e, _) :: _ => e | [] => n
        let s := ((s.chargeSearch camp (runCharge used)).ra .MAT_AUT_runs cl 1).ra .MAT_AUT_bytes cl used
        let (w0, w1) := autResult m
        .next (s.emit (.matchWords [w0, w1]))
    | _, _ => .next s
  | .row die tag term row => match s.task die tag with
    | none => .next s
    | some t => match s.termValue t term row with
      | some (ft, .str n pre da) =>
        if (ft.op != 10 && ft.op != 11) || mhas (searchKey term row) t.w.search then .next s else
        let cl := t.w.cluster
        match s.autOf t.w.exec ft.first with
        | none => .next s
        | some a =>
          if lost then .next ((s.chargeSearch t.w.camp 1).autLost cl t.w.exec) else
          let early := autDeadIn a (pre.take (min n 16)) 0
          let s := if 16 < n && !early then s.chargeTask t.w da (heapBytes n) else s
          match (if early then .ok (pre.take (min n 16)) else s.strBytes (some cl) n pre da) with
          | .error e =>
            let s := s.chargeSearch t.w.camp 1
            .next ((s.dropRow t { t.w with search := mput (searchKey term row) .dropped t.w.search } row e da).settleWork t.key)
          | .ok v =>
            let (m, k) := autRun a n v 0 0
            let used := match m with | (e, _) :: _ => e | [] => k
            let s := ((s.chargeSearch t.w.camp (runCharge used)).ra .MAT_AUT_runs cl 1).ra .MAT_AUT_bytes cl used
            .next (s.goOn t.key { t.w with search := mput (searchKey term row) (match m with | (_, p) :: _ => .hit p | [] => .miss) t.w.search })
      | _ => .next s

/-- AUTOMATON_STEP (R200): a core's run resumed after its previous match (end, pattern) and brought to the next. -/
def execAutomatonStep (q : MatchReq) (off stop pattern : Nat) (lost : Bool) (s : State) : Res :=
  match q with
  | .row _ _ _ _ => .next s
  | .core cl camp id key _ _ =>
    if !s.alive then .next s else
    match mget id s.execs, s.autOf id off with
    | some e, some a =>
      if e.camp != camp then .next (s.matViolation cl camp none)
      else if lost then .next ((s.chargeSearch camp 1).autLost cl id)
      else
        let (m, n) := autMatches a (hexBytes key)
        let m := m.filter (fun x => decide (stop < x.1) || (x.1 == stop && decide (pattern < x.2)))
        let used := (match m with | (e, _) :: _ => e | [] => n) - stop
        let s := (s.chargeSearch camp (runCharge used)).ra .MAT_AUT_bytes cl used
        let (w0, w1) := autResult m
        .next (s.emit (.matchWords [w0, w1]))
    | _, _ => .next s

end Sys2Proof.Machine
end

