-- ==== Sys2Proof/Machine/Exchange.lean ====
section
/-! DEFINITION. What a producing task gives its Exchange port (R157, R165, R167, R168). -/

namespace Sys2Proof.Machine

/-- Direction and null placement of sort key i: bit 0 DESC, bit 1 NULLS LAST of its pair (Table 08-6). -/
def keyDesc (flags i : Nat) : Bool := bits flags (2 * i) 1 == 1
def keyNullsLast (flags i : Nat) : Bool := bits flags (2 * i + 1) 1 == 1

/-- The sort key form of a row over key columns (R157). -/
def rowForm (flags : Nat) (keys : List Column) (r : Nat) : Digits :=
  keys.zipIdx.flatMap (fun c => sortForm c.1.ty (keyDesc flags c.2) (keyNullsLast flags c.2) (c.1.at r))

/-- The first 16 digits of a form, zero-padded. -/
def formHead (d : Digits) : Digits := let e := d.take 16; e ++ List.replicate (16 - e.length) 0

/-- Destination of a row under HASH (R165): bits 63 to 48 of its hash scaled to D destinations. -/
def hashDest (h d : Nat) : Nat := h / 2 ^ 48 * d / 2 ^ 16
/-- Destination of a row under RANGE: the split keys not above its form. -/
def rangeDest (splits : List Digits) (form : Digits) : Nat := (splits.filter (fun k => cmpDigs k (formHead form) != .gt)).length

/-- EXCHANGE_SEND (R165, R168 to R171): the batch in hand is divided by destination. A batch that finds neither credit nor room in the park area stays in hand. -/
def execExchangeSend (die tag : Nat) (s : State) : Res :=
  match s.task die tag with
  | none => .next s
  | some t => match t.head with
    | none => .next s
    | some (i, o, b) => match o.body, s.xchgOf t.w.exec (t.opIx i) with
      | .exchange mode _ _ _ sk flags _ splits, some x =>
        if mode = 0 && !t.w.hashed b then .next s else
        s.withCols t o.reads b (fun s' w b =>
          let out := { b with cols := o.outCols [] b }
          let d := x.places.length
          let keys := (o.ins.take sk).filterMap (fun c => b.cols[c]?)
          let sent : Sent :=
            if x.whole then
              let out := { out with origin := if x.carry then (List.range b.rows).map b.originOf else [] }
              sendFold (fun (s : State) k => s.offer x w.tile k out) (List.range d) s'
            else
              let dest (r : Nat) : Nat := if mode = 0 then hashDest (w.hashOf r) d else if mode = 1 then rangeDest splits (rowForm flags keys r) else 0
              let rows := b.liveRows
              sendFold (fun (s : State) k =>
                let mine := rows.filter (fun r => dest r == k)
                State.packRows x w.tile k out (mine.length + 1) s mine) (List.range d) s'
          match sent with
          | .ok s => .next (s.goOn t.key w.pop)
          | .wait => .next s
          | .quota => .next (s.failTask t w stQuotaExhausted))
      | _, _ => .next s

end Sys2Proof.Machine
end

