-- ==== Sys2Proof/Machine/Sort.lean ====
section
/-! DEFINITION. The Sort unit: run formation, run pages and merge passes (R154 to R164). -/

namespace Sys2Proof.Machine

/-- A SORT as its tasks see it: operator index, key types with their flags, limit, budget in 64 KiB units, and the input columns its output passes on. -/
structure SortSpec where
  op : Nat
  keyTys : List ColType
  flags : Nat
  limit : Nat
  budget : Nat
  pass : List Nat
  passTys : List ColType
  deriving DecidableEq, Repr

/-- The sort that operator `op` of a task's plan is. -/
def Task.sortSpec (t : Task) (op : Nat) : Option SortSpec :=
  match t.p.ops[op]? with
  | none => none
  | some o => match o.body with
    | .sort _ flags limit budget =>
      let v := t.p.vec t.e.env op
      let pass := (o.outs.filter (fun r => !r.produced)).map (·.idx)
      some ⟨op, t.refTypes op, flags, limit, budget, pass, pass.map (fun i => (tyAt v i).getD ⟨0, 0, 0⟩)⟩
    | _ => none

/-- The destination a sort task works for (R162, R164). -/
def Task.sortDest (t : Task) : Nat :=
  match t.w.route, t.w.body with
  | some r, _ => r.dest
  | none, .fence (some k) => k
  | none, .final _ k => k
  | none, _ => 0

/-! ### Records (Table 06-2) -/

/-- String tails of a row's key: 5 length digits and 12 of the heap DA each. -/
def tailDigits (keys : List Column) (r : Nat) : Digits :=
  keys.flatMap (fun c => if !c.ty.isStr then [] else match c.at r with
    | .str n _ da => natDigs 5 n ++ natDigs 12 da
    | .null | .dig _ => List.replicate 17 0)

/-- The sort record of a row. -/
def SortSpec.record (x : SortSpec) (ins : List Nat) (b : Batch) (r : Nat) : SortRec :=
  let keys := ins.filterMap (fun i => b.cols[i]?)
  let o := b.originOf r
  ⟨rowForm x.flags keys r, tailDigits keys r, o.1, o.2, x.pass.flatMap (fun i => keyForm (((b.cols[i]?).map (fun c => c.at r)).getD .null))⟩

/-- Length of a sort record in bytes. -/
def SortRec.len (q : SortRec) : Nat := 16 + (digitArea q.form).length + (digitArea q.tails).length + (digitArea q.pay).length

/-- Bytes of a sort record. -/
def SortRec.bytes (q : SortRec) : Bytes :=
  leBytes 4 (q.len % 2 ^ 13 + 2 ^ 13 * q.form.length) ++ leBytes 4 q.seq ++ leBytes 4 (q.row % 4096) ++ leBytes 4 0 ++
    digitArea q.form ++ digitArea q.tails ++ digitArea q.pay

/-! ### Order (R154, R155, R158) -/

/-- What comparing two records gives: their order or the side (left?) whose heap record failed, and the heap reads it took. -/
structure CmpRes where
  res : Except (Bool × HeapFault × Nat) Ordering
  reads : List (Nat × Nat)

/-- Order of two strings whose prefix digits agree (R43, R158), from their tails. -/
def State.tailCmp (s : State) (cl : Nat) (a b : Digits) : CmpRes :=
  let n := digsNat (a.take 5)
  let m := digsNat (b.take 5)
  if n ≤ 16 || m ≤ 16 then ⟨.ok (compare n m), []⟩
  else
    let da := digsNat ((a.drop 5).take 12)
    let db := digsNat ((b.drop 5).take 12)
    let reads := [(da, heapBytes n), (db, heapBytes m)]
    match s.heapRead (some cl) da n with
    | .error e => ⟨.error (true, e, da), reads⟩
    | .ok x => match s.heapRead (some cl) db m with
      | .error e => ⟨.error (false, e, db), reads⟩
      | .ok y => ⟨.ok (cmpBytes x y), reads⟩

/-- The other way round. -/
def flip (o : Ordering) : Ordering := match o with | .lt => .gt | .gt => .lt | .eq => .eq

/-- Compare forms column by column, with string tails where prefixes agree. -/
def State.formCmp (s : State) (cl flags : Nat) : List ColType → Nat → Digits → Digits → Digits → Digits → CmpRes
  | [], _, _, _, _, _ => ⟨.ok .eq, []⟩
  | t :: ts, i, a, ta, b, tb =>
    let w := 1 + t.width
    match cmpDigs (a.take w) (b.take w) with
    | .lt => ⟨.ok .lt, []⟩
    | .gt => ⟨.ok .gt, []⟩
    | .eq =>
      let next := s.formCmp cl flags ts (i + 1) (a.drop w) (if t.isStr then ta.drop 17 else ta) (b.drop w) (if t.isStr then tb.drop 17 else tb)
      let isNull := (a.headD 0).toNat == (if keyNullsLast flags i then 1 else 0)
      if !t.isStr || isNull then next
      else
        let r := s.tailCmp cl (ta.take 17) (tb.take 17)
        match r.res with
        | .error e => ⟨.error e, r.reads⟩
        | .ok .eq => ⟨next.res, r.reads ++ next.reads⟩
        | .ok o => ⟨.ok (if keyDesc flags i then flip o else o), r.reads⟩

/-- sort_cmp (R154): forms with tails, then origins; records equal in both are ordered as the hardware happens to (R155). -/
def State.sortCmp (s : State) (cl : Nat) (x : SortSpec) (a b : SortRec) : CmpRes :=
  let r := s.formCmp cl x.flags x.keyTys 0 a.form a.tails b.form b.tails
  match r.res with
  | .ok .eq =>
    let o := if a.seq = b.seq then compare a.row b.row else compare a.seq b.seq
    ⟨.ok (if o == .eq then (if Config.tieFirst (digsNat a.pay) (digsNat b.pay) then .lt else .gt) else o), r.reads⟩
  | _ => r

/-- Records in order, with those whose heap records failed and the heap reads made. -/
structure Ordered where
  recs : List SortRec
  lost : List (HeapFault × Nat)
  reads : List (Nat × Nat)

/-- Put a record in its place among ordered ones. -/
def State.place1 (s : State) (cl : Nat) (x : SortSpec) (r : SortRec) : List SortRec → Ordered
  | [] => ⟨[r], [], []⟩
  | y :: l =>
    let c := s.sortCmp cl x r y
    match c.res with
    | .ok .lt => ⟨r :: y :: l, [], c.reads⟩
    | .ok _ => let o := s.place1 cl x r l; ⟨y :: o.recs, o.lost, c.reads ++ o.reads⟩
    | .error (true, e, da) => ⟨y :: l, [(e, da)], c.reads⟩
    | .error (false, e, da) => let o := s.place1 cl x r l; ⟨o.recs, (e, da) :: o.lost, c.reads ++ o.reads⟩

/-- Order records (R154). -/
def State.sortRecs (s : State) (cl : Nat) (x : SortSpec) (l : List SortRec) : Ordered :=
  l.foldl (fun (o : Ordered) r => let p := s.place1 cl x r o.recs; ⟨p.recs, o.lost ++ p.lost, o.reads ++ p.reads⟩) ⟨[], [], []⟩

/-- Keep the first N records under a limit (R162). -/
def SortSpec.cut (x : SortSpec) (l : List SortRec) : List SortRec := if x.limit = 0 then l else l.take x.limit

/-- A record whose heap data failed is dropped and counted, or fails a STRICT command (R50). -/
def State.dropRec (s : State) (t : Task) (w : Work) (h : HeapFault) (da : Nat) : State :=
  let s := (s.scanErr w.tile da 0xE w.camp).ra .FLT_HEAP_failures w.tile 1
  if t.e.strict then s.failTask t w h.status
  else
    let s := (s.ra .SCN_DROP_ROWS_heap_rows w.camp 1).countErr 2
    s.modExec w.exec (fun (e : Exec) => { e with dropped := e.dropped + 1 })

/-! ### Run pages (R161) -/

/-- A sort destination of an execution. -/
def Exec.sortAt (e : Exec) (op d : Nat) : SortDest := (mget (destKey op d) e.sorts).getD ⟨[], [], 0, [], 0, false⟩
/-- Put a sort destination. -/
def State.setSort (s : State) (id op d : Nat) (q : SortDest) : State := s.modExec id (fun (e : Exec) => { e with sorts := mput (destKey op d) q e.sorts })

/-- Open a run page: in near memory while the sort budget lasts, in the Moraine beyond it. -/
def State.openRun (s : State) (w : Work) (x : SortSpec) (q : SortDest) (das : List Nat) : Paged (SortDest × Nat) :=
  if q.near.length < min x.budget (s.freeUnits w.camp + q.near.length) then
    match das with
    | [] => .wait
    | da :: l => if !s.pageFree false da then .wait else
      match s.execTake w.exec 1 with
      | none => .wait
      | some s => .ok (s.modExec w.exec (fun (e : Exec) => { e with pages := e.pages ++ [da] })) ({ q with near := q.near ++ [da] }, da) l
  else match s.openPage w.exec das with
    | .ok s da l => .ok s (q, da) l
    | .wait => .wait
    | .full => .full

/-- Divide records over pages. -/
def pageGroups : List SortRec → List SortRec → Nat → List (List SortRec)
  | [], [], _ => []
  | [], cur, _ => [cur]
  | r :: l, cur, n => if cur.isEmpty || 64 + n + r.len ≤ 65536 then pageGroups l (cur ++ [r]) (n + r.len) else cur :: pageGroups l [r] r.len

/-- Open pages for a run. -/
def openRuns (w : Work) (x : SortSpec) : Nat → State → SortDest → List Nat → List Nat → Paged (SortDest × List Nat)
  | 0, s, q, got, das => .ok s (q, got) das
  | n + 1, s, q, got, das => match s.openRun w x q das with
    | .ok s (q, da) l => openRuns w x n s q (got ++ [da]) l
    | .wait => .wait
    | .full => .full

/-- Write a run's pages, each linked to the next. -/
def writeRun (w : Work) (pass run : Nat) : List (List SortRec × Nat) → State → State × List Page
  | [], s => (s, [])
  | (rs, da) :: l, s =>
    let b := pageImage 0x3A12 0 pass run rs.length ((l.head?).map (·.2) |>.getD 0) (rs.flatMap SortRec.bytes)
    let s := (s.memPut da b).chargeDev w.camp da b.length
    let (s, ps) := writeRun w pass run l s
    (s, ⟨da, .sorts rs⟩ :: ps)

/-- Store a run (R161): its pages, or none for lack of DAs or Moraine. -/
def State.storeRun (s : State) (w : Work) (x : SortSpec) (q : SortDest) (pass run : Nat) (rs : List SortRec) (das : List Nat) : Paged (SortDest × List Page) :=
  let gs := pageGroups rs [] 0
  match openRuns w x gs.length s q [] das with
  | .ok s (q, got) l => let (s, ps) := writeRun w pass run (List.zip gs got) s; .ok s (q, ps) l
  | .wait => .wait
  | .full => .full

/-- Wipe memory that is freed: it reads as zero, unpoisoned, and no cluster holds a line of it (R301). -/
def State.wipe (s : State) (da n : Nat) : State :=
  let lo := da / 2
  let hi := lo + n
  { s with m := { s.m with
    mem := s.m.mem.filter (fun c => decide (c.1 < lo) || decide (hi ≤ c.1))
    poison := s.m.poison.filter (fun g => decide (32 * g + 32 ≤ lo) || decide (hi ≤ 32 * g))
    caches := s.m.caches.map (fun c => (c.1, { c.2 with
      lines := c.2.lines.filter (fun l => decide (128 * l.2.num + 128 ≤ lo) || decide (hi ≤ 128 * l.2.num))
      evb := c.2.evb.filter (fun l => decide (128 * l.num + 128 ≤ lo) || decide (hi ≤ 128 * l.num)) })) } }

/-- Free run pages. -/
def State.freeRuns (s : State) (w : Work) (ps : List Page) (q : SortDest) : State × SortDest :=
  ps.foldl (fun (a : State × SortDest) p =>
    let s := (a.1.wipe p.da 65536).modExec w.exec (fun (e : Exec) => { e with pages := e.pages.filter (· != p.da) })
    if a.2.near.contains p.da then (s.execGive w.exec 1, { a.2 with near := a.2.near.filter (· != p.da) }) else (s.giveMoraine w.exec 1, a.2)) (s, q)

/-- Read run pages back, charged (R137, R161). -/
def readRuns (w : Work) : List Page → State → State × Option (Nat × Bool)
  | [], s => (s, none)
  | p :: l, s =>
    let used := word32 (s.viewGet (some w.cluster) p.da 2 64) 4 % 2 ^ 17
    let s := s.chargeDev w.camp p.da (min 65536 (max 64 used))
    match s.pageFault w.cluster p.da with
    | some x => (s, some (p.da, x))
    | none => readRuns w l s

/-- A run page has failed: latched for the cluster, and the command loses data. -/
def State.runLost (s : State) (t : Task) (w : Work) (da : Nat) (poison : Bool) : State :=
  let c := w.cluster
  let s := if s.rg .SRT_ERRLOG_valid c = 1 then s else
    (((s.rs .SRT_ERRLOG_page_da c da).rs .SRT_ERRLOG_poisoned c (if poison then 1 else 0)).rs .SRT_ERRLOG_camp c w.camp).rs .SRT_ERRLOG_valid c 1
  s.loseData t w 0x04 da

/-- Sort records of pages. -/
def PageBody.sortList : PageBody → List SortRec
  | .sorts l => l
  | _ => []

/-! ### Rows -/

/-- RUN_FORMATION (R157 to R162): the live rows of the batch in hand become one sorted run in run pages at the DAs given. -/
def execRunFormation (die tag : Nat) (das : List Nat) (s : State) : Res :=
  match s.task die tag with
  | none => .next s
  | some t => match t.head with
    | none => .next s
    | some (i, o, b) => match t.sortSpec (t.opIx i) with
      | none => .next s
      | some x => s.withCols t o.reads b (fun s' w b =>
          let d := t.sortDest
          let q := t.e.sortAt x.op d
          let all := s'.sortRecs w.cluster x (b.liveRows.map (x.record o.ins b))
          let rs := x.cut all.recs
          if rs.isEmpty && all.lost.isEmpty then .next (s'.goOn t.key w.pop) else
          match s'.storeRun w x q 0 q.runs.length rs das with
          | .wait => .next s
          | .full => .next (s'.failTask t w stMoraineFull)
          | .ok s' (q, ps) _ =>
            let s' := all.reads.foldl (fun (s : State) (h : Nat × Nat) => s.chargeTask w h.1 h.2) s'
            let s' := if rs.isEmpty then s' else (s'.setSort w.exec x.op d { q with runs := q.runs ++ [ps] }).ra .SRT_STAT_runs w.tile 1
            let s' := s'.setWork t.key w
            let s' := all.lost.foldl (fun (s : State) (h : HeapFault × Nat) => s.dropRec t w h.1 h.2) s'
            match s'.taskAt t.key with
            | some t' => if t'.w.failed.isSome then .next s' else .next (s'.goOn t.key w.pop)
            | none => .next s')

/-- Output batches of a sort (R164). -/
def SortSpec.batches (x : SortSpec) (o : PlanOp) (d : Nat) (rs : List SortRec) : List Batch :=
  (chop (rs.length / 4096 + 1) rs).zipIdx.map (fun l =>
    let vals := l.1.map (fun q => keyUnforms x.passTys q.pay)
    Batch.full (d * 2 ^ 25 + l.2) l.1.length (o.outs.map (fun r =>
      let j := x.pass.idxOf r.idx
      (⟨x.passTys.getD j ⟨0, 0, 0⟩, none, vals.map (fun v => v.getD j .null)⟩ : Column))) [])

/-- MERGE_PASS (R159, R161 to R164): up to 64 runs of a destination become one; when no more than 64 are left of the pass and none was made by it, they are merged into the
output batches. Pages read are freed. -/
def execMergePass (die tag : Nat) (das : List Nat) (s : State) : Res :=
  match s.task die tag with
  | none => .next s
  | some t => match t.w.body, t.p.lastOp t.w.frag with
    | .final op d, some o => match t.sortSpec op with
      | none => .next s
      | some x =>
        let q := t.e.sortAt op d
        if q.finished || q.runs.isEmpty then .next s else
        let group := q.runs.take 64
        let pages := group.flatten
        match readRuns t.w pages s with
        | (s', some (da, p)) => .next (s'.runLost t t.w da p)
        | (s', none) =>
          let all := s'.sortRecs t.w.cluster x (pages.flatMap (fun p => p.body.sortList))
          let s' := all.reads.foldl (fun (s : State) (h : Nat × Nat) => s.chargeTask t.w h.1 h.2) s'
          let s' := all.lost.foldl (fun (s : State) (h : HeapFault × Nat) => s.dropRec t t.w h.1 h.2) s'
          if ((s'.taskAt t.key).map (fun t => t.w.failed.isSome)).getD true then .next s' else
          let rs := x.cut all.recs
          let (s', q) := s'.freeRuns t.w pages q
          let s' := s'.ra .SRT_STAT_merged t.w.tile rs.length
          if q.runs.length ≤ 64 && q.next.isEmpty then
            let bs := x.batches o d rs
            if 2 ^ 25 < bs.length then .next (s'.failTask t t.w stLimitExceeded)
            else
              let s' := s'.setSort t.w.exec op d { q with runs := [], emitted := bs.length, finished := true }
              .next (s'.goOn t.key { t.w with out := t.w.out ++ bs, hold := false })
          else match s'.storeRun t.w x q (q.pass + 1) q.next.length rs das with
            | .wait => .next s
            | .full => .next (s'.failTask t t.w stMoraineFull)
            | .ok s' (q, ps) _ =>
              let rest := q.runs.drop 64
              let next := q.next ++ [ps]
              let q := if rest.isEmpty then { q with runs := next, next := [], pass := q.pass + 1 } else { q with runs := rest, next := next }
              .next (s'.setSort t.w.exec op d q)
    | _, _ => .next s

end Sys2Proof.Machine
end

