-- ==== Sys2Proof/Machine/Tables.lean ====
section
/-! DEFINITION. Device-resident tables: handles, blocks and dictionaries written under a Camp's quotas, commits and freed blocks (R208, R209, R233 to R238, R301). -/

namespace Sys2Proof.Machine

/-! ### Handles (Table 08-1, R209) -/

/-- The table that a handle of a Camp names, with its slot. -/
def State.tableAt (s : State) (camp h : Nat) : Option (Nat × Table) :=
  let slot := bits h 10 16
  match mget slot s.plans.tables with
  | none => none
  | some q => match q.tab with
    | none => none
    | some t => if h % 1024 = camp && t.camp = camp && q.gen = bits h 26 6 then some (slot, t) else none

/-- The plan that a handle of a Camp names, with its slot. -/
def State.planAt (s : State) (camp h : Nat) : Option (Nat × PlanSlot × Plan) :=
  let slot := bits h 10 14
  match mget slot s.plans.plans with
  | none => none
  | some q => match q.plan with
    | none => none
    | some p => if h % 1024 = camp && q.camp = camp && q.gen = bits h 24 8 && h < 2 ^ 32 then some (slot, q, p) else none

/-- The next generation of a slot: modulo its width, never 0. -/
def nextGen (w g : Nat) : Nat := if (g + 1) % 2 ^ w = 0 then 1 else (g + 1) % 2 ^ w

/-! ### Memory of a Camp (R313) -/

/-- Take bytes at a DA from the quota of its tier. -/
def State.takeMem (s : State) (c da n : Nat) : Option State :=
  if da < 2 ^ 40 then s.takeNear c (units64k n)
  else if c = 0 then some s
  else match mget c s.camps with
    | none => none
    | some i => if i.farUsed + units64k n ≤ i.farQuota then
        some { s with camps := mput c { i with farUsed := i.farUsed + units64k n } s.camps } else none

/-- Free bytes at a DA: they are zeroed, and the quota of their tier takes them back (R301). -/
def State.freeMem (s : State) (c : Nat) (x : Extent) : State :=
  let s := s.wipe x.da x.bytes
  if x.da < 2 ^ 40 then s.giveNear c (units64k x.bytes)
  else { s with camps := mmod c (fun (i : CampInfo) => { i with farUsed := i.farUsed - units64k x.bytes }) s.camps }

/-- Why a write stops: a layout that the device would not choose, or a failure of the command. -/
inductive WriteErr where
  | choice
  | status (st : Nat)
  deriving DecidableEq, Repr

/-- Write bytes into fresh memory of a Camp, charged by tier. -/
def State.putMem (s : State) (c da : Nat) (b : Bytes) : Except WriteErr State :=
  if b.isEmpty then .ok s
  else if !(s.populated da && s.populated (da + 2 * b.length - 1) && s.unused da b.length) then .error .choice
  else match s.takeMem c da b.length with
    | none => .error (.status stQuotaExhausted)
    | some s => .ok ((s.memPut da b).chargeDev c da b.length)

/-- Write a block and its heap. -/
def State.writeBlock (s : State) (c : Nat) (t : ColType) (enc : Nat) (v : List Lit) (codes : List Nat) (dict : Nat) (ch : BlockChoice) :
    Except WriteErr (State × List Extent) :=
  if !choiceOk t enc v codes ch || v.isEmpty || 4096 < v.length then .error .choice
  else
    let (b, h) := blockEncode t enc v codes dict ch
    match s.putMem c ch.da b with
    | .error e => .error e
    | .ok s => match s.putMem c ch.heapDa h with
      | .error e => .error e
      | .ok s => .ok (s, ⟨ch.da, b.length⟩ :: (if h.isEmpty then [] else [⟨ch.heapDa, h.length⟩]))

/-- A column to write: its type and encoding, its values, and, under DICT, their codes and the DA of their dictionary. -/
structure ColOut where
  ty : ColType
  enc : Nat
  vals : List Lit
  codes : List Nat
  dict : Nat
  deriving DecidableEq, Repr

/-- Write one batch's blocks, column by column. -/
def State.writeCols (c : Nat) : List ColOut → List BlockChoice → State → Except WriteErr (State × List Nat × List Extent)
  | [], _, s => .ok (s, [], [])
  | x :: l, chs, s => match chs with
    | [] => .error .choice
    | ch :: rest => match s.writeBlock c x.ty x.enc x.vals x.codes x.dict ch with
      | .error e => .error e
      | .ok (s, own) => match State.writeCols c l rest s with
        | .error e => .error e
        | .ok (s, das, owns) => .ok (s, ch.da :: das, own ++ owns)

/-! ### Dictionaries (R45, R46, R238) -/

/-- Values in blocks of 4,096. -/
def rowBlocks (v : List Lit) : List (List Lit) := chop 4096 v

/-- Write entry blocks of a dictionary. -/
def State.writeEntries (c : Nat) (t : ColType) : List (List Lit) → List BlockChoice → State → Except WriteErr (State × List Nat × List Extent)
  | [], _, s => .ok (s, [], [])
  | v :: l, chs, s => match chs with
    | [] => .error .choice
    | ch :: rest => match s.writeBlock c t encPlain v [] 0 { ch with validity := false } with
      | .error e => .error e
      | .ok (s, own) => match State.writeEntries c t l rest s with
        | .error e => .error e
        | .ok (s, das, owns) => .ok (s, ch.da :: das, own ++ owns)

/-- Are strings in strictly ascending byte order? -/
def bytesAscend : List Bytes → Bool
  | a :: b :: l => cmpBytes a b == .lt && bytesAscend (b :: l)
  | _ => true

/-- Write a dictionary of entries in code order: new entry blocks after `kept` blocks that stand (R46), and a descriptor, marked sorted only when its order has been verified (R45). -/
def State.writeDict (s : State) (c : Nat) (t : ColType) (entries : List Bytes) (kept : List Nat) (d : DictChoice) :
    Except WriteErr (State × List Nat × List Extent) :=
  if d.da % 256 != 0 || entries.isEmpty || 1048576 < entries.length || (d.sorted && !bytesAscend entries) then .error .choice
  else match State.writeEntries c t (rowBlocks ((entries.drop (4096 * kept.length)).map Lit.str)) d.blocks s with
    | .error e => .error e
    | .ok (s, das, own) =>
      let b := dictBytes t.code entries.length d.sorted (kept ++ das)
      match s.putMem c d.da b with
      | .error e => .error e
      | .ok s => .ok (s, kept ++ das, own ++ [⟨d.da, b.length⟩])

/-- One value's code in a value-to-code map, charged as a dictionary operation (R204, R238). -/
def State.codeOf (s : State) (d : GDict) (v : ColVal) : Except WriteErr (State × GDict × Nat) :=
  match s.dictInsert d v with
  | .error (e, _) => .error (.status e.status)
  | .ok r =>
    let s := s.chargeSearch d.camp 1
    match r with
    | .had p => .ok (s.charge d.camp 1 32, d, p)
    | .ok d' n split =>
      let s := s.ra .MAT_DICT_inserts d.home 1
      .ok ((if split then s.ra .MAT_DICT_splits d.home 1 else s).charge d.camp 1 n, d', d.inserted)
    | .full => .error (.status stMatchResource)

/-- Codes of a column's values; a null takes code 0 and enters nothing. -/
def codeVals : List ColVal → State → GDict → Except WriteErr (State × GDict × List Nat)
  | [], s, d => .ok (s, d, [])
  | v :: l, s, d =>
    if v == .null then
      match codeVals l s d with
      | .error e => .error e
      | .ok (s, d, cs) => .ok (s, d, 0 :: cs)
    else match s.codeOf d v with
      | .error e => .error e
      | .ok (s, d, c) => match codeVals l s d with
        | .error e => .error e
        | .ok (s, d, cs) => .ok (s, d, c :: cs)

/-- Codes of several batches of one column, with one map over all of them. -/
def codeBatches : List (List ColVal) → State → GDict → Except WriteErr (State × GDict × List (List Nat))
  | [], s, d => .ok (s, d, [])
  | v :: l, s, d => match codeVals v s d with
    | .error e => .error e
    | .ok (s, d, cs) => match codeBatches l s d with
      | .error e => .error e
      | .ok (s, d, r) => .ok (s, d, cs :: r)

/-! ### Batch lists and commits (R233 to R237) -/

/-- A batch list entry's bytes (Table 08-13). -/
def BatchEntry.bytes (e : BatchEntry) : Bytes := leBytes 4 e.rows ++ leBytes 4 0 ++ e.blocks.flatMap (leBytes 8)

/-- Bytes of a table's batch list. -/
def Table.listBytes (t : Table) : Nat := t.batches.length * (8 + 8 * t.cols.length)

/-- Is a batch in some table's list or some execution's snapshot (R235)? -/
def State.batchHeld (s : State) (b : BatchEntry) : Bool :=
  s.plans.tables.any (fun q => match q.2.tab with | some t => t.batches.contains b | none => false) ||
  s.execs.any (fun e => e.2.snaps.any (fun t => t.2.batches.contains b))

/-- Free the batches that nothing references any more. -/
def State.freeBatches (s : State) (c : Nat) (l : List BatchEntry) : State :=
  l.foldl (fun (s : State) b => if s.batchHeld b then s else b.own.foldl (fun (s : State) x => s.freeMem c x) s) s

/-- Put a table into a slot. -/
def State.setTable (s : State) (slot : Nat) (t : Option Table) : State :=
  { s with plans := { s.plans with tables := mmod slot (fun (q : TableSlot) => { q with tab := t }) s.plans.tables } }

/-- Create a table in the lowest free slot, with a new generation: its slot and handle (R208, R237). -/
def State.newTable (s : State) (t : Table) : Option (State × Nat × Nat) :=
  match (List.range 65536).find? (fun k => match mget k s.plans.tables with | some q => q.tab.isNone | none => true) with
  | none => none
  | some k =>
    let g := nextGen 6 ((mget k s.plans.tables).map (·.gen) |>.getD 0)
    some ({ s with plans := { s.plans with tables := mput k ⟨g, some t⟩ s.plans.tables } }, k, tableHandle t.camp k g)

/-- Give a table a new batch list at a DA: limit, quota, bytes (R233, R235). -/
def State.putList (s : State) (slot : Nat) (t : Table) (bs : List BatchEntry) (da : Nat) : Except WriteErr State :=
  if 16777216 < bs.length then .error (.status stLimitExceeded)
  else
    let s := if t.batches.isEmpty then s else s.freeMem t.camp ⟨t.da, t.listBytes⟩
    match s.putMem t.camp da (bs.flatMap BatchEntry.bytes) with
    | .error e => .error e
    | .ok s => if (2 : Nat) ^ 40 ≤ da then .error .choice else .ok (s.setTable slot (some { t with batches := bs, da := da, damaged := false }))

/-- Remove a table: its handle becomes stale, its list and its unreferenced blocks are freed (R235). -/
def State.dropTable (s : State) (slot : Nat) : State :=
  match (mget slot s.plans.tables).bind (·.tab) with
  | none => s
  | some t =>
    let s := s.setTable slot none
    let s := if t.batches.isEmpty then s else s.freeMem t.camp ⟨t.da, t.listBytes⟩
    s.freeBatches t.camp t.batches

/-- New batches enter a table: after its current last entry, or in place of the list (R235). -/
def State.commitBatches (s : State) (slot : Nat) (new : List BatchEntry) (replace : Bool) (da : Nat) : Except WriteErr State :=
  match (mget slot s.plans.tables).bind (·.tab) with
  | none => .error (.status stTableNotFound)
  | some t =>
    if t.damaged then .error (.status stDataLoss)
    else if !extentsApart (⟨da, ((if replace then 0 else t.batches.length) + new.length) * (8 + 8 * t.cols.length)⟩ :: new.flatMap (·.own)) then .error .choice
    else match s.putList slot t (if replace then new else t.batches ++ new) da with
      | .error e => .error e
      | .ok s => .ok (if replace then s.freeBatches t.camp t.batches else s)

/-! ### Camp teardown (R239, R301, R363) -/

/-- Indices below n of 8-byte units at a table's DA that hold anything. -/
def State.usedUnits (s : State) (da n : Nat) : List Nat :=
  ((s.m.mem.filter (fun c => decide (da / 2 ≤ c.1) && decide (c.1 < da / 2 + 8 * n))).map (fun c => (c.1 - da / 2) / 8)).eraseDups

/-- Units of a table of a level (Table 10-4). -/
def levelUnits (lvl : Nat) : Nat :=
  match lvl with
  | 0 => 256 | 1 => 128 | 2 => 512 | _ => 32

/-- Pages that a table maps for a Camp, and the tables below it: DA and bytes. -/
def State.mapped (s : State) (camp : Nat) : Nat → Nat → Nat → List Extent
  | 0, _, _ => []
  | fuel + 1, lvl, t =>
    ⟨t, 8 * levelUnits lvl⟩ :: (s.usedUnits t (levelUnits lvl)).flatMap (fun i =>
      let e := leNat (s.memGet (t + 16 * i) 8)
      if bits e 0 1 = 0 || bits e 9 10 != camp then []
      else if bits e 1 1 = 1 then (if lvl = 0 then [] else [⟨bits e 27 37 * 512, pageSize lvl / 2⟩])
      else if lvl = 3 then [] else s.mapped camp fuel (lvl + 1) (bits e 27 37 * 512))

/-- Has everything of a Camp stopped: commands, executions, tasks, entries that are not draining? -/
def State.campIdle (s : State) (c : Nat) : Bool :=
  !s.host.cmds.any (fun d => d.camp == c && d.ref.sq != 0) && !s.execs.any (fun e => e.2.camp == c) && !s.run.works.any (fun w => w.2.camp == c) &&
  !s.dies.any (fun d => d.2.entries.any (fun e => e.2.camp == c && (e.2.state == .waiting || e.2.state == .ready || e.2.state == .running)))

/-- Does a Camp hold a Digest Engine context, through a command or a service's thread? -/
def State.dgeHeld (s : State) (c k : Nat) (o : DgeOwner) : Bool :=
  match o with
  | .command d => d == c
  | .thread _ _ => s.rg .DGE_CTL_camp k == c
  | .regs => false

/-- Free everything a Camp holds: Digest Engine contexts and key slots, plans, tables, standing queries and records, its pages and its translation tables, all
zeroed, and its translations (R239, R301, R368, R477). -/
def State.freeCamp (s : State) (c : Nat) : State :=
  let s := (s.trust.ctx.filter (fun x => s.dgeHeld c x.1 x.2.owner)).foldl (fun (s : State) x => s.dgeRelease x.1) s
  let s := (s.trust.copies.filter (fun k => k.2.camp == c)).foldl (fun (s : State) k => s.zeroSlot k.1) s
  let plans := s.plans.plans.filter (fun q => q.2.camp == c && q.2.plan.isSome)
  let tabs := s.plans.tables.filterMap (fun q => q.2.tab.bind (fun t => if t.camp = c then some t else none))
  let pages := if s.rg .XLT_ROOT_valid c = 1 then s.mapped c 4 0 (s.rg .XLT_ROOT_base c) else []
  let all := plans.map (fun q => (⟨q.2.da, 65536 * q.2.units⟩ : Extent)) ++ tabs.map (fun t => ⟨t.da, t.listBytes⟩) ++
    tabs.flatMap (fun t => t.batches.flatMap (·.own)) ++ pages
  let s := all.foldl (fun (s : State) x => s.wipe x.da x.bytes) s
  let s := { s with host := { s.host with streams := s.host.streams.filter (fun x => x.camp != c) } }
  (s.xdrop (xmatch c false 0 0)).freeCampRegs c

/-- TEARDOWN_COMPLETE (R363): once everything of a Camp in TEARDOWN has stopped, what it holds is freed, it becomes FREE, and every CAMP_DESTROY that waited completes. -/
def execTeardownComplete (c : Nat) (s : State) : Res :=
  if !s.alive || s.campState c != .teardown || !s.campIdle c then .next s else
  let s := s.freeCamp c
  .next ((s.host.cmds.filter (fun d => d.wait == .teardown c)).foldl (fun (s : State) d => s.completeCmd d d.okStatus 0) s)

end Sys2Proof.Machine
end

