-- ==== Sys2Proof/Machine/Plans.lean ====
section
/-! DEFINITION. Loading and dropping plans, bindings, the start of executions, and standing queries (R208 to R211, R221 to R225, R239 to R244, R257). -/

namespace Sys2Proof.Machine

/-! ### PLAN_LOAD and PLAN_DROP -/

/-- Loaded plans of a Camp. -/
def State.planCount (s : State) (c : Nat) : Nat := (s.plans.plans.filter (fun q => q.2.camp == c && q.2.plan.isSome)).length

/-- A Camp's allotments of plans and standing queries; Camp 0 has the device's. -/
def State.planAllot (s : State) (c : Nat) : Nat := if c = 0 then 16384 else ((mget c s.camps).map (·.planAllot)).getD 0
def State.standingAllot (s : State) (c : Nat) : Nat := if c = 0 then 1024 else ((mget c s.camps).map (·.standingAllot)).getD 0

/-- Load a plan for a Camp from an image of the declared length (R221, R222): its copy at `da` charged to the Camp, the checks of Table 08-11, and a slot. The
failing status and result word, or the handle. -/
def State.loadPlan (s : State) (camp : Nat) (img : Bytes) (da : Nat) : Except (Nat × Nat) (State × Nat) :=
  let u := units64k img.length
  match s.takeNear camp u with
  | none => .error (stQuotaExhausted, 0)
  | some s => match planLoad img with
    | .error e => .error (e.status, e.word e.order)
    | .ok p =>
      match (List.range 16384).find? (fun k => match mget k s.plans.plans with | some q => q.plan.isNone | none => true) with
      | none => .error (stPlanQuota, (perr 13 noIndex stPlanQuota).word 13)
      | some k =>
        if s.planAllot camp ≤ s.planCount camp then .error (stPlanQuota, (perr 13 noIndex stPlanQuota).word 13)
        else
          let g := nextGen 8 ((mget k s.plans.plans).map (·.gen) |>.getD 0)
          let s := s.memPut da img
          .ok ({ s with plans := { s.plans with plans := mput k ⟨g, camp, da, u, false, some p⟩ s.plans.plans } }, planHandle camp k g)

/-- The declared length of an image, where it is a usable one (R223). -/
def imageLen (b : Bytes) : Option Nat :=
  let n := word32 b 1
  if n < 64 || 16777216 < n || n % 16 != 0 then none else some n

/-- PLAN_LOAD (R221, R223). -/
def State.doPlanLoad (s : State) (c : Cmd) (data : Bytes) (da : Nat) : State :=
  let (b, s) := s.dataIn c data
  if b.length < 8 then s.failCmd c stLengthShort
  else match imageLen b with
    | none => s.failCmd c stPlanMalformed ((perr 1 noIndex stPlanMalformed).word 1)
    | some n => match wholeLen c n with
      | .error st => s.failCmd c st
      | .ok c => match s.loadPlan c.camp (b.take n) da with
        | .error (st, w) => s.failCmd c st w
        | .ok (s, h) => s.completeCmd c c.okStatus h

/-- PLAN_LOAD; `da` is where firmware puts its checked copy. -/
def execPlanLoad (r : CmdRef) (data : Bytes) (da : Nat) (s : State) : Res := s.withCmd r 0x40 (fun c => s.doPlanLoad c data da)

/-- Does an execution or a standing query refer to a plan slot (R239)? -/
def State.planBusy (s : State) (slot : Nat) : Bool :=
  s.execs.any (fun e => e.2.plan == slot) || s.plans.standing.any (fun q => q.2.plan == slot)

/-- Free a plan's slot and copy (R239, R301). -/
def State.dropPlan (s : State) (slot : Nat) (q : PlanSlot) : State :=
  let s := (s.wipe q.da (65536 * q.units)).giveNear q.camp q.units
  { s with plans := { s.plans with plans := mput slot { q with plan := none, units := 0, damaged := false } s.plans.plans } }

/-- PLAN_DROP: the status for a Camp's handle, and the state after it. -/
def State.doPlanDrop (s : State) (camp h : Nat) : Nat × State :=
  match s.planAt camp h with
  | none => (stPlanNotFound, s)
  | some (slot, q, _) => if s.planBusy slot then (stPlanBusy, s) else (0, s.dropPlan slot q)

/-- PLAN_DROP (R239). -/
def execPlanDrop (r : CmdRef) (s : State) : Res :=
  s.withCmd r 0x41 (fun c => match s.doPlanDrop c.camp (c.w 9) with
    | (0, s) => s.completeCmd c c.okStatus 0
    | (st, _) => s.failCmd c st)

/-! ### Bindings (R224, R536, Table 12-7) -/

/-- Why a binding fails: status and result word (R347). -/
structure BindErr where
  status : Nat
  word : Nat
  deriving DecidableEq, Repr

/-- A failing step of R224 with the slot or operator it concerns. -/
def bindFail (st step ix : Nat) : BindErr := ⟨st, step + 65536 * ix⟩

/-- Bytes of an entry's value, padded to 8. -/
def bindPad (q : Param) (null : Bool) (len : Nat) : Nat := if q.table then 8 else if null then 0 else constPad q.ty.code len

/-- One entry's value, checked against its slot (R224 step 3). -/
def bindValue (q : Param) (null : Bool) (len : Nat) (d : Bytes) : Option Bound :=
  if q.table then (if null || len != 0 then none else some (.table (word32 d 0)))
  else if null then (if q.nullable && len == 0 then some (.value .null) else none)
  else if q.ty.isStr then (if len ≤ q.maxLen then some (.value (.str (bslice d 0 len))) else none)
  else
    let v := (bytesDigits d).take len
    if len = q.ty.width && storedLegal q.ty v then some (.value (.dig v)) else none

/-- Read `n` entries from an offset of the block. -/
def bindEntries (p : Plan) (b : Bytes) : Nat → Nat → Map Bound → Except BindErr (Map Bound)
  | 0, _, m => .ok m
  | n + 1, off, m =>
    if b.length < off + 8 then .error (bindFail stParamMismatch 3 noIndex)
    else
      let w0 := leNat (bslice b off 4)
      let w1 := leNat (bslice b (off + 4) 4)
      let slot := bits w0 0 9
      let null := bits w0 9 1 == 1
      let len := bits w1 0 17
      if !rz w0 10 22 || !rz w1 17 15 then .error ⟨stInvalidField, 0⟩
      else match p.params[slot]? with
        | none => .error (bindFail stParamMismatch 3 slot)
        | some q =>
          let k := bindPad q null len
          if mhas slot m || b.length < off + 8 + k then .error (bindFail stParamMismatch 3 slot)
          else match bindValue q null len (bslice b (off + 8) k) with
            | none => .error (bindFail stParamMismatch 3 slot)
            | some v => bindEntries p b n (off + 8 + k) (mput slot v m)

/-- Step 3: every slot bound exactly once. -/
def bindBlock (p : Plan) (b : Bytes) : Except BindErr (Map Bound) :=
  match bindEntries p b (bits (word32 b 0) 0 9) 8 [] with
  | .error e => .error e
  | .ok m => match (List.range p.params.length).find? (fun k => !mhas k m) with
    | some k => .error (bindFail stParamMismatch 3 k)
    | none => .ok m

/-- Slots that SCANs and TABLE_WRITEs name. -/
def Plan.scanSlots (p : Plan) : List Nat := p.ops.filterMap (fun o => match o.body with | .scan k _ => some k | _ => none)
def Plan.writeSlots (p : Plan) : List Nat := p.ops.filterMap (fun o => match o.body with | .tableWrite k _ _ _ => some k | _ => none)

/-- Table handles bound, by slot. -/
def boundTables (m : Map Bound) : List (Nat × Nat) := m.filterMap (fun q => match q.2 with | .table h => some (q.1, h) | .value _ => none)

/-- May the value 0 be bound to the slot: is it a TABLE_WRITE's and no SCAN's (R224 step 4)? -/
def Plan.mayCreate (p : Plan) (k : Nat) : Bool := p.writeSlots.contains k && !p.scanSlots.contains k

/-- Step 4 (R209, R237). -/
def State.bindTables (s : State) (camp : Nat) (p : Plan) (m : Map Bound) : Option BindErr :=
  let ts := boundTables m
  match ts.find? (fun q => if q.2 = 0 then !p.mayCreate q.1 else (s.tableAt camp q.2).isNone) with
  | some q => some (bindFail stTableNotFound 4 q.1)
  | none => match ts.filter (fun q => q.2 == 0) with
    | _ :: q :: _ => some (bindFail stParamMismatch 4 q.1)
    | _ => none

/-- The tables bound now, by slot. -/
def State.boundNow (s : State) (camp : Nat) (m : Map Bound) : Map Table :=
  (boundTables m).filterMap (fun q => (s.tableAt camp q.2).map (fun t => (q.1, t.2)))

/-- A bound value, null for a table slot. -/
def litOfBind (m : Map Bound) (k : Nat) : Lit := match mget k m with | some (.value v) => v | some (.table _) | none => .null

/-- Types of the bound tables. -/
def tyEnv (ts : Map Table) : TyEnv := ⟨fun k => (mget k ts).map (fun t => t.cols.map (·.ty))⟩

/-- Step 5: SCAN columns, column types of tables written, and the deferred checks of R536. -/
def bindTypes (p : Plan) (m : Map Bound) (ts : Map Table) : Option BindErr :=
  let env := tyEnv ts
  let scan (o : PlanOp) (i : Nat) : Option BindErr := match o.body with
    | .scan k cs => (match mget k ts with
      | some t => if cs.all (fun c => decide (c < t.cols.length)) then none else some (bindFail stTypeMismatch 5 i)
      | none => none)
    | .tableWrite k _ _ _ => (match mget k ts with
      | some t => if (List.range o.ins.length).map (p.inTy env i) == t.cols.map (fun c => some c.ty) then none else some (bindFail stTypeMismatch 5 i)
      | none => none)
    | _ => none
  match p.ops.zipIdx.findSome? (fun x => scan x.1 x.2) with
  | some e => some e
  | none => (bindErr p env (litOfBind m)).map (fun e => ⟨e.status, e.word 5⟩)

/-- Free execution contexts: executions and service invocations each use one (R257). -/
def State.contexts (s : State) : Nat := s.execs.length + (s.ulr.ctxs.filter (fun u => u.2.inv.isSome)).length

/-- Executions of a plan. -/
def State.planExecs (s : State) (slot : Nat) : Nat := (s.execs.filter (fun e => e.2.plan == slot)).length

/-- Replace a plan slot. -/
def State.setPlan (s : State) (slot : Nat) (q : PlanSlot) : State := { s with plans := { s.plans with plans := mput slot q s.plans.plans } }

/-- Is a plan's copy lost (Table 10-9)? Once found poisoned it stays damaged. -/
def State.planLost (s : State) (slot : Nat) (q : PlanSlot) : Option State :=
  if q.damaged then some s
  else if !s.memPoisoned q.da (65536 * q.units) then none
  else some (((s.countErr 3).logErr 3 0x06 stDataLoss 0 q.camp q.da 0).setPlan slot { q with damaged := true })

/-- Is the batch list of a table that a plan reads lost (Table 10-9)? Once found poisoned the table stays damaged. -/
def State.listLost (s : State) (slot : Nat) (t : Table) : Option State :=
  if t.damaged then some s
  else if t.batches.isEmpty || !s.memPoisoned t.da t.listBytes then none
  else some (((s.countErr 3).logErr 3 0x06 stDataLoss 0 t.camp t.da 0).setTable slot (some { t with damaged := true }))

/-- Slots whose table's batch list the execution reads: every one but those it only drops. -/
def Plan.listSlots (p : Plan) : List Nat :=
  p.scanSlots ++ p.ops.filterMap (fun o => match o.body with | .tableWrite k _ false _ => some k | _ => none)

/-- The bound tables whose lists are read, checked in slot order; none: all are sound. -/
def State.tablesLost (s : State) (camp : Nat) (p : Plan) (m : Map Bound) : Option State :=
  ((boundTables m).filter (fun q => p.listSlots.contains q.1)).findSome? (fun q => (s.tableAt camp q.2).bind (fun t => s.listLost t.1 t.2))

/-- Steps 1 to 5 of R224 for a Camp's plan handle and binding block. -/
def State.bindPlan (s : State) (camp h : Nat) (b : Bytes) : Except BindErr (Nat × PlanSlot × Plan × Map Bound) :=
  match s.planAt camp h with
  | none => .error (bindFail stPlanNotFound 1 noIndex)
  | some (slot, q, p) =>
    if 64 ≤ s.planExecs slot || 8192 ≤ s.contexts then .error (bindFail stBusy 2 noIndex)
    else match bindBlock p b with
      | .error e => .error e
      | .ok m => match s.bindTables camp p m with
        | some e => .error e
        | none => match bindTypes p m (s.boundNow camp m) with
          | some e => .error e
          | none => .ok (slot, q, p, m)

/-! ### Match Unit resources (R180 to R184, R202) -/

/-- A segment that an execution needs: its key, whether it is wide, its entries and its size in physical entries. -/
structure SegNeed where
  key : Nat
  wide : Bool
  specs : List TernSpec
  size : Nat

/-- The fewest in-list lanes of any tile. -/
def State.minLanes (s : State) : Nat :=
  ((List.range 128).map (fun t => let n := s.rg .FLT_CTL_inlist_lanes t; if n = 0 || 16 < n then 16 else n)).foldl min 16

/-- The segments of a plan under a binding. -/
def State.segNeeds (s : State) (p : Plan) (env : TyEnv) (m : Map Bound) : List SegNeed :=
  p.ops.zipIdx.flatMap (fun x => match x.1.body with
    | .filter ts _ => ts.zipIdx.filterMap (fun t =>
        if t.1.op != 7 then none else
        let lits := termLits p m t.1
        let n := (lits.filter (fun l => !l.isNull)).length
        let wide := match p.inTy env x.2 t.1.col with | some ty => decide (40 < ternDigits ty) | none => false
        if s.minLanes < n then some ⟨segKey x.2 t.2, wide, inEntries wide lits, segSize n wide⟩ else none)
    | .matchOp 0 _ first n =>
      let ty := (p.inTy env x.2 0).getD ⟨0, 0, 0⟩
      let wide := decide (40 < ternDigits ty)
      let es := classEntries p first n
      [⟨segKey x.2 63, wide, rangeEntries wide (if ty.isStr then 37 else ty.width) es, segSize es.length wide⟩]
    | _ => [])

/-- Physical ternary entries and automaton states that a Camp holds. -/
def State.segUsed (s : State) (c : Nat) : Nat :=
  ((List.range 64).map (fun k => if s.rg .MAT_SEG_valid k = 1 && s.rg .MAT_SEG_camp k = c then s.rg .MAT_SEG_size k else 0)).sum
def State.autUsedBy (s : State) (c : Nat) : Nat := (s.execs.map (fun e => if e.2.camp = c then (e.2.auts.map (·.2)).sum else 0)).sum

/-- Automaton images of a plan's terms by blob offset, with their states. -/
def Plan.images (p : Plan) : List (Nat × Nat) :=
  let offs := (p.ops.flatMap (fun o => match o.body with
    | .filter ts _ => (ts.filter (fun t => t.op == 10 || t.op == 11)).map (·.first)
    | _ => [])).eraseDups
  offs.map (fun o => (o, (p.automaton o).states.length))

/-- States that the automaton store of every cluster can hold. -/
def State.autStore (s : State) : Nat := (((List.range 16).map (fun c => min (s.rg .MAT_CTL_aut_states c) 262144)).min?).getD 0

/-- Allocate segments one by one. -/
def allocSegs (camp : Nat) : List SegNeed → State → Option (State × Map Nat)
  | [], s => some (s, [])
  | x :: l, s => match s.allocSeg camp x.wide x.specs x.size with
    | none => none
    | some (s, k) => match allocSegs camp l s with
      | none => none
      | some (s, m) => some (s, mput x.key k m)

/-- Allocate an execution's segments and automaton states within the free capacity and the Camp's allotment (R180). -/
def State.allocMatch (s : State) (camp : Nat) (p : Plan) (env : TyEnv) (m : Map Bound) : Option (State × Map Nat × List (Nat × Nat)) :=
  let need := s.segNeeds p env m
  let auts := p.images
  let n : Nat := (auts.map (·.2)).sum
  let full := match mget camp s.camps with
    | some i => camp != 0 && (decide (64 * i.segUnits < s.segUsed camp + (need.map (·.size)).sum) || decide (4096 * i.autUnits < s.autUsedBy camp + n))
    | none => camp != 0
  if full || s.autStore < s.run.autUsed + n then none
  else match allocSegs camp need s with
    | none => none
    | some (s, segs) => some ({ s with run := { s.run with autUsed := s.run.autUsed + n } }, segs, auts)

/-! ### Starting an execution (R225) -/

/-- Gapped dictionaries of a plan. -/
def Plan.dictIds (p : Plan) : List Nat := (p.ops.filterMap (fun o => match o.body with
  | .matchOp fn id _ _ => if fn = 0 then none else some id
  | _ => none)).eraseDups

/-- Create an execution's dictionaries, homed as `homes` says. -/
def State.newDicts (s : State) (camp id : Nat) (homes : List Nat) : List Nat → State × Map Nat
  | [] => (s, [])
  | d :: l =>
    let n := ((mfree s.run.dicts 0 (s.run.dicts.length + 1)).getD 0)
    let s := { s with run := { s.run with dicts := mput n ⟨camp, id, homes.headD 0 % 16, [], 0, 0⟩ s.run.dicts } }
    let (s, m) := s.newDicts camp id (homes.drop 1) l
    (s, mput d n m)

/-- Seed a fragment with a snapshot's batches, in ascending block index: to the die that holds the first column's block, and for far memory to the two
dies alternately (R225). -/
def State.seedFrag (s : State) (id frag param col : Nat) (t : Table) : State :=
  t.batches.zipIdx.foldl (fun (s : State) b =>
    let da := b.1.blocks.getD col 0
    let (die, s) := if da < 2 ^ 40 then (s.dieOf da, s) else (s.run.farAlt % 2, { s with run := { s.run with farAlt := 1 - s.run.farAlt % 2 } })
    s.addTok ⟨id, frag, die, .seed param b.2, .any, none, none, 0, false, none⟩) s

/-- Follow EXECUTE's own edges: parameters arrive, and SCAN-fed slots are seeded. -/
def State.seedEdges (s : State) (id : Nat) (p : Plan) (ts : Map Table) : State :=
  (p.edges.filter (fun e => e.src == 0xFFF)).foldl (fun (s : State) e =>
    if e.kind = 2 then s.modExec id (fun (x : Exec) => x.modFrag e.dst (fun g => { g with slots := g.slots ++ [e.slot] }))
    else match (p.frags[e.dst]?).bind (fun f => p.ops[f.first]?) with
      | some o => (match o.body with
        | .scan k cs => (match mget k ts with
          | some t => s.seedFrag id e.dst k (cs.headD 0) t
          | none => s)
        | _ => s)
      | none => s) s

/-- The number of a new execution: the lowest that no execution and no result awaiting EXEC_WAIT has (R257, R441). -/
def State.freeExecId (s : State) : Nat :=
  ((List.range (s.execs.length + s.ulr.results.length + 1)).find? (fun k => !mhas k s.execs && !mhas k s.ulr.results)).getD 0

/-- Start an execution of a bound plan: Match Unit resources, snapshot, dictionaries, parameter tokens and seeds. The failing status, or the execution's number. -/
def State.startRun (s : State) (camp slot : Nat) (p : Plan) (m : Map Bound) (by_ : Starter) (fn ring : Nat) (strict : Bool) (homes : List Nat) :
    Except (Nat × Nat) (State × Nat) :=
  let ts := s.boundNow camp m
  match s.allocMatch camp p (tyEnv ts) m with
  | none => .error (stMatchResource, (bindFail stMatchResource 7 noIndex).word)
  | some (s, segs, auts) =>
    let id := s.freeExecId
    let (s, dicts) := s.newDicts camp id homes p.dictIds
    let e : Exec :=
      { camp := camp, plan := slot, by_ := by_, fn := fn, ring := ring, strict := strict, dropped := 0, failed := none, cancelled := false, done := false,
        start := s.devtime, binds := m, snaps := ts, frags := [], ports := [], staged := [], ended := [], joins := [], groups := [], sorts := [], dicts := dicts,
        segs := segs, auts := auts, held := [], nextOut := 0, rowsOut := 0, outs := [], msgs := 0, retained := [], writes := [], nearUnits := 0,
        moraineUnits := 0, pages := [] }
    let s := { s with execs := mput id e s.execs }
    .ok ((s.seedEdges id p ts).settleExec id, id)

/-! ### EXECUTE (R224, R225) -/

/-- The RZ fields and length of a binding block's head (Table 12-7). -/
def blockHeadOk (b : Bytes) : Bool := rz (word32 b 0) 9 23 && decide (bits (word32 b 0) 0 9 ≤ 256) && word32 b 1 % 8 == 0 && decide (8 ≤ word32 b 1)

/-- Does the plan hold RESULT? -/
def Plan.hasResult (p : Plan) : Bool := !p.results.isEmpty

/-- The binding block of a command: its length rules and its head. -/
def Cmd.block (c : Cmd) (b : Bytes) : Except Nat (Cmd × Bytes) :=
  if b.length < 8 then .error stLengthShort
  else match wholeLen c (word32 b 1) with
    | .error st => .error st
    | .ok c => if blockHeadOk b then .ok (c, b.take (word32 b 1)) else .error stInvalidField

/-- EXECUTE: the steps of R224 in order, then the execution. -/
def State.doExecute (s : State) (c : Cmd) (data : Bytes) (homes : List Nat) : State :=
  let (b, s) := s.dataIn c data
  match c.block b with
  | .error st => s.failCmd c st
  | .ok (c, b) => match s.bindPlan c.camp (c.w 9) b with
    | .error e => s.failCmd c e.status e.word
    | .ok (slot, q, p, m) =>
      let ring := bits (c.w 10) 0 16
      let ringOk := match mget (fq c.ref.fn ring) s.host.rings with
        | some g => g.camp == c.camp && ring != 0xFFFF
        | none => false
      if p.hasResult && !ringOk then s.failCmd c stQueueInvalid (bindFail stQueueInvalid 6 noIndex).word
      else match (s.planLost slot q).or (s.tablesLost c.camp p m) with
        | some s => s.failCmd c stDataLoss
        | none => match s.startRun c.camp slot p m (.command c.uid) c.ref.fn (if p.hasResult then ring else 0xFFFF) c.strict homes with
          | .error (st, w) => s.failCmd c st w
          | .ok (s, id) => (s.modCmd c.uid (fun x => { x with wait := .exec id, long := c.long })).dispatch

/-- EXECUTE; `homes` are the home clusters that firmware chooses for the plan's gapped dictionaries. -/
def execExecute (r : CmdRef) (data : Bytes) (homes : List Nat) (s : State) : Res := s.withCmd r 0x42 (fun c => s.doExecute c data homes)

/-! ### Retained records (R245, R246) -/

/-- A record enters its Camp's store; where it does not fit it is lost and counted, and the next one that fits says so. -/
def State.addRecord (s : State) (c : Nat) (r : Record) : State :=
  let st := mgetD Store.empty c s.records
  if s.storeFree c < r.size then { s with records := mput c { st with lost := st.lost + 1, lostSince := st.lostSince + 1 } s.records }
  else
    let r := { r with num := st.next, lost := st.lostSince }
    { s with records := mput c { st with recs := st.recs ++ [r], next := st.next + 1, lostSince := 0 } s.records }

/-- A run whose record finds no space leaves none (R246). -/
def State.loseRecord (s : State) (c : Nat) : State :=
  let st := mgetD Store.empty c s.records
  { s with records := mput c { st with lost := st.lost + 1, lostSince := st.lostSince + 1 } s.records }

/-! ### Standing queries (R242 to R244) -/

/-- Replace a standing query. -/
def State.setStanding (s : State) (id : Nat) (q : Standing) : State := { s with plans := { s.plans with standing := mput id q s.plans.standing } }

/-- The first due time at or after now (R243). -/
def firstDue (now start interval : Nat) : Nat := if now ≤ start then 0 else (now - start + interval - 1) / interval

/-- STANDING_SET: the interval, the binding checks of R224 without steps 6 and 7, the allotment, and an ID. -/
def State.doStandingSet (s : State) (c : Cmd) (data : Bytes) : State :=
  let start := c.w 10 + 2 ^ 32 * c.w 11
  let interval := c.w 12 + 2 ^ 32 * c.w 13
  let count := c.w 14
  let (b, s) := s.dataIn c data
  if interval < 1000000 || 2 ^ 48 < interval then s.failCmd c stInvalidField
  else match c.block b with
    | .error st => s.failCmd c st
    | .ok (c, b) => match s.bindPlan c.camp (c.w 9) b with
      | .error e => s.failCmd c e.status e.word
      | .ok (slot, _, _, m) =>
        let mine := (s.plans.standing.filter (fun q => q.2.camp == c.camp)).length
        match mfree s.plans.standing 0 1024 with
        | none => s.failCmd c stPlanQuota
        | some id =>
          if s.standingAllot c.camp ≤ mine then s.failCmd c stPlanQuota
          else
            let q : Standing := ⟨c.camp, slot, m, start, interval, if count = 0 then none else some count, c.strict, firstDue s.devtime.toNat start interval, 0, none, false⟩
            (s.setStanding id q).completeCmd c c.okStatus id

/-- STANDING_SET. -/
def execStandingSet (r : CmdRef) (data : Bytes) (s : State) : Res := s.withCmd r 0x46 (fun c => s.doStandingSet c data)

/-- Forget a standing query. -/
def State.delStanding (s : State) (id : Nat) : State := { s with plans := { s.plans with standing := mdel id s.plans.standing } }

/-- STANDING_CLEAR: no further runs; a run in progress goes on (R242). -/
def State.doStandingClear (s : State) (c : Cmd) : State :=
  let id := bits (c.w 9) 0 10
  match mget id s.plans.standing with
  | none => s.failCmd c stInvalidField
  | some q =>
    if q.camp != c.camp || q.cleared then s.failCmd c stInvalidField
    else match q.exec with
      | none => (s.delStanding id).completeCmd c c.okStatus 0
      | some _ => (s.setStanding id { q with cleared := true }).completeCmd c c.okStatus 0

/-- STANDING_CLEAR. -/
def execStandingClear (r : CmdRef) (s : State) : Res := s.withCmd r 0x47 s.doStandingClear

/-- May a run start now (R243, R257, R360)? -/
def State.mayRun (s : State) (q : Standing) : Bool :=
  (s.mode == .service || s.mode == .detached) && s.host.drain.isNone && s.campState q.camp == .active && q.exec.isNone &&
  decide (s.planExecs q.plan < 64) && decide (s.contexts < 8192)

/-- Start run k of a standing query, or record why it could not start. -/
def State.startStanding (s : State) (id : Nat) (q : Standing) (k : Nat) (homes : List Nat) : State :=
  let fail (s : State) (st : Nat) : State :=
    (s.setStanding id { q with skips := 0 }).addRecord q.camp ⟨0, id, false, k, st, s.devtime, s.devtime, 0, q.skips, 0, []⟩
  match mget q.plan s.plans.plans with
  | none => s
  | some sl => match sl.plan with
    | none => s
    | some p =>
      if (boundTables q.binds).any (fun t => t.2 != 0 && (s.tableAt q.camp t.2).isNone) then fail s stTableNotFound
      else match (s.planLost q.plan sl).or (s.tablesLost q.camp p q.binds) with
        | some s => fail s stDataLoss
        | none => match s.startRun q.camp q.plan p q.binds (.standing id k) 0 0xFFFF q.strict homes with
          | .error (st, _) => fail s st
          | .ok (s, e) => (s.setStanding id { q with exec := some e }).dispatch

/-- STANDING_DUE (R243): after `dt` ticks due times have come; the latest starts its run if it is no more than 100 µs past and nothing forbids it; every other is skipped and
counted. A count bounds the due times (DEDUCED). -/
def execStandingDue (dt id : Nat) (homes : List Nat) (s : State) : Res :=
  let s := s.advance dt
  if !s.alive then .next s else
  match mget id s.plans.standing with
  | none => .next s
  | some q =>
    let now := s.devtime.toNat
    if q.cleared || now < q.start + q.next * q.interval then .next s
    else
      let past := (now - q.start) / q.interval + 1
      let upto := match q.count with | some n => min past n | none => past
      if upto ≤ q.next then .next s
      else
        let k := upto - 1
        let q' := { q with next := upto }
        if now ≤ q.start + k * q.interval + 100000 && s.mayRun q then
          .next (s.startStanding id { q' with skips := q.skips + (k - q.next) } k homes)
        else .next (s.setStanding id { q' with skips := q.skips + (upto - q.next) })

end Sys2Proof.Machine
end

