-- ==== Sys2Proof/Machine/Results.lean ====
section
/-! DEFINITION. Result streams: Arrow output, RESULT delivery under ORDERED rules, and RESULT_FETCH (R55, R228 to R230, R245, R338, R366). -/

namespace Sys2Proof.Machine

/-! ### Arrow buffers (R55) -/

/-- Zero-padded to a multiple of 64 bytes. -/
def pad64 (b : Bytes) : Bytes := bslice b 0 ((b.length + 63) / 64 * 64)

/-- Bits packed eight to a byte, the lowest first. -/
def packBits (l : List Bool) : Bytes := bitmapBytes ((l.length + 7) / 8) l

/-- Bytes of a value of a type that has a fixed width on output (Table 02-4, Arrow out). -/
def arrowWidth (t : ColType) : Nat :=
  if t.code = tDecimal then 16
  else if t.code = tWide then 32
  else if t.code = tKey then (if t.prec ≤ 16 then 8 else (t.prec + 1) / 2)
  else intBits t.code / 8

/-- The bytes of a stored value on output: an exact two's complement integer, or the digits of a KEY wider than 16 packed two a byte. -/
def arrowValue (t : ColType) (d : Digits) : Bytes :=
  if t.code = tKey && decide (16 < t.prec) then hexBytes (if t.prec % 2 = 1 then 0 :: d else d)
  else leBytes (arrowWidth t) (ofInt (8 * arrowWidth t) (storedInt t d))

/-- Offsets of consecutive lengths, from `n`. -/
def offsetsFrom (n : Nat) : List Nat → List Nat
  | [] => [n]
  | x :: l => n :: offsetsFrom (n + x) l

/-- Bytes of a null row, which the manual leaves open: draw k, column c, row r, n bytes. -/
def nullBytes (k c r n : Nat) : Bytes := (List.range n).map (fun i => Config.nullByte k ((c * 4096 + r) * 64 + i))

/-- A validity buffer: present only with nulls. -/
def validityBuf (v : List Lit) : Bytes := if v.any (·.isNull) then packBits (v.map (fun x => !x.isNull)) else []

/-- The buffers of a plain column: validity, then values, or offsets and data. -/
def plainBuffers (k c : Nat) (t : ColType) (v : List Lit) : List Bytes :=
  validityBuf v ::
  (if t.isStr then [(offsetsFrom 0 (v.map (fun x => x.bytes.length))).flatMap (leBytes 4), v.flatMap Lit.bytes]
   else if t.code = tBool then [packBits (v.zipIdx.map (fun q => match q.1 with
     | .dig d => digsNat d == 1
     | .null | .str _ => (nullBytes k c q.2 1).any (fun b => b.toNat % 2 == 1)))]
   else [v.zipIdx.flatMap (fun q => match q.1 with
     | .dig d => arrowValue t d
     | .null | .str _ => nullBytes k c q.2 (arrowWidth t))])

/-- The buffers of a dictionary-encoded column: validity and Int32 indices. -/
def indexBuffers (k c : Nat) (v : List Lit) (entries : List Bytes) : List Bytes :=
  [validityBuf v, v.zipIdx.flatMap (fun q => match q.1 with
    | .str b => leBytes 4 (entries.idxOf b)
    | .null | .dig _ => nullBytes k c q.2 4)]

/-- A message of a stream: continuation marker, length, metadata and body. The metadata is the published Arrow format's encoding of the message's kind (0
schema, 1 dictionary batch, 2 record batch) and shape. -/
def arrowMessage (n kind : Nat) (shape : List Nat) (body : List Bytes) : Bytes :=
  let m := Config.arrowMeta n kind (shape ++ body.map List.length)
  List.replicate 4 0xFF ++ leBytes 4 m.length ++ m ++ body.flatMap pad64

/-- The end-of-stream marker. -/
def arrowEos : Bytes := List.replicate 4 0xFF ++ List.replicate 4 0

/-! ### What a RESULT returns -/

/-- A column of a result: its type, whether dictionary output is asked for, its name and a Timestamp's timezone (R54). -/
structure OutCol where
  ty : ColType
  dict : Bool
  name : Bytes
  tz : Bytes
  deriving DecidableEq, Repr

/-- A stand-in type that marks column c of the table bound to a slot, to see which outputs pass it on unchanged. -/
def traceEnv (e : Exec) : TyEnv := ⟨fun k => (mget k e.snaps).map (fun (t : Table) => (List.range t.cols.length).map (fun c => ⟨0xEE, k, c⟩))⟩

/-- The timezone of reference i of an operator: that of the scanned column it passes on. -/
def Exec.tzOf (e : Exec) (p : Plan) (op i : Nat) : Bytes :=
  match p.inTy (traceEnv e) op i with
  | some ⟨0xEE, k, c⟩ => (((mget k e.snaps).bind (fun (t : Table) => t.cols[c]?)).map (·.tz)).getD []
  | _ => []

/-- The columns of the plan's result stream: those of its first RESULT. -/
def Exec.outCols (e : Exec) (p : Plan) : List OutCol :=
  match p.results with
  | [] => []
  | i :: _ => match p.ops[i]? with
    | some o => (match o.body with
      | .result cs => cs.zipIdx.map (fun q =>
          let name := match (p.consts[q.1.1]?).map (·.lit) with
            | some (.str b) => b
            | _ => []
          ⟨(p.inTy e.env i q.2).getD ⟨0, 0, 0⟩, q.1.2, name, e.tzOf p i q.2⟩)
      | _ => [])
    | none => []

/-- A byte string as part of a shape. -/
def shapeBytes (b : Bytes) : List Nat := b.length :: b.map BitVec.toNat

/-- The schema message. -/
def schemaMsg (cs : List OutCol) : Msg :=
  ⟨arrowMessage 0 0 (cs.flatMap (fun c => [c.ty.code, c.ty.prec, c.ty.scale, if c.dict then 1 else 0] ++ shapeBytes c.name ++ shapeBytes c.tz)) [], 0, false⟩

/-- Message n: a record batch of columns of values, with the entries of each dictionary column. -/
def recordMsg (n k : Nat) (cs : List OutCol) (ents : List (List Bytes)) (v : List (List Lit)) : Msg :=
  let rows := (v.headD []).length
  let nulls := v.map (fun c => (c.filter (·.isNull)).length)
  let body := v.zipIdx.flatMap (fun q => match cs[q.2]? with
    | some c => if c.dict then indexBuffers k q.2 q.1 (ents.getD q.2 []) else plainBuffers k q.2 c.ty q.1
    | none => [])
  ⟨arrowMessage n 2 (rows :: nulls) body, rows, true⟩

/-- Message n: the dictionary batch of column c. -/
def dictMsg (n c : Nat) (ents : List Bytes) : Msg :=
  ⟨arrowMessage n 1 [c, ents.length] [[], (offsetsFrom 0 (ents.map List.length)).flatMap (leBytes 4), ents.flatten], 0, false⟩

/-! ### The stream of an execution -/

/-- Bytes of messages. -/
def msgBytes (l : List Msg) : Nat := (l.map (fun m => m.bytes.length)).sum

/-- Bytes of a Camp's result staging in use change (R339). -/
def State.stage (s : State) (c : Nat) (f : Nat → Nat) : State :=
  { s with camps := mmod c (fun (i : CampInfo) => { i with stagedBytes := f i.stagedBytes }) s.camps }

/-- Messages join the stream of a command, which is created with its first. -/
def State.streamMsgs (s : State) (c : Cmd) (ring : Nat) (l : List Msg) : State :=
  let s := match s.host.streams.find? (fun x => x.uid == c.uid) with
    | some st => s.setStream { st with msgs := st.msgs ++ l }
    | none => { s with host := { s.host with streams := s.host.streams ++ [(⟨c.uid, c.ref.fn, ring, c.ref.sq, c.ref.cid, c.camp, l, false, none⟩ : Stream)] } }
  (s.stage c.camp (· + msgBytes l)).pump c.uid

/-- The stream of a command has ended with a status. -/
def State.endStream (s : State) (uid status : Nat) : State :=
  match s.host.streams.find? (fun x => x.uid == uid) with
  | some st => (s.setStream { st with ended := some status }).pump uid
  | none => s

/-- A failed command's stream: what is not placed is discarded, and one that has placed bytes ends in its next buffer (R338). -/
def State.dropStream (s : State) (uid status : Nat) : State :=
  match s.host.streams.find? (fun x => x.uid == uid) with
  | none => s
  | some st =>
    let s := s.stage st.camp (· - msgBytes st.msgs)
    if st.placed then (s.setStream { st with msgs := [], ended := some status }).pump uid
    else { s with host := { s.host with streams := s.host.streams.filter (fun x => x.uid != uid) } }

/-- Messages join an execution's result: a command's stream, or what a standing run or service execution keeps. One whose record no longer fits its Camp's store
fails with RETAIN_FULL (R246). -/
def State.sendMsgs (s : State) (id : Nat) (l : List Msg) : State :=
  match mget id s.execs with
  | none => s
  | some e =>
    let s := s.modExec id (fun (e : Exec) => { e with msgs := e.msgs + l.length })
    let keep (s : State) : State := s.modExec id (fun (e : Exec) => { e with retained := e.retained ++ l })
    let full := decide (s.storeFree e.camp < 64 + msgBytes e.retained + msgBytes l)
    match e.by_ with
    | .command uid => (match s.cmdByUid uid with
      | some c => s.streamMsgs c e.ring l
      | none => s)
    | .standing _ _ => if full then s.failRun id stRetainFull else keep s
    | .service _ _ addr _ => if addr = 0 && full then s.failRun id stRetainFull else keep s

/-- The schema message, where the stream has not begun. -/
def Exec.opening (e : Exec) (p : Plan) : List Msg := if e.msgs = 0 then [schemaMsg (e.outCols p)] else []

/-- Deliver rows (columns of values): as a record batch at once; where a column asks for dictionary output, once its dictionary is known (R55). -/
def State.deliver (s : State) (id : Nat) (p : Plan) (v : List (List Lit)) : State :=
  match mget id s.execs with
  | none => s
  | some e =>
    let rows := (v.headD []).length
    let s := s.modExec id (fun (e : Exec) => { e with rowsOut := e.rowsOut + rows })
    if rows = 0 then s
    else if (e.outCols p).any (·.dict) then s.modExec id (fun (e : Exec) => { e with outs := e.outs ++ [v] })
    else
      let (k, s) := s.draw
      let first := e.opening p
      s.sendMsgs id (first ++ [recordMsg (e.msgs + first.length) k (e.outCols p) [] v])

/-- Distinct strings of a column over batches, in order of appearance. -/
def columnEntries (outs : List (List (List Lit))) (c : Nat) : List Bytes :=
  ((outs.flatMap (fun v => v.getD c [])).filterMap (fun x => match x with | .str b => some b | .null | .dig _ => none)).eraseDups

/-- What is left to send when a result ends: the schema if nothing was, dictionary batches, the record batches that waited for them, and the end of the stream. -/
def State.closing (s : State) (e : Exec) (p : Plan) : State × List Msg :=
  let cs := e.outCols p
  let first := e.opening p
  let n := e.msgs + first.length
  let ents := cs.zipIdx.map (fun q => if q.1.dict then columnEntries e.outs q.2 else [])
  let dicts := (if e.outs.isEmpty then [] else cs.zipIdx.filter (fun q => q.1.dict)).zipIdx.map (fun q => dictMsg (n + q.2) q.1.2 (ents.getD q.1.2 []))
  let (s, recs) := e.outs.zipIdx.foldl (fun (a : State × List Msg) q =>
    let (k, s) := a.1.draw
    (s, a.2 ++ [recordMsg (n + dicts.length + q.2) k cs ents q.1])) (s, ([] : List Msg))
  (s, first ++ dicts ++ recs ++ [⟨arrowEos, 0, false⟩])

/-! ### ORDERED delivery (R230) -/

/-- The SORT whose output reaches a fragment. -/
def Plan.sortAbove (p : Plan) : Nat → Nat → Option Nat
  | 0, _ => none
  | n + 1, f => match p.feeder f with
    | none => none
    | some g => match p.frags[g]? with
      | none => none
      | some fr => match (p.ops[fr.first + fr.count - 1]?).map PlanOp.body with
        | some (.sort _ _ _ _) => some (fr.first + fr.count - 1)
        | _ => p.sortAbove n g

/-- The limit of an ordered result. -/
def Plan.limitOf (p : Plan) (op : Nat) : Nat := match (p.ops[op]?).map PlanOp.body with
  | some (.sort _ _ n _) => n
  | _ => 0

/-- The batch count that a sort destination has reported: one that no row reached reports 0 once the final phase has begun. -/
def Exec.destCount (e : Exec) (p : Plan) (op d : Nat) : Option Nat :=
  match mget (destKey op d) e.sorts with
  | some q => if q.finished then some q.emitted else none
  | none => match p.fragOf op with
    | some f => if (e.frag f).final = 2 then some 0 else none
    | none => none

/-- The turn moves past destinations whose batches have all been delivered. -/
def Exec.advanceTurn (e : Exec) (p : Plan) (op : Nat) : Nat → Nat → Nat
  | 0, t => t
  | n + 1, t =>
    let d := t / 2 ^ 25
    match e.destCount p op d with
    | some k => if k ≤ t % 2 ^ 25 then e.advanceTurn p op n ((d + 1) * 2 ^ 25) else t
    | none => t

/-- Deliver the batch whose turn it is, cut at the limit. -/
def State.deliverTurn (s : State) (id : Nat) (p : Plan) (op : Nat) (v : List (List Lit)) : State :=
  match mget id s.execs with
  | none => s
  | some e =>
    let n := p.limitOf op
    let v := if n = 0 then v else v.map (fun c => c.take (n - e.rowsOut))
    (s.deliver id p v).modExec id (fun (e : Exec) => { e with nextOut := e.nextOut + 1 })

/-- Deliver every held batch whose turn has come. -/
def drainHeld (id : Nat) (p : Plan) (op : Nat) : Nat → State → State
  | 0, s => s
  | n + 1, s =>
    match mget id s.execs with
    | none => s
    | some e =>
      let t := e.advanceTurn p op 129 e.nextOut
      let s := s.modExec id (fun (e : Exec) => { e with nextOut := t })
      match mget t e.held with
      | none => s
      | some (v, u) =>
        let s := (s.execGive id u).modExec id (fun (e : Exec) => { e with held := mdel t e.held })
        drainHeld id p op n (s.deliverTurn id p op v)

/-- Deliver what is held, as far as its turn has come. -/
def State.drainResult (s : State) (id : Nat) (p : Plan) : State :=
  match p.results.head?, mget id s.execs with
  | some r, some e => match p.ordered, (p.fragOf r).bind (p.sortAbove p.frags.length) with
    | true, some op => drainHeld id p op (e.held.length + 1) s
    | _, _ => s
  | _, _ => s

/-! ### RESULT_BATCH -/

/-- One row's values, its strings read; or the heap record that fails it. -/
def State.litRow (s : State) (cl : Option Nat) (cols : List Column) (r : Nat) : Except (HeapFault × Nat) (List Lit) :=
  cols.mapM (fun c => match c.at r with
    | .null => .ok .null
    | .dig d => .ok (.dig d)
    | .str n pre da => match s.strBytes cl n pre da with
      | .ok b => .ok (.str b)
      | .error e => .error (e, da))

/-- Rows as `n` columns. -/
def rowsCols (n : Nat) (rows : List (List Lit)) : List (List Lit) := (List.range n).map (fun i => rows.map (fun r => r.getD i .null))

/-- Read a row's strings for a task, and drop it if one of its heap records fails. -/
def dropIfBad (key : Nat) (cols : List Column) (s : State) (r : Nat) : State :=
  match s.taskAt key with
  | none => s
  | some t => if t.w.failed.isSome then s else
    let s := (keyReads cols r).foldl (fun (s : State) (x : Nat × Nat) => s.chargeTask t.w x.1 x.2) s
    match s.litRow (some t.w.cluster) cols r with
    | .ok _ => s
    | .error (e, da) => s.dropNow key r e da

/-- Is a Camp's result staging full (R339)? -/
def State.stagingFull (s : State) (c : Nat) : Bool :=
  match mget c s.camps with
  | some i => decide (0 < i.stagedBytes) && decide (65536 * i.staging ≤ i.stagedBytes)
  | none => false

/-- RESULT_BATCH (R230, R339): the batch of a RESULT task in hand is read, rows with failing heap records dropped (R50), and delivered: at once; under ORDERED in its turn, held
before it while the reorder area has room, and cut and discarded at the limit. While the Camp's staging is full the task keeps its batch. -/
def execResultBatch (die tag : Nat) (s0 : State) : Res :=
  match s0.task die tag with
  | none => .next s0
  | some t => match t.head with
    | none => .next s0
    | some (i, o, b) => match o.body with
      | .result _ =>
        if t.e.ring != 0xFFFF && s0.stagingFull t.w.camp then .next s0 else
        s0.withCols t o.ins b (fun s w b =>
          let cols := o.ins.filterMap (fun c => b.cols[c]?)
          let s := b.liveRows.foldl (dropIfBad t.key cols) (s.setWork t.key w)
          match s.taskAt t.key with
          | none => .next s
          | some t =>
            if t.w.failed.isSome then .next s else
            let b := match t.w.todo with
              | (_, b) :: _ => b
              | [] => b
            let rows := b.liveRows.filterMap (fun r => match s.litRow (some t.w.cluster) cols r with | .ok v => some v | .error _ => none)
            let v := rowsCols cols.length rows
            match t.p.ordered, (t.p.fragOf (t.opIx i)).bind (t.p.sortAbove t.p.frags.length) with
            | true, some op =>
              let s := drainHeld t.w.exec t.p op (t.e.held.length + 1) s
              let turn := ((mget t.w.exec s.execs).map (·.nextOut)).getD 0
              let out := ((mget t.w.exec s.execs).map (·.rowsOut)).getD 0
              let n := t.p.limitOf op
              if b.seq = turn then
                let s := s.deliverTurn t.w.exec t.p op v
                .next ((drainHeld t.w.exec t.p op (t.e.held.length + 1) s).goOn t.key t.w.pop)
              else if n != 0 && n ≤ out then
                .next ((s.modExec t.w.exec (fun (e : Exec) => { e with held := mput b.seq ([], 0) e.held })).goOn t.key t.w.pop)
              else match s.execTake t.w.exec b.units with
                | none => .next s0
                | some s => .next ((s.modExec t.w.exec (fun (e : Exec) => { e with held := mput b.seq (v, b.units) e.held })).goOn t.key t.w.pop)
            | _, _ => .next ((s.deliver t.w.exec t.p v).goOn t.key t.w.pop))
      | _ => .next s0

/-! ### RESULT_FETCH (R366, Table 12-8a) -/

/-- The descriptor of a record. -/
def Record.descriptor (r : Record) : Bytes :=
  bslice (leBytes 4 r.num ++ leBytes 4 (r.source % 1024 + (if r.service then 1024 else 0)) ++ leBytes 4 r.run ++ leBytes 4 (r.status % 2 ^ 14) ++
    leBytes 8 r.start.toNat ++ leBytes 8 r.stop.toNat ++ leBytes 8 r.dropped ++ leBytes 4 r.skips ++ leBytes 4 r.lost ++ leBytes 4 (msgBytes r.stream)) 0 64

/-- RESULT_FETCH: free what is acknowledged; unless that is all, return the oldest record's descriptor, and its stream on the ring named. -/
def State.doResultFetch (s : State) (c : Cmd) : State :=
  let ring := bits (c.w 9) 0 16
  let ok := ring == 0xFFFF || (match mget (fq c.ref.fn ring) s.host.rings with | some g => g.camp == c.camp | none => false)
  if bits (c.w 11) 0 1 = 0 && !ok then s.failCmd c stQueueInvalid
  else
    let st := mgetD Store.empty c.camp s.records
    let recs := st.recs.filter (fun r => decide (c.w 10 < r.num))
    let s := { s with records := mput c.camp { st with recs := recs } s.records }
    if bits (c.w 11) 0 1 = 1 then s.completeCmd c c.okStatus ((recs.head?).elim 0 (·.num))
    else match recs with
      | [] => s.completeCmd c c.okStatus 0
      | r :: _ =>
        let s := s.dataOut c r.descriptor
        if ring = 0xFFFF || r.stream.isEmpty then s.completeCmd c c.okStatus r.num
        else
          let s := s.modCmd c.uid (fun (x : Cmd) => { x with wait := .stream, result := r.num })
          ((s.streamMsgs c ring r.stream).endStream c.uid 0)

/-- RESULT_FETCH. -/
def execResultFetch (r : CmdRef) (s : State) : Res := s.withCmd r 0x43 s.doResultFetch

end Sys2Proof.Machine
end

