-- ==== Sys2Proof/Machine/Commit.lean ====
section
/-! DEFINITION. What a TABLE_WRITE publishes at its execution's commit point (R30, R233 to R238). -/

namespace Sys2Proof.Machine

/-- Rows of a batch to write: their columns, and their values by column. -/
structure WriteRows where
  cols : List Column
  lits : List (List Lit)
  deriving DecidableEq, Repr

/-- Read rows again for the commit. A heap record that has failed since drops its row under TOLERANT, and fails the execution under STRICT (R50). -/
def State.keepRows (camp : Nat) (strict : Bool) (cols : List Column) : List Nat → State → Except WriteErr (State × List (Nat × List Lit) × Nat)
  | [], s => .ok (s, [], 0)
  | r :: l, s =>
    let s := (keyReads cols r).foldl (fun (s : State) (x : Nat × Nat) => s.chargeDev camp x.1 x.2) s
    match s.litRow none cols r with
    | .ok v => (match State.keepRows camp strict cols l s with
      | .error e => .error e
      | .ok (s, k, n) => .ok (s, (r, v) :: k, n))
    | .error (e, _) =>
      if strict then .error (.status e.status)
      else match State.keepRows camp strict cols l ((s.ra .SCN_DROP_ROWS_heap_rows camp 1).countErr 2) with
        | .error e => .error e
        | .ok (s, k, n) => .ok (s, k, n + 1)

/-- Batches to write, without those that hold no row, and the rows dropped. -/
def State.keepBatches (camp : Nat) (strict : Bool) : List Batch → State → Except WriteErr (State × List WriteRows × Nat)
  | [], s => .ok (s, [], 0)
  | b :: l, s => match State.keepRows camp strict b.cols b.liveRows s with
    | .error e => .error e
    | .ok (s, rows, n) => match State.keepBatches camp strict l s with
      | .error e => .error e
      | .ok (s, ks, m) =>
        let k : WriteRows := ⟨pickRows b.cols (rows.map (·.1)), rowsCols b.cols.length (rows.map (·.2))⟩
        .ok (s, if rows.isEmpty then ks else k :: ks, n + m)

/-- The entries of a dictionary in code order, from values and their codes. -/
def codeEntries (v : List (Lit × Nat)) : List Bytes :=
  mvals (v.foldl (fun (m : Map Bytes) x => if x.1.isNull || mhas x.2 m then m else mput x.2 x.1.bytes m) [])

/-- A column of a write over all batches: codes by batch where it is DICT, and the DA and memory of its dictionary (R238). -/
structure ColWrite where
  codes : List (List Nat)
  da : Nat
  own : List Extent
  deriving DecidableEq, Repr

/-- Build the dictionaries of a write's DICT columns, with the choices offered in column order. -/
def State.writeDicts (camp : Nat) (ks : List WriteRows) : List (Nat × Nat × ColType) → List DictChoice → State → Except WriteErr (State × List ColWrite)
  | [], _, s => .ok (s, [])
  | (i, enc, ty) :: l, ds, s =>
    if enc != encDict || ks.isEmpty then
      match State.writeDicts camp ks l ds s with
      | .error e => .error e
      | .ok (s, cs) => .ok (s, ⟨[], 0, []⟩ :: cs)
    else match ds with
      | [] => .error .choice
      | d :: ds => match codeBatches (ks.map (fun k => ((k.cols[i]?).map (·.vals)).getD [])) s ⟨camp, 0, d.home % 16, [], 0, 0⟩ with
        | .error e => .error e
        | .ok (s, _, codes) =>
          let ents := codeEntries (List.zip (ks.flatMap (fun k => k.lits.getD i [])) codes.flatten)
          match s.writeDict camp ty (if ents.isEmpty then [[]] else ents) [] d with
          | .error e => .error e
          | .ok (s, _, own) => match State.writeDicts camp ks l ds s with
            | .error e => .error e
            | .ok (s, cs) => .ok (s, ⟨codes, d.da, own⟩ :: cs)

/-- Write batches' blocks: their batch list entries. -/
def State.writeBatches (camp : Nat) (tys : List (Nat × ColType)) (dicts : List ColWrite) : List (WriteRows × Nat) → List (List BlockChoice) → State →
    Except WriteErr (State × List BatchEntry)
  | [], _, s => .ok (s, [])
  | (k, j) :: l, chs, s => match chs with
    | [] => .error .choice
    | ch :: rest =>
      let cols : List ColOut := tys.zipIdx.map (fun q =>
        let d := dicts.getD q.2 ⟨[], 0, []⟩
        ⟨q.1.2, q.1.1, k.lits.getD q.2 [], d.codes.getD j [], d.da⟩)
      match State.writeCols camp cols ch s with
      | .error e => .error e
      | .ok (s, das, own) => match State.writeBatches camp tys dicts l rest s with
        | .error e => .error e
        | .ok (s, es) => .ok (s, ⟨(k.lits.headD []).length, das, own ++ (if j = 0 then dicts.flatMap (·.own) else [])⟩ :: es)

/-- Types of a TABLE_WRITE's columns. -/
def Exec.writeTypes (e : Exec) (p : Plan) (op : Nat) : List ColType :=
  match p.ops[op]? with
  | some o => (List.range o.ins.length).map (fun k => (p.inTy e.env op k).getD ⟨0, 0, 0⟩)
  | none => []

/-- Commit one TABLE_WRITE: the rows it dropped, and the handle of the table it created or 0. -/
def State.commitWrite (s : State) (e : Exec) (p : Plan) (op param : Nat) (replace drop : Bool) (encs : List Nat) (ch : TableChoice) :
    Except WriteErr (State × Nat × Nat) :=
  let h := match mget param e.binds with
    | some (.table h) => h
    | some (.value _) | none => 0
  if drop then
    match s.tableAt e.camp h with
    | none => .error (.status stTableNotFound)
    | some (slot, _) => .ok (s.dropTable slot, 0, 0)
  else
    let tys := e.writeTypes p op
    match State.keepBatches e.camp e.strict (mgetD [] op e.writes) s with
    | .error x => .error x
    | .ok (s, ks, n) => match State.writeDicts e.camp ks (tys.zipIdx.map (fun q => (q.2, encs.getD q.2 0, q.1))) ch.dicts s with
      | .error x => .error x
      | .ok (s, ds) => match State.writeBatches e.camp (tys.zipIdx.map (fun q => (encs.getD q.2 0, q.1))) ds ks.zipIdx ch.blocks s with
        | .error x => .error x
        | .ok (s, bs) =>
          if h = 0 then
            match s.newTable ⟨e.camp, tys.zipIdx.map (fun q => ⟨q.1, e.tzOf p op q.2, []⟩), [], 0, false⟩ with
            | none => .error (.status stLimitExceeded)
            | some (s, slot, h) => match s.commitBatches slot bs false ch.list with
              | .error x => .error x
              | .ok s => .ok (s, n, h)
          else match s.tableAt e.camp h with
            | none => .error (.status stTableNotFound)
            | some (slot, _) => match s.commitBatches slot bs replace ch.list with
              | .error x => .error x
              | .ok s => .ok (s, n, 0)

/-- Commit every TABLE_WRITE of an execution in operator order. -/
def State.commitWrites (e : Exec) (p : Plan) (chs : List (Nat × TableChoice)) : List (PlanOp × Nat) → State → Except WriteErr (State × Nat × Nat)
  | [], s => .ok (s, 0, 0)
  | (o, i) :: l, s => match o.body with
    | .tableWrite param replace drop encs =>
      (match s.commitWrite e p i param replace drop encs (((chs.find? (fun c => c.1 == i)).map (·.2)).getD ⟨[], [], 0⟩) with
      | .error x => .error x
      | .ok (s, n, h) => match State.commitWrites e p chs l s with
        | .error x => .error x
        | .ok (s, m, h') => .ok (s, n + m, if h' = 0 then h else h'))
    | _ => State.commitWrites e p chs l s

/-- Everything an execution publishes (R234): the state with it, the rows dropped on the way, and the new table's handle. -/
def State.commitExec (s : State) (id : Nat) (chs : List (Nat × TableChoice)) : Except WriteErr (State × Nat × Nat) :=
  match mget id s.execs with
  | none => .error .choice
  | some e => match s.planOf e with
    | none => .error .choice
    | some p => State.commitWrites e p chs p.ops.zipIdx s

/-- Free what an execution held (R232): segments, automata, dictionaries, near memory, Moraine pages and its context; then snapshot batches that nothing
references any more (R235). -/
def State.freeExec (s : State) (id : Nat) : State :=
  match mget id s.execs with
  | none => s
  | some e =>
    let s := (mvals e.segs).foldl State.freeSeg s
    let s := { s with run := { s.run with
      autUsed := s.run.autUsed - (e.auts.map (fun (a : Nat × Nat) => a.2)).sum
      dicts := s.run.dicts.filter (fun d => !(d.2.exec == id)) } }
    let s := s.giveNear e.camp e.nearUnits
    let s := { s with camps := mmod e.camp (fun (i : CampInfo) => { i with moraineUsed := i.moraineUsed - e.moraineUnits }) s.camps }
    let s := e.pages.foldl (fun (s : State) da => s.wipe da 65536) s
    let s := { s with execs := mdel id s.execs }
    e.snaps.foldl (fun (s : State) t => s.freeBatches e.camp t.2.batches) s

/-- Has everything an execution started stopped: its tokens, its entries, its tasks? -/
def State.execStopped (s : State) (id : Nat) : Bool :=
  !s.run.works.any (fun w => w.2.exec == id) && !s.run.net.any (fun k => k.2.exec == id) &&
  !s.dies.any (fun d => d.2.entries.any (fun e => !e.2.thread && e.2.exec == id && (e.2.state == .waiting || e.2.state == .ready || e.2.state == .running)))

/-- Has an execution done all its work (R231)? -/
def State.execFinished (s : State) (id : Nat) (e : Exec) (p : Plan) : Bool :=
  (List.range p.frags.length).all (fun f => (e.frag f).complete) && s.execStopped id && e.held.isEmpty

end Sys2Proof.Machine
end

