-- ==== Sys2Proof/Machine/UMem.lean ====
section
/-! DEFINITION. Uliar contexts, apertures, their memory accesses and the two stacks (R402 to R414, R302, R311). -/

namespace Sys2Proof.Machine

/-! ### Contexts -/

/-- Key of a context: its core and slot. -/
def ctxKey (core slot : Nat) : Nat := core * 32 + slot
/-- A context. -/
def State.uctx (s : State) (key : Nat) : UCtx := mgetD UCtx.empty key s.ulr.ctxs
/-- Replace a context. -/
def State.setU (s : State) (key : Nat) (u : UCtx) : State := { s with ulr := { s.ulr with ctxs := mput key u s.ulr.ctxs } }
/-- A control register as a number. -/
def UCtx.creg (u : UCtx) (n : Nat) : Nat := (mgetD 0 n u.cr).toNat
/-- Set a control register. -/
def UCtx.setCreg (u : UCtx) (n v : Nat) : UCtx := { u with cr := mputD 0 n (BitVec.ofNat 36 v) u.cr }
/-- A general register. -/
def UCtx.greg (u : UCtx) (i : Nat) : UWord := mgetD 0 i u.g
/-- Set a general register. -/
def UCtx.setG (u : UCtx) (i : Nat) (v : UWord) : UCtx := { u with g := mputD 0 i v u.g }
/-- An F register. -/
def UCtx.freg (u : UCtx) (i : Nat) : UDouble := mgetD 0 i u.f
/-- Set an F register. -/
def UCtx.setF (u : UCtx) (i : Nat) (v : UDouble) : UCtx := { u with f := mputD 0 i v u.f }

/-- Numbers of the control registers (Table 14-8). -/
def crStatus : Nat := 0x00
def crEpc : Nat := 0x01
def crEtgt : Nat := 0x02
def crEcause : Nat := 0x03
def crEaddr : Nat := 0x04
def crEvec : Nat := 0x05
def crVcfg : Nat := 0x06
def crVxi : Nat := 0x07
def crDsp : Nat := 0x08
def crDslim : Nat := 0x09
def crCsp : Nat := 0x0A
def crRslim : Nat := 0x0B
def crIsrc : Nat := 0x0C
def crEvsrc : Nat := 0x0D
def crTid : Nat := 0x0E
def crAptb : Nat := 0x10
def crAptl : Nat := 0x20

/-- Is the context at extension level (R401)? -/
def UCtx.atX (u : UCtx) : Bool := u.creg crStatus % 2 == 1
/-- Is its exception handler running? -/
def UCtx.inExc (u : UCtx) : Bool := bits (u.creg crStatus) 2 1 == 1

/-- An exception: cause (Table 14-5), faulting Uliar address, aperture and translation fault kind. -/
structure UExc where
  cause : Nat
  addr : Nat
  aperture : Nat
  xkind : Nat
  deriving DecidableEq, Repr

/-- An exception with no address. -/
def uexc (cause : Nat) : UExc := ⟨cause, 0, 0, 0⟩
def uIllegal : UExc := uexc 1
def uPrivilege : UExc := uexc 2

/-- What an operation of a context answers: a new state and context with a value; an exception; or nothing, because the device halted. -/
inductive UAns (α : Type) where
  | ok (s : State) (u : UCtx) (a : α)
  | exc (s : State) (u : UCtx) (x : UExc)
  | halted (s : State)

/-- Go on with an answer. -/
def UAns.andThen {α β : Type} (r : UAns α) (f : State → UCtx → α → UAns β) : UAns β :=
  match r with
  | .ok s u a => f s u a
  | .exc s u x => .exc s u x
  | .halted s => .halted s

/-! ### Apertures (R406, R407) -/

/-- Check an access of m digits: the view DA, and whether it goes through a register window. `pair` says that the access is an LDP or STP. -/
def UCtx.aperture (u : UCtx) (addr m : Nat) (a : Acc) (pair : Bool) : Except UExc (Nat × Bool) :=
  let n := addr / 2 ^ 32 % 16
  let off := addr % 2 ^ 32
  let l := u.creg (crAptl + n)
  let da := (u.creg (crAptb + n) % 2 ^ 29 * 131072 + off) % 2 ^ 46
  let bad : UExc := ⟨match a with | .fetch => 3 | .read | .write => 4, addr, n, 0⟩
  let perm := match a with
    | .read => bits l 16 1
    | .write => bits l 17 1
    | .fetch => bits l 18 1
  if bits l 20 1 = 0 || 131072 * (l % 2 ^ 16) < off + m || perm = 0 then .error bad
  else if bits l 19 1 = 0 then .ok (da, false)
  else if u.camp = 0 && pair && off % 16 == 0 then .ok (da, true)
  else .error bad

/-- The cluster through whose cache a core reaches memory; the management cores have none (R305). -/
def coreCluster (core : Nat) : Option Nat := if core < 128 then some (core / 8) else none
/-- The instance of XLT_FAULT of a core. -/
def coreInst (core : Nat) : Nat := if core < 128 then core / 8 else 16

/-- A translation fault of a context: device-fatal in Camp 0; an exception in a service Camp, whose violations and poisoned tables count as ever (R302, R495). -/
def State.uxlt {α : Type} (s : State) (core : Nat) (u : UCtx) (addr view kind : Nat) : UAns α :=
  if u.camp = 0 then .halted (s.xltFault (coreInst core) 0 view kind none)
  else
    let s := s.latchXlt (coreInst core) u.camp view kind
    let s := if kind = xCampMismatch then s.violation u.camp else if kind = xPoisoned then s.quarantine u.camp 3 else s
    .exc s u ⟨5, addr, addr / 2 ^ 32 % 16, kind⟩

/-- A poisoned read: device-fatal in Camp 0, an exception elsewhere (R311, Table 14-5). -/
def State.upoison {α : Type} (s : State) (core : Nat) (u : UCtx) (addr pa : Nat) : UAns α :=
  if u.camp = 0 then .halted (s.halt 7 0x0E core 0 pa) else .exc s u ⟨6, addr, addr / 2 ^ 32 % 16, 0⟩

/-- One digit of memory as a core sees it. -/
def State.digitAt (s : State) (core pa : Nat) : Digit :=
  match s.viewGet (coreCluster core) (pa - pa % 2) 1 1 with
  | b :: _ => BitVec.ofNat 4 (if pa % 2 = 0 then b.toNat else b.toNat / 16)
  | [] => 0

/-- Change one byte: in the line that holds it in the core's cluster cache, or in memory; a Stream-class line is written through (R304). -/
def State.bytePut (s : State) (core pa : Nat) (b : Byte) : State :=
  match coreCluster core with
  | none => s.memPut pa [b]
  | some cl =>
    let c := s.cache cl
    match c.find (lineOf pa) with
    | some (w, x) =>
      let x' : Line := { x with data := lineMerge x.data (pa % 256 / 2) [b], dirty := x.dirty || x.cls != 0 }
      let s := s.setCache cl { c with lines := mput (setOf x.num * 16 + w) x' c.lines }
      if x.cls = 0 then s.memPut pa [b] else s
    | none =>
      let s := s.setCache cl { c with evb := c.evb.map (fun e => if e.num == lineOf pa then { e with data := lineMerge e.data (pa % 256 / 2) [b] } else e) }
      s.memPut pa [b]

/-- Change one digit. -/
def State.digitPut (s : State) (core pa : Nat) (d : Digit) : State :=
  let base := pa - pa % 2
  let lo := if pa % 2 = 0 then d else s.digitAt core base
  let hi := if pa % 2 = 1 then d else s.digitAt core (base + 1)
  s.bytePut core base (BitVec.ofNat 8 (lo.toNat + 16 * hi.toNat))

/-! ### The data-stack cache (R411) -/

/-- The cached digit at a Uliar address. -/
def UCtx.cached (u : UCtx) (addr : Nat) : Option Digit :=
  u.dcache.findSome? (fun w => if w.1 ≤ addr && addr < w.1 + 9 then some (BitVec.ofNat 4 (w.2.1.toNat / 16 ^ (addr - w.1))) else none)

/-- Change a cached digit. -/
def UCtx.cachePut (u : UCtx) (addr : Nat) (d : Digit) : UCtx :=
  { u with dcache := mmap (fun k (w : UWord × Bool) =>
      if k ≤ addr && addr < k + 9 then
        (BitVec.ofNat 36 (w.1.toNat - w.1.toNat / 16 ^ (addr - k) % 16 * 16 ^ (addr - k) + d.toNat * 16 ^ (addr - k)), true)
      else w) u.dcache }

/-- The physical DA of the digit at a Uliar address whose view DA is known. -/
def State.uPa (s : State) (core : Nat) (u : UCtx) (view : Nat) (a : Acc) : Except Nat Nat :=
  match s.xlate (coreCluster core) u.camp view a with
  | .ok (pa, _) => .ok pa
  | .error k => .error k

/-- Load m digits from an address whose view DA is `view`, lowest address first. -/
def State.uDigits (core addr view : Nat) (a : Acc) : Nat → State → UCtx → UAns (List Digit)
  | 0, s, u => .ok s u []
  | m + 1, s, u =>
    match (if a == .fetch then none else u.cached addr) with
    | some d => (State.uDigits core (addr + 1) (view + 1) a m s u).andThen (fun s u l => .ok s u (d :: l))
    | none => match s.uPa core u view a with
      | .error k => s.uxlt core u addr view k
      | .ok pa =>
        if s.memPoisoned (pa - pa % 2) 1 then s.upoison core u addr pa
        else
          let d := s.digitAt core pa
          (State.uDigits core (addr + 1) (view + 1) a m s u).andThen (fun s u l => .ok s u (d :: l))

/-- Where the digits of a store go: a cached word, or a physical DA. None of them is written while one faults. -/
def State.uTargets (core addr view : Nat) (cache : Bool) : List Digit → State → UCtx → UAns (List (Nat × Option Nat × Digit))
  | [], s, u => .ok s u []
  | d :: l, s, u =>
    match (if cache then u.cached addr else none) with
    | some _ => (State.uTargets core (addr + 1) (view + 1) cache l s u).andThen (fun s u r => .ok s u ((addr, none, d) :: r))
    | none => match s.uPa core u view .write with
      | .error k => s.uxlt core u addr view k
      | .ok pa =>
        let rs := s.rg .ULR_RSBASE_base core
        if rs ≤ pa && pa < rs + 2 ^ 21 then .exc s u ⟨4, addr, addr / 2 ^ 32 % 16, 0⟩
        else (State.uTargets core (addr + 1) (view + 1) cache l s u).andThen (fun s u r => .ok s u ((addr, some pa, d) :: r))

/-- Store digits at an address whose view DA is known. -/
def State.uPut (s : State) (core : Nat) (u : UCtx) (addr view : Nat) (cache : Bool) (l : List Digit) : UAns Unit :=
  (State.uTargets core addr view cache l s u).andThen (fun s u r =>
    let (s, u) := r.foldl (fun (a : State × UCtx) x => match x.2.1 with
      | some pa => (a.1.digitPut core pa x.2.2, a.2)
      | none => (a.1, a.2.cachePut x.1 x.2.2)) (s, u)
    .ok s u ())

/-- The digits of a number, lowest first. -/
def lowDigits (m n : Nat) : List Digit := (List.range m).map (fun i => BitVec.ofNat 4 (n / 16 ^ i))
/-- The number of digits, lowest first. -/
def lowNat : List Digit → Nat
  | [] => 0
  | d :: l => d.toNat + 16 * lowNat l

/-- Load m digits at a Uliar address as a number. -/
def State.uLoad (s : State) (core : Nat) (u : UCtx) (addr m : Nat) : UAns Nat :=
  match u.aperture addr m .read false with
  | .error x => .exc s u x
  | .ok (v, _) => (State.uDigits core addr v .read m s u).andThen (fun s u l => .ok s u (lowNat l))

/-- Store the low m digits of a number at a Uliar address. -/
def State.uStore (s : State) (core : Nat) (u : UCtx) (addr m n : Nat) : UAns Unit :=
  match u.aperture addr m .write false with
  | .error x => .exc s u x
  | .ok (v, _) => s.uPut core u addr v true (lowDigits m n)

/-- LDP: 18 digits, or a register through a window. -/
def State.uLoadPair (s : State) (core : Nat) (u : UCtx) (addr : Nat) : UAns Nat :=
  match u.aperture addr 18 .read true with
  | .error x => .exc s u x
  | .ok (v, true) => let (n, s) := s.windowRead v; .ok s u n
  | .ok (v, false) => (State.uDigits core addr v .read 18 s u).andThen (fun s u l => .ok s u (lowNat l))

/-- STP. -/
def State.uStorePair (s : State) (core : Nat) (u : UCtx) (addr n : Nat) : UAns Unit :=
  match u.aperture addr 18 .write true with
  | .error x => .exc s u x
  | .ok (v, true) => .ok (s.windowWrite v (BitVec.ofNat 64 n)) u ()
  | .ok (v, false) => s.uPut core u addr v true (lowDigits 18 n)

/-- Write dirty cached words back and keep them as clean. -/
def State.cleanWords (core : Nat) : List (Nat × UWord × Bool) → State → UCtx → UAns Unit
  | [], s, u => .ok s u ()
  | (a, w, dirty) :: l, s, u =>
    if !dirty then State.cleanWords core l s u
    else
      let v := (u.creg (crAptb + a / 2 ^ 32 % 16) % 2 ^ 29 * 131072 + a % 2 ^ 32) % 2 ^ 46
      (s.uPut core u a v false (lowDigits 9 w.toNat)).andThen (fun s u _ =>
        State.cleanWords core l s { u with dcache := mput a (w, false) u.dcache })

/-- Move the stack pointer: words that leave the 16 at it are written back and leave the cache. -/
def State.moveDsp (s : State) (core : Nat) (u : UCtx) (dsp : Nat) : UAns Unit :=
  let inside (a : Nat) : Bool := decide (dsp ≤ a) && decide (a < dsp + 144)
  (State.cleanWords core (u.dcache.filter (fun w => !inside w.1)) s u).andThen (fun s u _ =>
    .ok s ({ u with dcache := u.dcache.filter (fun w => inside w.1) }.setCreg crDsp dsp) ())

/-- Write back every dirty cached word (FENCE.W). -/
def State.cleanAll (s : State) (core : Nat) (u : UCtx) : UAns Unit := State.cleanWords core u.dcache s u

/-! ### The return stack (R412, R413) -/

/-- A return-stack entry (Table 14-2). -/
def rsEntry (value : Nat) (half : Bool) (kind : Nat) : BitVec 64 := BitVec.ofNat 64 (value % 2 ^ 36 + (if half then 2 ^ 36 else 0) + kind % 4 * 2 ^ 37)
/-- Kind and position of an entry. -/
def rsKind (e : BitVec 64) : Nat := bits e.toNat 37 2
def rsPos (e : BitVec 64) : UPos := ⟨bits e.toNat 0 36, bits e.toNat 36 1 == 1⟩
/-- Physical DA of entry i of a context's region. -/
def State.rsDa (s : State) (core slot i : Nat) : Nat := s.rg .ULR_RSBASE_base core + 65536 * slot + 16 * i

/-- Push an entry; a full cache spills its oldest. -/
def State.rsPush (s : State) (core slot : Nat) (u : UCtx) (e : BitVec 64) : State × UCtx :=
  let n := u.creg crCsp
  let (s, c) := if u.rcache.length < 32 then (s, u.rcache)
    else (s.memPut (s.rsDa core slot (n - 32)) (leBytes 8 (u.rcache.getLastD 0).toNat), u.rcache.take 31)
  (s, { u with rcache := e :: c }.setCreg crCsp (n + 1))

/-- The entry k below the top, from the cache or the region. -/
def State.rsPeek (s : State) (core slot : Nat) (u : UCtx) (k : Nat) : Option (BitVec 64) :=
  let n := u.creg crCsp
  if n ≤ k then none
  else match u.rcache[k]? with
    | some e => some e
    | none => some (BitVec.ofNat 64 (leNat (s.memGet (s.rsDa core slot (n - 1 - k)) 8)))

/-- Pop an entry. -/
def UCtx.rsPop (u : UCtx) : UCtx := { u with rcache := u.rcache.drop 1 }.setCreg crCsp (u.creg crCsp - 1)

/-! ### Firmware's accesses for a context (R441) -/

/-- Read n bytes at a Uliar address: outside the apertures, INVALID_FIELD; otherwise the status of what the access meets. -/
def State.ecallRead (s : State) (core : Nat) (u : UCtx) (addr n : Nat) : Except Nat Bytes :=
  if n = 0 then .ok [] else
  match u.aperture addr (2 * n) .read false with
  | .error _ => .error stInvalidField
  | .ok (v, _) => match s.viewBytes (coreCluster core) u.camp (pagesOf n) v n with
    | .error (k, _) => .error (xltStatus k)
    | .ok (b, p) => if p then .error stPoisoned else .ok b

/-- Write bytes at a Uliar address. -/
def State.ecallWrite (s : State) (core : Nat) (u : UCtx) (addr : Nat) (b : Bytes) : Except Nat State :=
  if b.isEmpty then .ok s else
  match u.aperture addr (2 * b.length) .write false with
  | .error _ => .error stInvalidField
  | .ok (v, _) => match s.viewPut (coreInst core) u.camp v b with
    | (s, none) => .ok s
    | (_, some k) => .error (xltStatus k)

end Sys2Proof.Machine
end

