-- ==== Sys2Proof/Machine/Complete.lean ====
section
/-! DEFINITION. The completion of executions: publication, the completion entry, retained records and results for services (R231, R232, R234, R236, R244, R246,
R441). -/

namespace Sys2Proof.Machine

/-! ### The result of a service execution (R236, R441) -/

/-- The results of EXEC_WAIT in a context's registers. -/
def UCtx.execResult (u : UCtx) (r : ExecResult) : UCtx :=
  ((((u.setG 1 (BitVec.ofNat 36 r.status)).setG 2 (BitVec.ofNat 36 (min r.dropped (2 ^ 36 - 1)))).setG 3 (BitVec.ofNat 36 r.handle)).setG 4
    (BitVec.ofNat 36 r.bytes))

/-- A waiting thread's entry becomes READY again. -/
def State.wakeThread (s : State) (u : UCtx) : State :=
  match u.entry with
  | some (d, t) => if (s.entry d t).state == .waiting then (s.makeReady d t).dispatch else s
  | none => s

/-- Forget an execution that an invocation no longer owns. -/
def UCtx.dropExec (u : UCtx) (id : Nat) : UCtx := { u with inv := u.inv.map (fun (i : Invocation) => { i with execs := i.execs.filter (· != id) }) }

/-- The status of a service execution becomes available to EXEC_WAIT; a thread that waits for it goes on. An invocation that has ended leaves none. -/
def State.postResult (s : State) (key id : Nat) (r : ExecResult) : State :=
  let u := s.uctx key
  if !((u.inv.map (·.execs)).getD []).contains id then s
  else if u.awaits == some (.exec id) then
    let u := { (u.execResult r).dropExec id with awaits := none }
    (s.setU key u).wakeThread u
  else { s with ulr := { s.ulr with results := mput id r s.ulr.results } }

/-! ### Ends -/

/-- A standing query's run has ended. -/
def State.endStanding (s : State) (q : Nat) : State :=
  match mget q s.plans.standing with
  | none => s
  | some x => if x.cleared then s.delStanding q else s.setStanding q { x with exec := none }

/-- Write the record of a run (R244): it carries the due times skipped, which are counted anew from here; one that does not fit is lost. -/
def State.recordRun (s : State) (q : Nat) (camp : Nat) (r : Record) : State :=
  let skips := ((mget q s.plans.standing).map (·.skips)).getD 0
  let fits := decide (r.size ≤ s.storeFree camp)
  let s := s.addRecord camp { r with skips := skips }
  if fits then { s with plans := { s.plans with standing := mmod q (fun (x : Standing) => { x with skips := 0 }) s.plans.standing } } else s

/-- The record of a service execution, under the number of the invocation that started it. -/
def State.serviceRecord (s : State) (key : Nat) (e : Exec) (status dropped : Nat) (l : List Msg) : Record :=
  match (s.uctx key).inv with
  | some i => ⟨0, i.service, true, i.number, status, e.start, s.devtime, dropped, 0, 0, l⟩
  | none => ⟨0, 0, true, 0, status, e.start, s.devtime, dropped, 0, 0, l⟩

/-- The end of an execution that failed with a status (R232, R234, R236, R246): nothing is published, and a run that found no room leaves no record. -/
def State.finishFailed (s : State) (id : Nat) (e : Exec) (st : Nat) : State :=
  match e.by_ with
  | .command uid =>
    let s := (s.dropStream uid st).freeExec id
    match s.cmdByUid uid with
    | some c => s.completeCmd { c with dropped := e.dropped, failed := none } st 0
    | none => s
  | .standing q run =>
    let s := s.freeExec id
    let s := if st = stRetainFull then s.loseRecord e.camp
      else s.recordRun q e.camp ⟨0, q, false, run, st, e.start, s.devtime, e.dropped, 0, 0, []⟩
    s.endStanding q
  | .service core slot addr _ =>
    let s := s.freeExec id
    let key := ctxKey core slot
    let s := if addr != 0 then s
      else if st = stRetainFull then s.loseRecord e.camp
      else s.addRecord e.camp (s.serviceRecord key e st e.dropped [])
    s.postResult key id ⟨st, e.dropped, 0, 0⟩

/-- Publish at the commit point, and then do what follows it; a commit that fails ends the execution as failed. -/
def State.publish (s : State) (id : Nat) (e : Exec) (chs : List (Nat × TableChoice)) (f : State → Nat → Nat → State) : State :=
  match s.commitExec id chs with
  | .error .choice => s
  | .error (.status st) => (s.failRun id st).finishFailed id e st
  | .ok (s, n, h) => f s (e.dropped + n) h

/-- A command's execution: its result stream ends first; once no bytes of it are left to complete in a buffer, its writes are published with its completion entry (R234, R338, R356). -/
def State.finishCommand (s : State) (id uid : Nat) (e : Exec) (p : Plan) (chs : List (Nat × TableChoice)) : State :=
  if p.hasResult && !e.done && e.ring != 0xFFFF then
    match s.commitExec id chs with
    | .error .choice => s
    | .error (.status st) => (s.failRun id st).finishFailed id e st
    | .ok _ =>
      let (s, l) := s.closing e p
      ((s.sendMsgs id l).endStream uid 0).modExec id (fun (e : Exec) => { e with done := true })
  else if s.host.streams.any (fun x => x.uid == uid) then s
  else s.publish id e chs (fun s n h =>
    let s := s.freeExec id
    match s.cmdByUid uid with
    | some c => s.completeCmd { c with dropped := n } c.okStatus h
    | none => s)

/-- A standing run (R236, R244, R246): its record must fit with its whole result; it is the commit point. -/
def State.finishStanding (s : State) (id q run : Nat) (e : Exec) (p : Plan) (chs : List (Nat × TableChoice)) : State :=
  let (s', l) := if p.hasResult then s.closing e p else (s, [])
  let all := e.retained ++ l
  if s.storeFree e.camp < 64 + msgBytes all then (s.failRun id stRetainFull).finishFailed id e stRetainFull
  else match s'.commitExec id chs with
    | .error .choice => s
    | .error (.status st) => (s.failRun id st).finishFailed id e st
    | .ok (s, n, _) =>
      let s := s.freeExec id
      (s.recordRun q e.camp ⟨0, q, false, run, 0, e.start, s.devtime, e.dropped + n, 0, 0, all⟩).endStanding q

/-- Write a service execution's result bytes: the first of them that its capacity holds. -/
def State.writeResult (s : State) (core slot addr cap : Nat) (b : Bytes) : Except Nat State := s.ecallWrite core (s.uctx (ctxKey core slot)) addr (b.take cap)

/-- A service execution (R236, R441): its record or its result bytes, then its writes, then its status. -/
def State.finishService (s : State) (id core slot addr cap : Nat) (e : Exec) (p : Plan) (chs : List (Nat × TableChoice)) : State :=
  let key := ctxKey core slot
  let (s', l) := if p.hasResult then s.closing e p else (s, [])
  let all := e.retained ++ l
  let bytes := all.flatMap Msg.bytes
  if addr = 0 && decide (s.storeFree e.camp < 64 + msgBytes all) then (s.failRun id stRetainFull).finishFailed id e stRetainFull
  else match (if addr = 0 then Except.ok s' else s'.writeResult core slot addr cap bytes) with
    | .error st => (s.failRun id st).finishFailed id e st
    | .ok s1 => match s1.commitExec id chs with
      | .error .choice => s
      | .error (.status st) => (s.failRun id st).finishFailed id e st
      | .ok (s, n, h) =>
        let s := s.freeExec id
        let s := if addr = 0 then s.addRecord e.camp (s.serviceRecord key e 0 (e.dropped + n) all) else s
        s.postResult key id ⟨if addr != 0 && decide (cap < bytes.length) then stOutTruncated else 0, e.dropped + n, h,
          if addr = 0 then bytes.length else min cap bytes.length⟩

/-- EXECUTION_COMPLETE (R231, R232): the end of an execution whose tasks have all stopped: as a failure where it failed or was cancelled; otherwise once every fragment has completed and
every sink has written its last data. `chs` holds the layout choices of its table writes, by operator. -/
def execExecutionComplete (id : Nat) (chs : List (Nat × TableChoice)) (s : State) : Res :=
  if !s.alive then .next s else
  match mget id s.execs with
  | none => .next s
  | some e => match s.planOf e with
    | none => .next s
    | some p =>
      if e.failed.isSome || e.cancelled then
        (if s.execStopped id then .next (s.finishFailed id e (e.failed.getD stAborted)).dispatch else .next s)
      else
        let s1 := s.drainResult id p
        match mget id s1.execs with
        | none => .next s1
        | some e =>
          if e.failed.isSome || !s1.execFinished id e p then .next s1
          else match e.by_ with
            | .command uid => .next (s1.finishCommand id uid e p chs).dispatch
            | .standing q run => .next (s1.finishStanding id q run e p chs).dispatch
            | .service core slot addr cap => .next (s1.finishService id core slot addr cap e p chs).dispatch

end Sys2Proof.Machine
end

