-- ==== Sys2Proof/Machine/Matching.lean ====
section
/-! DEFINITION. The matching store's events: headers, releases, overflow queues, the end of tasks, cancels (R174, R232, R255 to R262, R267). -/

namespace Sys2Proof.Machine

/-! ### Dropping a token -/

/-- Free what a token or entry holds: its staging copy once nothing else reads it, and its credit (R169, R170, R260). -/
def State.freeToken (s : State) (id die : Nat) (body : TokBody) (r : Option Route) (units : Nat) : State :=
  match r with
  | none => s.execGive id units
  | some r =>
    let whole := match s.xchgOf id r.op with
      | some x => x.mode == 2
      | none => false
    let s := match whole, body with
      | true, .batch b => if s.copyRead id die r.op r.src b.seq then s else s.execGive id b.units
      | _, _ => s.execGive id units
    s.creditBack id r

/-- A token leaves the network, delivered or dropped. -/
def State.takeTok (s : State) (n : Nat) (k : NetTok) : State :=
  let s := { s with run := { s.run with net := mdel n s.run.net } }
  let s := match k.route with
    | some r => s.landed k.exec r
    | none => s
  match k.src with
  | some f => s.modExec k.exec (fun (e : Exec) => e.modFrag f (fun g => { g with flying := g.flying - 1 }))
  | none => s

/-- A token's task will never be made: its consumer has one fewer to complete. -/
def State.loseTask (s : State) (id frag : Nat) : State :=
  s.modExec id (fun (e : Exec) => e.modFrag frag (fun g => { g with live := g.live - 1 }))

/-- A stale token is dropped, counted on its die and recorded in the root ring only (R260). -/
def State.staleTok (s : State) (n : Nat) (k : NetTok) (camp tag epoch : Nat) : State :=
  let s := s.ra .DPT_STALE_TOKENS_count k.die 1
  let s := s.traceRoot k.die ⟨tag, epoch, camp, 0, 0, 0, 0x0A, 0, epoch, 0⟩
  ((s.takeTok n k).freeToken k.exec k.die k.body k.route k.units).loseTask k.exec k.frag

/-- Are tokens of a Camp accepted (Table 09-1)? -/
def State.accepts (s : State) (camp : Nat) : Bool := s.campState camp == .active || s.campState camp == .suspended

/-! ### Headers (R256, R259) -/

/-- Entries of a Camp on a die, all and fence-bound, and the die's fence-bound entries. -/
def State.entryCount (s : State) (d camp : Nat) : Nat := ((s.die d).entries.filter (fun p => p.2.state != .free && p.2.camp == camp)).length
def State.fenceCount (s : State) (d : Nat) (camp : Option Nat) : Nat :=
  ((s.die d).entries.filter (fun p => p.2.state != .free && p.2.fenceBound && (match camp with | some c => p.2.camp == c | none => true))).length

/-- Does a header find a limit of R259 reached? -/
def State.limited (s : State) (d camp : Nat) (bound : Bool) : Bool :=
  let allot := 64 * s.rg .CPM_STATE_mse_allot camp
  let cap := s.rg .DPT_CTL_fence_cap d
  decide (allot ≤ s.entryCount d camp) ||
  (bound && (decide (3 * allot ≤ 4 * s.fenceCount d (some camp)) || decide (1024 * (if cap = 0 || 48 < cap then 48 else cap) ≤ s.fenceCount d none)))

/-- Is a fragment's task fence-bound: has it a fence slot that has not fired? -/
def Exec.bound (e : Exec) (p : Plan) (f : Nat) : Bool := (p.fencesOf f).any (fun x => !(e.frag f).slots.contains x.slot)

/-- Key of an overflow lane. -/
def laneKey (camp die : Nat) (bound : Bool) : Nat := (camp * 2 + die) * 2 + (if bound then 1 else 0)
/-- Headers queued for a Camp on a die. -/
def State.queued (s : State) (camp die : Nat) : Nat :=
  (mgetD [] (laneKey camp die false) s.run.overflow).length + (mgetD [] (laneKey camp die true) s.run.overflow).length
/-- Near-memory units of n queued headers at 32 bytes each (R259). -/
def queueUnits (n : Nat) : Nat := units64k (32 * n)

/-- The effective priority of a fragment (R212). -/
def State.prio (s : State) (camp : Nat) (f : Frag) : Nat := min f.prio (s.rg .CPM_STATE_prio_ceiling camp)

/-- Allocate an entry for a header (R256): WAITING, with the slots that have fired already arrived. A fence or final task's entry waits for nothing. -/
def State.allocEntry (s : State) (n : Nat) (k : NetTok) (e : Exec) (f : Frag) (bound : Bool) (tag da : Nat) : State :=
  let old := s.entry k.die tag
  let batchTok := match k.body with
    | .seed _ _ | .batch _ => true
    | .fence _ | .final _ _ | .thread _ _ => false
  let slots := f.kinds.length
  let x : Entry := ⟨.waiting, old.epoch, s.prio e.camp f, f.taskClass, e.camp, slots, false, batchTok && bound,
    if batchTok then (e.frag k.frag).mask else 2 ^ slots - 1, k.frag, k.exec, s.ticks, if batchTok then [da] else [], k.body, k.place, k.route, k.units, 0⟩
  let s := s.setEntry k.die tag x
  if batchTok then { s with run := { s.run with net := mput n { k with entry := some (tag, old.epoch), queued := false } s.run.net } }
  else ({ s with run := { s.run with net := mdel n s.run.net } }.readyIf k.die tag).dispatch

/-- TOKEN_HEADER (R256, R259, R262): a header is refused for a cancelled execution, stale for a Camp that takes no tokens, queued when a limit is reached,
and otherwise allocates the free entry `tag`, the token's body lying at `da`. -/
def execTokenHeader (n tag da : Nat) (s : State) : Res :=
  if !s.alive || 65536 ≤ tag then .next s else
  match mget n s.run.net with
  | none => .next s
  | some k =>
    if k.entry.isSome || k.queued then .next s else
    match mget k.exec s.execs with
    | none => .next ((s.takeTok n k))
    | some e =>
      if e.cancelled then .next (((s.takeTok n k).freeToken k.exec k.die k.body k.route k.units).loseTask k.exec k.frag)
      else if !s.accepts e.camp then .next (s.staleTok n k e.camp 0 0)
      else match s.planOf e with
        | none => .next s
        | some p => match p.frags[k.frag]? with
          | none => .next s
          | some f =>
            let bound := e.bound p k.frag
            if s.limited k.die e.camp bound then
              let q := s.queued e.camp k.die
              match s.takeNear e.camp (queueUnits (q + 1) - queueUnits q) with
              | none => .next ((((s.takeTok n k).freeToken k.exec k.die k.body k.route k.units).loseTask k.exec k.frag).failRun k.exec stQuotaExhausted)
              | some s =>
                let key := laneKey e.camp k.die bound
                let s := { s with run := { s.run with
                  net := mput n { k with queued := true } s.run.net
                  overflow := mput key (mgetD [] key s.run.overflow ++ [n]) s.run.overflow } }
                .next (s.trace k.die ⟨0, 0, e.camp, 0, 0, s.prio e.camp f, 0x09, f.taskClass, q + 1, s.execHandle k.exec⟩)
            else if (s.entry k.die tag).state != .free then .next s
            else .next (s.allocEntry n k e f bound tag da)

/-- A queued header leaves its lane. -/
def State.unqueue (s : State) (camp die n : Nat) : State :=
  let q := s.queued camp die
  let drop (b : Bool) (m : Map (List Nat)) : Map (List Nat) := mmod (laneKey camp die b) (fun l => l.filter (· != n)) m
  let s := { s with run := { s.run with overflow := drop true (drop false s.run.overflow) } }
  s.giveNear camp (queueUnits q - queueUnits (s.queued camp die))

/-- OVERFLOW_READMIT (R259): the first header of a lane is readmitted once the limits allow. -/
def execOverflowReadmit (camp die : Nat) (fenceLane : Bool) (tag da : Nat) (s : State) : Res :=
  if !s.alive || 65536 ≤ tag then .next s else
  match mgetD [] (laneKey camp die fenceLane) s.run.overflow with
  | [] => .next s
  | n :: _ => match mget n s.run.net with
    | none => .next (s.unqueue camp die n)
    | some k => match mget k.exec s.execs with
      | none => .next ((s.unqueue camp die n).takeTok n k)
      | some e => match s.planOf e with
        | none => .next s
        | some p => match p.frags[k.frag]? with
          | none => .next s
          | some f =>
            let bound := e.bound p k.frag
            if e.cancelled then .next ((((s.unqueue camp die n).takeTok n k).freeToken k.exec k.die k.body k.route k.units).loseTask k.exec k.frag)
            else if s.limited die camp bound || (s.entry die tag).state != .free then .next s
            else .next ((s.unqueue camp die n).allocEntry n k e f bound tag da)

/-- TOKEN_RELEASE (R256, R258, R260): a release satisfies its batch slot when its epoch matches a WAITING entry of a Camp that takes tokens, and is stale
otherwise. A delivered batch lets its producer's fences and its consumer's closing go on. -/
def execTokenRelease (n : Nat) (s : State) : Res :=
  if !s.alive then .next s else
  match mget n s.run.net with
  | none => .next s
  | some k => match k.entry with
    | none => .next s
    | some (tag, epoch) =>
      let x := s.entry k.die tag
      if x.epoch != epoch || x.state != .waiting || !s.accepts x.camp then
        .next (((s.staleTok n k x.camp tag epoch).settleExec k.exec).dispatch)
      else
        let slot := match (mget k.exec s.execs).bind s.planOf with
          | some p => (match p.frags[k.frag]? with | some f => f.kinds.idxOf 0 | none => 0)
          | none => 0
        let s := s.takeTok n k
        let s := s.setEntry k.die tag { x with arrived := if bits x.arrived slot 1 = 1 then x.arrived else x.arrived + 2 ^ slot }
        .next (((s.readyIf k.die tag).settleExec k.exec).dispatch)

/-! ### The end of a task (R260, R277) -/

/-- Send a task's output batches along its fragment's batch edge, each to the matching store of the die that made it (R218). -/
def State.sendOutputs (s : State) (p : Plan) (id frag tile : Nat) (out : List Batch) : State :=
  match p.dataEdge frag with
  | none => s
  | some e => out.foldl (fun (s : State) b => s.addTok ⟨id, e.dst, tile / 64, .batch b, .any, none, some frag, 0, false, none⟩) s

/-- A task has stopped: its batch's credit and staging return, its tile-time and measured energy are settled, its entry drains, and a
record says why (R170, R260, R269, R277, R290). -/
def State.endTask (s : State) (die tag m reason aux : Nat) (w : Work) : State :=
  let x := s.entry die tag
  let s := { s with run := { s.run with works := mdel (die * 65536 + tag) s.run.works } }
  let s := s.charge w.camp 0 (40 * (s.ticks - w.started))
  let s := s.settleEnergy w.cluster w.camp x.taskClass m
  let s := s.traceEntry die tag x reason aux
  let s := s.drainEntry die tag
  let s := match x.route with
    | some _ => s.ra .XCH_STAT_received w.tile 1
    | none => s
  let s := (s.freeToken w.exec die x.body x.route x.units).loseTask w.exec w.frag
  ((s.idleIf w.cluster).settleExec w.exec).dispatch

/-- TASK_COMPLETE (R260): a task whose work is done emits its batches; one that has failed emits none. `m` is its measured energy in nJ. -/
def execTaskComplete (die tag m : Nat) (s : State) : Res :=
  if !s.alive then .next s else
  match s.taskAt (die * 65536 + tag) with
  | none => .next s
  | some t =>
    if (s.entry die tag).state != .running then .next s
    else match t.w.failed with
      | some st => .next (s.endTask die tag m 0x04 st t.w)
      | none =>
        if !t.w.done || t.e.cancelled then .next s else
        let s := match t.w.route with
          | some _ => s.charge t.w.camp 1 (match t.w.body with | .batch b => b.bytes | _ => 0)
          | none => s
        .next ((s.sendOutputs t.p t.w.exec t.w.frag t.w.tile t.w.out).endTask die tag m 0x03 m t.w)

/-- TASK_STOP_AT_BOUNDARY (R232, R88, R114, R152, R174, R206): a task of a cancelled execution stops at its unit's next boundary and emits nothing. -/
def execTaskStopAtBoundary (die tag m : Nat) (s : State) : Res :=
  if !s.alive then .next s else
  match s.taskAt (die * 65536 + tag) with
  | none => .next s
  | some t =>
    if (s.entry die tag).state != .running || !t.e.cancelled || t.w.failed.isSome then .next s
    else .next (s.endTask die tag m 0x05 0 t.w)

/-- ENTRY_FREE (R260): after at least 2 µs in DRAINING an entry becomes FREE, its epoch advanced. -/
def execEntryFree (dt die tag : Nat) (s : State) : Res :=
  let s := s.advance dt
  let x := s.entry die tag
  if !s.alive || x.state != .draining || s.ticks < x.since + 50 then .next s
  else .next (s.setEntry die tag { Entry.fresh with epoch := (x.epoch + 1) % 16, since := s.ticks })

/-! ### Cancels (R174, R262, R387) -/

/-- Free the WAITING and READY entries of an execution at once: they drain (R260, R262). -/
def State.freeEntries (s : State) (id : Nat) : State :=
  [0, 1].foldl (fun (s : State) d =>
    let tags := ((s.die d).entries.filter (fun p => !p.2.thread && p.2.exec == id && (p.2.state == .waiting || p.2.state == .ready))).map (·.1)
    tags.foldl (fun (s : State) t =>
      let x := s.entry d t
      let s := (s.drainEntry d t).traceEntry d t x 0x05 0
      -- a batch whose release is still to come gives its credit back when that release turns out stale
      if s.run.net.any (fun k => k.2.die == d && k.2.entry == some (t, x.epoch)) then s
      else (s.freeToken id d x.body x.route x.units).loseTask id x.frag) s) s

/-- A cancel stops the descriptor that serves a command (R387): its read side stops, and it completes with ABORTED and the bytes acknowledged. -/
def State.abortDma (s : State) (uid : Nat) : State :=
  s.io.dma.foldl (fun (s : State) p =>
    match mget p.1 s.io.dma with
    | some d => if d.uid == some uid && !d.completing && d.status == 0 then s.dmaPace p.1 { d with status := stAborted } else s
    | none => s) s

/-- The cancel net on a cancelled execution (R262, R174): its waiting and ready entries are freed, its queued headers leave their lanes, and the
descriptors working for its command stop. Later headers are refused and running tasks stop at their boundaries. -/
def State.cancelNet (s : State) (id : Nat) : State :=
  match mget id s.execs with
  | none => s
  | some e =>
    if !e.cancelled then s else
    let s := s.freeEntries id
    let gone := s.run.net.filter (fun k => k.2.exec == id && k.2.entry.isNone)
    let s := gone.foldl (fun (s : State) k =>
      let s := if k.2.queued then s.unqueue e.camp k.2.die k.1 else s
      ((s.takeTok k.1 k.2).freeToken id k.2.die k.2.body k.2.route k.2.units).loseTask id k.2.frag) s
    let s := match e.by_ with
      | .command uid => s.abortDma uid
      | .standing _ _ | .service _ _ _ _ => s
    s.dispatch

/-- XDIE_WAIT_EXPIRY (R267): after `dt` ticks an entry has waited in READY for xdie_wait; selection may now place it on the other die. -/
def execXdieWaitExpiry (dt die tag : Nat) (s : State) : Res :=
  let s := s.advance dt
  let x := s.entry die tag
  if !s.alive || x.state != .ready || s.ticks < x.since + s.rg .DPT_CTL_xdie_wait die then .next s
  else .next s.dispatch

end Sys2Proof.Machine
end

