-- ==== Sys2Proof/Machine/Governor.lean ====
section
/-! DEFINITION. Ration periods and the power governor (R269 to R287, R509, R510, R521). -/

namespace Sys2Proof.Machine

/-! ### Rations (R270, R271) -/

/-- The Ration period in AON ticks (Table 09-13). -/
def State.periodTicks (s : State) : Nat := 25 * max 100 (min 10000 (s.rg .CPM_PERIOD_period_us 0))

/-- Tile-time debt of a Camp (Table 09-8). -/
def State.debt (s : State) (c : Nat) : Nat := (-(s.remain c 0)).toNat

/-- A period boundary for one component: an amount that CAMP_RATION changed takes effect (R363), the remainder is reset with its debt carried, and the
exhausted bit follows (R271). -/
def State.renewRation (s : State) (c k : Nat) : State :=
  let key := 8 * c + k
  let s := match mget key s.rationNext with
    | some a => s.rs .CPM_RATION_amount key a
    | none => s
  let a := s.rg .CPM_RATION_amount key
  if a = unlimited then s.setExhausted c k false else
  let r : Int := (a : Int) + min (s.remain c k) 0
  (s.rs .CPM_REMAIN_remain key (ofInt 42 r)).setExhausted c k (decide (r ≤ 0))

/-- RATION_PERIOD (R270, R271, R290): a boundary at a whole multiple of the period after the end of BOOT. Each dispatcher records the period of every Camp. -/
def execRationPeriod (dt : Nat) (s : State) : Res :=
  let s := s.advance dt
  if !s.alive || s.mode == .boot || (s.ticks - s.power.bootEnd) % s.periodTicks != 0 then .next s else
  let cs := s.camps.map (·.1)
  let s := [0, 1].foldl (fun (s : State) d => s.setDie d { s.die d with heldRation := [], heldEnergy := [] }) s
  let s := cs.foldl (fun (s : State) c => (List.range 6).foldl (fun (s : State) k => s.renewRation c k) s) s
  let s := { s with rationNext := [] }
  let s := cs.foldl (fun (s : State) c => [0, 1].foldl (fun (s : State) d =>
    s.trace d ⟨0, 0, c, 0, 0, 0, 0x0B, 0, s.debt c, 0⟩) s) s
  .next s.dispatch

/-! ### The governor's samples (R275) -/

/-- The sensors of a cluster. -/
def Samples.cluster (m : Samples) (c : Nat) : List (Option Nat) := (m.sensors.drop (12 * c)).take 12
/-- The highest of some readings. -/
def highest (l : List (Option Nat)) : Option Nat := (l.filterMap id).max?

/-- Is a cluster frozen (Table 09-6)? -/
def State.frozen (s : State) (c : Nat) : Bool := decide (2 ≤ s.rg .PWR_CLUSTER_pstate c)
/-- The clusters of a die. -/
def dieClusters (d : Nat) : List Nat := (List.range 8).map (· + 8 * d)

/-- Step 2 and 3: T_c, counters and thermal responses (Table 09-5, Table 09-26). -/
def State.thermal (s : State) (m : Samples) : State :=
  let thr := s.rg .THM_CTL_t_throttle 0
  let top := (highest m.sensors).getD 0
  let was := s.rg .THM_CTL_hot_stop 0 = 1
  let hot := if decide (105 ≤ top) then true else was && !decide (top < 100)
  let s := s.rs .THM_CTL_hot_stop 0 (if hot then 1 else 0)
  let s := { s with power := { s.power with temp := top, groups := m.groups, pkg := (m.pkg :: s.power.pkg).take 10 } }
  let s := (List.range 16).foldl (fun (s : State) c =>
    let l := m.cluster c
    let t := (highest l).getD 0
    let n := (l.filterMap id).length
    let s := (s.rs .THM_CLUSTER_t_max c t).rs .THM_CLUSTER_valid c n
    let s := s.ra .THM_CLUSTER_sensor_faults c (12 - n)
    let above := decide (0 < n) && decide (thr ≤ t)
    let s := if above then s.ra .THM_CLUSTER_throttle_events c 1 else s
    s.rs .PWR_CLUSTER_throttled c (if above || hot then 1 else 0)) s
  if hot && !was then [0, 1].foldl (fun (s : State) d => s.traceDevice d 0 0x14 top) s else s

/-- P_lim in W (R280). -/
def State.limitW (s : State) : Nat :=
  let a := s.rg .PWR_LIMIT_sustained 0
  let b := s.rg .PWR_LIMIT_bmc_cap 0
  if b = 0 then a else min a b

/-- The refill weight of a cluster (R276). -/
def State.weight (s : State) (c : Nat) : Nat :=
  if s.frozen c || s.rg .THM_CLUSTER_valid c = 0 then 0
  else min 16 (2 * (s.rg .THM_CTL_t_throttle 0 - s.rg .THM_CLUSTER_t_max c))

/-- Step 4: the buckets are refilled (R276, R277, R282). -/
def State.refill (s : State) (m : Samples) : State :=
  let p := s.limitW
  let s := s.rs .PWR_LIMIT_effective 0 p
  let budget := if p * 1150000 < s.power.pkg.sum || s.rg .THM_CTL_hot_stop 0 = 1 then 0 else p * 100000 - m.fixedNj
  let w := (List.range 16).map s.weight
  let cap := p * 9375
  (List.range 16).foldl (fun (s : State) c =>
    let r := if w.sum = 0 then 0 else budget * w.getD c 0 / w.sum
    let s := s.rs .PWR_BUCKET_cap c cap
    s.setLevel c (min (cap : Int) (s.level c - (m.idle.getD c 0 : Int) + (r : Int)))) s

/-- The frequency step R278 gives a cluster. -/
def State.nextStep (s : State) (c : Nat) : Nat :=
  let f := s.rg .PWR_CLUSTER_f_step c
  let t := s.rg .THM_CLUSTER_t_max c
  let valid := s.rg .THM_CLUSTER_valid c != 0
  let thr := s.rg .THM_CTL_t_throttle 0
  let cap : Int := (s.rg .PWR_BUCKET_cap c : Nat)
  let waited := (s.die (c / 8)).workWaited
  if s.pins.prochot || s.rg .THM_CTL_hot_stop 0 = 1 then 16
  else if valid && decide (thr ≤ t) then max 16 (f - 2)
  else if decide (s.level c < cap / 4) && waited && decide (s.rg .PWR_CTL_f_eff 0 < f) then max 16 (f - 1)
  else if decide (3 * cap / 4 < s.level c) && waited && valid && decide (t + 3 < thr) then min 40 (f + 1)
  else f

/-- Set a cluster's frequency, with its DVFS record. -/
def State.setStep (s : State) (c f : Nat) : State :=
  if s.rg .PWR_CLUSTER_f_step c = f then s else (s.rs .PWR_CLUSTER_f_step c f).traceDevice (c / 8) c 0x12 (50 * f)

/-- The fused voltage of a die's highest frequency (R24, R279). -/
def fusedMv (d f : Nat) : Nat := (Config.fusedVoltage d f).toNat

/-- The voltage a die's rail holds: the last its regulator reported, 800 mV at power-up (R509). -/
def State.railMv (s : State) (d : Nat) : Nat := if s.rg .PWR_AVS_vread d = 0 then 800 else s.rg .PWR_AVS_vread d

/-- Write a voltage over a die's AVSBus port (R510). -/
def State.avsWrite (s : State) (d mv : Nat) (raises : List (Nat × Nat)) : State :=
  let s := (s.rs .PWR_AVS_vreq d mv).emit (.avs d mv)
  { s with power := { s.power with avsWait := mput d ⟨mv, s.ticks + 12500, raises⟩ s.power.avsWait } }

/-- Step 5 for a die (R278, R279): frequencies fall at once; they rise at once when the rail already holds the voltage, and otherwise after the regulator has reported the
raise. While a request is outstanding no further one is made. -/
def State.dvfs (s : State) (d : Nat) : State :=
  let warm := (dieClusters d).filter (fun c => !s.frozen c)
  let next := warm.map (fun c => (c, s.nextStep c))
  let ups := next.filter (fun p => decide (s.rg .PWR_CLUSTER_f_step p.1 < p.2))
  let s := (next.filter (fun p => decide (p.2 < s.rg .PWR_CLUSTER_f_step p.1))).foldl (fun (s : State) p => s.setStep p.1 p.2) s
  if mhas d s.power.avsWait || warm.isEmpty then s else
  let top (s : State) : Nat := ((warm.map (fun c => s.rg .PWR_CLUSTER_f_step c)).max?).getD 16
  let want := (((warm.map (fun c => (next.find? (fun p => p.1 == c)).elim 16 (·.2))).max?).getD 16)
  let mv := fusedMv d want
  if s.railMv d < mv then s.avsWrite d mv ups
  else
    let s := ups.foldl (fun (s : State) p => s.setStep p.1 p.2) s
    let mv := fusedMv d (top s)
    if mv < s.railMv d && s.rg .PWR_AVS_vreq d != mv then s.avsWrite d mv [] else s

/-- Is a cluster kept from freezing (R284): the home of a live gapped dictionary, or a Digest Engine context in use? -/
def State.pinnedCluster (s : State) (c : Nat) : Bool :=
  s.run.dicts.any (fun q => q.2.home == c) || (List.range 16).any (fun k => s.rg .DGE_STAT_state (16 * c + k) != 0)

/-- Step 6, freezing (R284). -/
def State.freeze (s : State) (c : Nat) : State :=
  let since := mgetD s.ticks c s.power.since
  let warm := ((dieClusters (c / 8)).filter (fun k => !s.frozen k)).length
  if s.rg .PWR_CLUSTER_pstate c != 1 || s.ticks < since + s.rg .PWR_CTL_freeze_idle 0 * ticksPerUs || s.pinnedCluster c ||
      warm ≤ s.rg .PWR_CTL_min_warm 0 then s
  else
    let s := (s.rs .PWR_CLUSTER_pstate c 2).ra .PWR_CLUSTER_freezes c 1
    ({ s with power := { s.power with since := mput c s.ticks s.power.since } }).traceDevice (c / 8) c 0x10 0

/-- The wait of the oldest READY task of a die that no tile of it has room for (R287). -/
def State.unplaceable (s : State) (d : Nat) : Option Nat :=
  (((s.die d).ready.filterMap (fun r =>
    let e := s.entry d r.tag
    if s.roomOnDie d e then none else some (s.ticks - e.since))).max?)

/-- Of some clusters the coolest, the lowest on a tie. -/
def State.coolest (s : State) (l : List Nat) : Option Nat :=
  match l with
  | [] => none
  | c :: l => some (l.foldl (fun a b => if s.rg .THM_CLUSTER_t_max b < s.rg .THM_CLUSTER_t_max a then b else a) c)

/-- Step 6, thawing at most one cluster of a die (R287, R285). -/
def State.thaw (s : State) (d : Nat) : State :=
  let asleep (k : Nat) : List Nat := (dieClusters d).filter (fun c => s.rg .PWR_CLUSTER_pstate c == k && !mhas c s.power.thawing)
  match s.unplaceable d with
  | none => s
  | some wait =>
    if wait < s.rg .PWR_CTL_thaw_wait 0 * ticksPerUs then s else
    let pick : Option (Nat × Nat × Nat) := match s.coolest (asleep 2) with
      | some c => some (c, s.rg .PWR_THAW_retained_nj 0, 1000)
      | none => (s.coolest (asleep 3)).map (fun c => (c, s.rg .PWR_THAW_cold_nj 0, 1375))
    match pick with
    | none => s
    | some (c, cost, ticks) =>
      if s.limitW * 1000000 < s.power.pkg.sum + cost then s
      else
        let s := s.ra .PWR_CLUSTER_thaws c 1
        ({ s with power := { s.power with thawing := mput c (s.ticks + ticks) s.power.thawing } }).traceDevice d c 0x11 wait

/-- GOVERNOR_PERIOD (R275): every 2,500 AON ticks, with what the governor measures. -/
def execGovernorPeriod (dt : Nat) (m : Samples) (s : State) : Res :=
  let s := s.advance dt
  if !s.alive || s.ticks % 2500 != 0 then .next s else
  let s := (s.thermal m).refill m
  let s := [0, 1].foldl State.dvfs s
  let s := (List.range 16).foldl State.freeze s
  let s := [0, 1].foldl State.thaw s
  let s := [0, 1].foldl (fun (s : State) d => s.setDie d { s.die d with workWaited := false }) s
  .next s.dispatch

/-- AVS_COMPLETE (R279): a regulator reports the voltage reached; frequencies that waited for it rise. -/
def execAvsComplete (port : Nat) (s : State) : Res :=
  if !s.alive then .next s else
  match mget port s.power.avsWait with
  | none => .next s
  | some a =>
    let s := { s.rs .PWR_AVS_vread port a.mv with power := { s.power with avsWait := mdel port s.power.avsWait } }
    .next (a.raises.foldl (fun (s : State) p =>
      if s.frozen p.1 || s.pins.prochot || s.rg .THM_CTL_hot_stop 0 = 1 then s else s.setStep p.1 p.2) s)

/-- AVS_TIMEOUT (R279, R510): a regulator silent for 500 µs leaves the frequencies unchanged, and the timeout is counted. -/
def execAvsTimeout (dt port : Nat) (s : State) : Res :=
  let s := s.advance dt
  if !s.alive then .next s else
  match mget port s.power.avsWait with
  | none => .next s
  | some a =>
    if s.ticks < a.deadline then .next s
    else .next (({ s with power := { s.power with avsWait := mdel port s.power.avsWait } }).ra .PWR_AVS_timeouts port 1)

/-! ### Freeze and thaw edges (R285) -/

/-- FROZEN_COLD_ENTRY (R285): after cold_after in Frozen-retained, dirty lines are written back and power is removed. Operations recorded
while frozen come first (R307); the engine's slots are lost (R477). -/
def execFrozenColdEntry (dt c : Nat) (s : State) : Res :=
  let s := s.advance dt
  let since := mgetD s.ticks c s.power.since
  if !s.alive || 16 ≤ c || s.rg .PWR_CLUSTER_pstate c != 2 || mhas c s.power.thawing || s.ticks < since + s.rg .PWR_CTL_cold_after 0 * 25000 then .next s
  else
    let s := (s.cache c).recorded.foldl (fun (s : State) m => s.applyMaint c m) s
    let s := s.applyMaint c ⟨.flushInval, 0, 0⟩
    let s := (s.cache c).evb.foldl (fun (s : State) e => s.writeBack e.num e.data e.poison) s
    let s := s.setCache c ClusterCache.empty
    let s := { s with trust := { s.trust with keys := s.trust.keys.filter (fun p => p.1 / 32 != c) } }
    let s := s.rs .PWR_CLUSTER_pstate c 3
    .next (({ s with power := { s.power with since := mput c s.ticks s.power.since } }).traceDevice (c / 8) c 0x10 1)

/-- THAW_COMPLETE (R285, R307): the wake latency has passed; recorded maintenance is applied and key slots 8 to 31 hold firmware's copies before the cluster takes any
task. A cluster that wakes with no task is Idle (R283). -/
def execThawComplete (dt c : Nat) (s : State) : Res :=
  let s := s.advance dt
  match mget c s.power.thawing with
  | none => .next s
  | some t =>
    if !s.alive || s.ticks < t then .next s
    else
      let k := s.cache c
      let s := if k.recordAll then s.applyMaint c ⟨.flushInval, 0, 0⟩ else k.recorded.foldl (fun (s : State) m => s.applyMaint c m) s
      let s := s.setCache c { s.cache c with recorded := [], recordAll := false }
      let keep := s.trust.keys.filter (fun p => !(p.1 / 32 == c && decide (8 ≤ p.1 % 32)))
      let keys := s.trust.copies.foldl (fun (m : Map Bytes) p => mput (c * 32 + p.1) p.2.key m) keep
      let s := { s with trust := { s.trust with keys := keys } }
      let s := s.rs .PWR_CLUSTER_pstate c 1
      let s := { s with power := { s.power with thawing := mdel c s.power.thawing, since := mput c s.ticks s.power.since } }
      .next s.dispatch

/-! ### PROCHOT_N (R281) -/

/-- PROCHOT_ASSERT: a low of at least 2 AON ticks sets every cluster to 800 MHz, without the governor (R281). -/
def execProchotAssert (ticks : Nat) (s : State) : Res :=
  let s := s.advance ticks
  if ticks < 2 || s.pins.prochot then .next s else
  let s := { s with pins := { s.pins with prochot := true } }
  if !s.alive then .next s else
  let s := (List.range 16).foldl (fun (s : State) c => (s.rs .PWR_CLUSTER_f_step c 16).rs .PWR_CLUSTER_prochot c 1) s
  .next ([0, 1].foldl (fun (s : State) d => s.traceDevice d 0 0x13 1) s)

/-- PROCHOT_DEASSERT: the clusters step up under R278 from the next period (R281). -/
def execProchotDeassert (ticks : Nat) (s : State) : Res :=
  let s := s.advance ticks
  if ticks < 2 || !s.pins.prochot then .next s else
  let s := { s with pins := { s.pins with prochot := false } }
  if !s.alive then .next s else
  let s := (List.range 16).foldl (fun (s : State) c => s.rs .PWR_CLUSTER_prochot c 0) s
  .next ([0, 1].foldl (fun (s : State) d => s.traceDevice d 0 0x13 0) s)

end Sys2Proof.Machine
end

