-- ==== Sys2Proof/Machine/Ingest.lean ====
section
/-! DEFINITION. INGEST: an Arrow stream becomes blocks of a table (R51 to R54, R354, R367). The stream's metadata, whose encoding is the published Arrow
format's, comes decoded. -/

namespace Sys2Proof.Machine

/-! ### Buffers of a record batch (R52) -/

/-- Bytes of buffer i of a message, where it lies in the body and has at least n bytes. -/
def ArrowMsg.buffer (m : ArrowMsg) (bufs : List (Nat × Nat)) (i n : Nat) : Option Bytes :=
  match bufs[i]? with
  | none => if n = 0 then some [] else none
  | some (off, len) => if len < n || m.bodyLen < off + len then none else some (bslice m.body off len)

/-- Bit r of a bitmap. -/
def bitAt (b : Bytes) (r : Nat) : Bool := bits (b.getD (r / 8) 0).toNat (r % 8) 1 == 1

/-- The validity of `rows` rows: a bitmap, or all valid where there is none and no null is declared. -/
def ArrowMsg.validity (m : ArrowMsg) (bufs : List (Nat × Nat)) (i rows nulls : Nat) : Option (List Bool) :=
  let none_ := match bufs[i]? with | some (_, n) => n == 0 | none => true
  if none_ && nulls == 0 then some (List.replicate rows true)
  else (m.buffer bufs i ((rows + 7) / 8)).map (fun b => (List.range rows).map (bitAt b))

/-- The strings between offsets: none where they decrease or leave the data. -/
def spanStrings (data : Bytes) : List Nat → Option (List Bytes)
  | a :: b :: l => if b < a || data.length < b then none else (spanStrings data (b :: l)).map (fun r => bslice data a (b - a) :: r)
  | [a] => if data.length < a then none else some []
  | [] => some []

/-- The strings of a Utf8 or Binary array: offsets in buffer i and data in the next. -/
def ArrowMsg.strings (m : ArrowMsg) (bufs : List (Nat × Nat)) (i rows : Nat) : Option (List Bytes) :=
  if rows = 0 then some [] else
  match m.buffer bufs i (4 * (rows + 1)), m.buffer bufs (i + 1) 0 with
  | some o, some d => spanStrings d ((List.range (rows + 1)).map (word32 o))
  | _, _ => none

/-- What became of a value: a value to store (for a dictionary-encoded column with its code), or a malformed row (R53). -/
inductive Cell where
  | lit (v : Lit)
  | code (v : Lit) (c : Nat)
  | bad
  deriving DecidableEq, Repr

/-- The longest string. -/
def maxStr : Nat := 65536

/-- A string as a value. -/
def strCell (b : Bytes) : Cell := if maxStr < b.length then .bad else .lit (.str b)

/-- Cells of a column: nulls where the bitmap says so. -/
def nullCells (valid : List Bool) (cells : List Cell) : List Cell := (List.zip valid cells).map (fun x => if x.1 then x.2 else .lit .null)

/-- A fixed-width value of a type: signed or unsigned little-endian, or a Decimal128. -/
def fixedCell (t : ColType) (b : Bytes) : Cell :=
  if t.isDec then
    let v := sInt 128 (leNat b)
    if t.fits v then .lit (.dig (intStored t v)) else .bad
  else if t.isUnsigned then .lit (.dig (intStored t (leNat b : Nat)))
  else .lit (.dig (intStored t (sInt (8 * b.length) (leNat b))))

/-- A dictionary of the stream (R46, R53): its entries (none: null), whether a batch has used it, whether it was replaced after that, and what has been written of it: entry blocks,
the entries they hold, and the descriptor's DA. -/
structure ArrowDict where
  entries : List (Option Bytes)
  used : Bool
  replaced : Bool
  das : List Nat
  count : Nat
  desc : Nat
  deriving DecidableEq, Repr

/-- A dictionary-encoded cell: its index against the dictionary. -/
def codeCell (f : ArrowField) (d : ArrowDict) (b : Bytes) : Cell :=
  let v : Int := if f.indexSigned then sInt (8 * f.indexBytes) (leNat b) else (leNat b : Nat)
  if v < 0 then .bad
  else match d.entries[v.toNat]? with
    | none => .bad
    | some none => .code .null 0
    | some (some s) => if maxStr < s.length then .bad else .code (.str s) v.toNat

/-- The cells of one field from its buffers, which begin at number i; none: the batch is malformed. -/
def ArrowMsg.field (m : ArrowMsg) (bufs : List (Nat × Nat)) (dicts : Map ArrowDict) (f : ArrowField) (i rows nulls : Nat) : Option (List Cell × Nat) :=
  match f.ty, m.validity bufs i rows nulls with
  | some t, some valid => match f.dict with
    | some id => (match mget id dicts with
      | some d => if !f.indexOk || d.replaced || 1048576 < d.entries.length then none
        else (m.buffer bufs (i + 1) (rows * f.indexBytes)).map (fun b =>
          (((List.range rows).map (fun r => codeCell f d (bslice b (r * f.indexBytes) f.indexBytes))), i + 2)) |>.map (fun x => (nullCells valid x.1, x.2))
      | none => none)
    | none =>
      if t.isStr then (m.strings bufs (i + 1) rows).map (fun l => (nullCells valid (l.map strCell), i + 3))
      else if t.code = tBool then
        (m.buffer bufs (i + 1) ((rows + 7) / 8)).map (fun b =>
          (nullCells valid ((List.range rows).map (fun r => .lit (.dig [if bitAt b r then 1 else 0]))), i + 2))
      else
        let w := if t.isDec then 16 else intBits t.code / 8
        (m.buffer bufs (i + 1) (rows * w)).map (fun b =>
          (nullCells valid ((List.range rows).map (fun r => fixedCell t (bslice b (r * w) w))), i + 2))
  | _, _ => none

/-- The cells of all fields of a record batch, column by column. -/
def ArrowMsg.fields (m : ArrowMsg) (bufs : List (Nat × Nat)) (dicts : Map ArrowDict) (rows : Nat) : List ArrowField → List Nat → Nat → Option (List (List Cell))
  | [], _, _ => some []
  | f :: fs, ns, i => match ns with
    | [] => none
    | n :: ns => match m.field bufs dicts f i rows n with
      | none => none
      | some (c, j) => (m.fields bufs dicts rows fs ns j).map (fun r => c :: r)

/-! ### Progress -/

/-- An INGEST in progress: the schema's fields, encodings by column, dictionaries, batches written, rows committed, rows and batches dropped, and the layout choices left. -/
structure Ingest where
  fields : Option (List ArrowField)
  dicts : Map ArrowDict
  out : List BatchEntry
  rows : Nat
  badRows : Nat
  badBatches : Nat
  blocks : List (List BlockChoice)
  choices : List DictChoice
  deriving DecidableEq, Repr

/-- How a stream ended: at its end-of-stream marker with bytes left over, within the bytes processed, or with a failure. -/
inductive IngestEnd where
  | eos (excess : Nat)
  | short
  | error (e : WriteErr)
  deriving DecidableEq, Repr

/-- The code of a cell, and its value. -/
def Cell.lit' : Cell → Lit
  | .lit v => v
  | .code v _ => v
  | .bad => .null
def Cell.num : Cell → Nat
  | .code _ c => c
  | .lit _ | .bad => 0

/-- Write the dictionary of a column unless the written one still holds (R45, R46): full entry blocks of an earlier version are kept. -/
def State.ingestDict (s : State) (camp : Nat) (g : Ingest) (id : Nat) (t : ColType) : Except WriteErr (State × Ingest × List Extent × Nat) :=
  match mget id g.dicts with
  | none => .error .choice
  | some d =>
    let ents := d.entries.map (fun (e : Option Bytes) => match e with | some b => if maxStr < b.length then [] else b | none => [])
    let ents := if ents.isEmpty then [[]] else ents
    if d.desc != 0 && d.count == ents.length then .ok (s, { g with dicts := mput id { d with used := true } g.dicts }, [], d.desc)
    else match g.choices with
      | [] => .error .choice
      | ch :: rest =>
        match s.writeDict camp t ents (d.das.take (d.count / 4096)) ch with
        | .error e => .error e
        | .ok (s, das, own) =>
          .ok (s, { g with dicts := mput id { d with used := true, das := das, count := ents.length, desc := ch.da } g.dicts, choices := rest }, own, ch.da)

/-- Write the dictionaries of a batch's dictionary-encoded columns: the DA of each column's descriptor, and the memory they take. -/
def State.ingestDicts (camp : Nat) : List ArrowField → State → Ingest → Except WriteErr (State × Ingest × List Extent × List Nat)
  | [], s, g => .ok (s, g, [], [])
  | f :: fs, s, g => match f.dict, f.ty with
    | some id, some t => (match s.ingestDict camp g id t with
      | .error e => .error e
      | .ok (s, g, own, da) => match State.ingestDicts camp fs s g with
        | .error e => .error e
        | .ok (s, g, o, das) => .ok (s, g, own ++ o, da :: das))
    | _, _ => match State.ingestDicts camp fs s g with
      | .error e => .error e
      | .ok (s, g, o, das) => .ok (s, g, o, 0 :: das)

/-- The columns of a batch's rows as they are written. -/
def ingestCols (encs : List Nat) (das : List Nat) (fs : List ArrowField) (cols : List (List Cell)) : List ColOut :=
  fs.zipIdx.map (fun q =>
    let c := cols.getD q.2 []
    ⟨q.1.ty.getD ⟨0, 0, 0⟩, if q.1.dict.isSome then encDict else encs.getD q.2 0, c.map Cell.lit', c.map Cell.num, das.getD q.2 0⟩)

/-- Write rows in batches of at most 4,096. -/
def State.ingestRows (camp : Nat) (encs das : List Nat) (fs : List ArrowField) : List (List (List Cell)) → List Extent → State → Ingest → Except WriteErr (State × Ingest)
  | [], _, s, g => .ok (s, g)
  | rows :: l, own, s, g => match g.blocks with
    | [] => .error .choice
    | ch :: rest =>
      let cols := (List.range fs.length).map (fun i => rows.map (fun r => r.getD i .bad))
      match State.writeCols camp (ingestCols encs das fs cols) ch s with
      | .error e => .error e
      | .ok (s, blocks, o) =>
        State.ingestRows camp encs das fs l [] s
          { g with blocks := rest, out := g.out ++ [⟨rows.length, blocks, o ++ own⟩], rows := g.rows + rows.length }

/-- A malformed record batch or malformed rows under a fault policy: dropped and counted, or MALFORMED_DATA. -/
def Ingest.drop (g : Ingest) (strict : Bool) (batches rows : Nat) : Except WriteErr Ingest :=
  if strict && (batches != 0 || rows != 0) then .error (.status stMalformedData)
  else .ok { g with badBatches := g.badBatches + batches, badRows := g.badRows + rows }

/-- A record batch: rows that are malformed are dropped, the others are written. -/
def State.ingestBatch (s : State) (camp : Nat) (strict : Bool) (encs : List Nat) (fs : List ArrowField) (g : Ingest) (m : ArrowMsg) (rows : Nat) (compressed : Bool)
    (nulls : List Nat) (bufs : List (Nat × Nat)) : Except WriteErr (State × Ingest) :=
  match (if compressed then none else m.fields bufs g.dicts rows fs nulls 0) with
  | none => (g.drop strict 1 rows).map (fun g => (s, g))
  | some cols =>
    let all := (List.range rows).map (fun r => cols.map (fun c => c.getD r .bad))
    let keep := all.filter (fun r => !r.contains .bad)
    match g.drop strict 0 (rows - keep.length) with
    | .error e => .error e
    | .ok g =>
      if keep.isEmpty then .ok (s, g)
      else match State.ingestDicts camp fs s g with
        | .error e => .error e
        | .ok (s, g, own, das) => State.ingestRows camp encs das fs (chop 4096 keep) own s g

/-- A dictionary batch: a new dictionary, or a delta that extends one; a malformed one defines nothing. -/
def Ingest.dictBatch (g : Ingest) (m : ArrowMsg) (id : Nat) (delta : Bool) (rows : Nat) (compressed : Bool) (bufs : List (Nat × Nat)) : Ingest :=
  let old := mgetD (⟨[], false, false, [], 0, 0⟩ : ArrowDict) id g.dicts
  let nulls := match bufs[0]? with | some (_, n) => if n = 0 then 0 else 1 | none => 0
  match (if compressed then none else m.validity bufs 0 rows nulls), m.strings bufs 1 rows with
  | some valid, some l =>
    let new : List (Option Bytes) := (List.zip valid l).map (fun x => if x.1 then some x.2 else none)
    if delta then { g with dicts := mput id { old with entries := old.entries ++ new } g.dicts }
    else { g with dicts := mput id ⟨new, old.used, old.replaced || old.used, [], 0, 0⟩ g.dicts }
  | _, _ => g

/-- May columns of these types take these options (Table 02-3)? -/
def encsOk (encs : List Nat) (fs : List ArrowField) : Bool :=
  fs.zipIdx.all (fun q => match q.1.ty with | some t => encAllowed t (encs.getD q.2 0) | none => true)

/-- Does a schema match a table (R367)? -/
def schemaMatches (t : Table) (fs : List ArrowField) : Bool := fs.map (fun f => (f.ty, f.tz)) == t.cols.map (fun c => (some c.ty, c.tz))

/-- A schema message: its faults (R51, R54), then its match with the table, the options and the column limit (Table 08-2). -/
def ingestSchema (tab : Option Table) (encs : List Nat) (little : Bool) (fs : List ArrowField) : Option Nat :=
  if !little || fs.any (fun f => decide (63 < f.tz.length)) then some stSchemaFault
  else if (match tab with | some t => !schemaMatches t fs | none => false) then some stTypeMismatch
  else if !encsOk encs fs then some stTypeMismatch
  else if fs.isEmpty || 1024 < fs.length then some stLimitExceeded
  else none

/-- Work through a stream's messages, `left` bytes of which are processed. -/
def State.ingestMsgs (camp : Nat) (strict : Bool) (encs : List Nat) (tab : Option Table) : List ArrowMsg → Nat → State → Ingest → State × Ingest × IngestEnd
  | [], _, s, g => (s, g, .short)
  | m :: l, left, s, g =>
    if left = 0 then (s, g, .short)
    else if !m.framed then (s, g, .error (.status stSchemaFault))
    else if left < m.metaLen then (s, g, .short)
    else if m.kind == .eos then (s, g, if g.fields.isNone then .error (.status stSchemaFault) else .eos (left - m.metaLen))
    else if !m.v5 then (s, g, .error (.status stSchemaFault))
    else match m.kind, g.fields with
      | .schema little fs, none => (match ingestSchema tab encs little fs with
        | some e => (s, g, .error (.status e))
        | none => if left < m.metaLen + m.bodyLen then (s, { g with fields := some fs }, .short)
          else State.ingestMsgs camp strict encs tab l (left - m.metaLen - m.bodyLen) s { g with fields := some fs })
      | .dictionary id delta rows compressed bufs, some _ =>
        if left < m.metaLen + m.bodyLen then (s, g, .short)
        else State.ingestMsgs camp strict encs tab l (left - m.metaLen - m.bodyLen) s (g.dictBatch m id delta rows compressed bufs)
      | .record rows compressed nulls bufs, some fs =>
        if left < m.metaLen + m.bodyLen then (s, g, .short)
        else (match s.ingestBatch camp strict encs fs g m rows compressed nulls bufs with
          | .error e => (s, g, .error e)
          | .ok (s, g) => State.ingestMsgs camp strict encs tab l (left - m.metaLen - m.bodyLen) s g)
      | _, _ => (s, g, .error (.status stSchemaFault))

/-! ### INGEST -/

/-- The options header (R367): its length and the encodings; none: an RZ bit is set, or a value is reserved. -/
def ingestOptions (b : Bytes) : Option (Nat × List Nat) :=
  let n := word32 b 0
  let hl := 8 + (n + 7) / 8 * 8
  let opts := ((b.drop 8).take n).map BitVec.toNat
  if 1024 < n || word32 b 1 != 0 || opts.any (fun o => decide (3 < o) || o == 1) || ((b.take hl).drop (8 + n)).any (· != 0) then none
  else some (hl, opts)

/-- Count what an INGEST dropped (Table 12-2). -/
def State.countDrops (s : State) (camp : Nat) (g : Ingest) : State :=
  if g.badBatches = 0 && g.badRows = 0 then s
  else ((s.ra .SCN_DROP_BLK_malformed camp g.badBatches).ra .SCN_DROP_ROWS_batch_rows camp g.badRows).ra .ERR_COUNT_count 1 (g.badBatches + g.badRows)

/-- What a schema names as a table: none where it holds a type that no column has. -/
def tableSchema (fs : List ArrowField) : Option (List ColSchema) := fs.mapM (fun f => f.ty.map (fun t => ⟨t, f.tz, f.name⟩))

/-- Commit the batches (R234, R235, R367): the state with them and the handle to report. -/
def State.commitIngest (s : State) (camp h : Nat) (replace : Bool) (g : Ingest) (list : Nat) : Except WriteErr (State × Nat) :=
  if h = 0 then
    match tableSchema (g.fields.getD []) with
    | none => .ok (s, 0)
    | some cols => match s.newTable ⟨camp, cols, [], 0, false⟩ with
      | none => .error (.status stLimitExceeded)
      | some (s, slot, h) => (s.commitBatches slot g.out false list).map (fun s => (s, h))
  else match s.tableAt camp h with
    | none => .error (.status stTableNotFound)
    | some (slot, _) => (s.commitBatches slot g.out replace list).map (fun s => (s, h))

/-- The 16-byte report (R367). -/
def ingestReport (h batches rows : Nat) : Bytes := leBytes 4 h ++ leBytes 4 batches ++ leBytes 8 rows

/-- What an INGEST completes with: a shortfall warns, then an excess. -/
def ingestStatus (c : Cmd) (e : IngestEnd) : Nat :=
  match e with
  | .short => warnSt 0x007
  | .eos n => if 0 < n then warnSt 0x008 else c.okStatus
  | .error _ => 0

/-- Fail an INGEST: nothing is committed; what was dropped before stays counted. -/
def State.failIngest (s : State) (c : Cmd) (g : Ingest) (st : Nat) : State :=
  (s.countDrops c.camp g).failCmd { c with dropped := g.badRows } st

/-- The stream after the options header. -/
def State.ingestStream (s0 s : State) (c : Cmd) (tab : Option Table) (hl : Nat) (opts : List Nat) (msgs : List ArrowMsg) (ch : TableChoice) : State :=
  let h := c.w 9
  let (s', g, e) := State.ingestMsgs c.camp c.strict opts tab msgs (c.avail - hl) s ⟨none, [], [], 0, 0, 0, ch.blocks, ch.dicts⟩
  let e := if e == .short && g.fields.isNone && !c.strict then .error (.status stSchemaFault) else e
  match e with
  | .error .choice => s0
  | .error (.status st) => s.failIngest c g st
  | .short | .eos _ =>
    let excess := match e with | .eos n => decide (0 < n) | .short | .error _ => false
    if c.strict && e == .short then s.failIngest c g stLengthShort
    else if c.strict && excess then s.failIngest c g stLengthLong
    else match s'.commitIngest c.camp h (bits (c.w 10) 0 1 == 1) g ch.list with
      | .error .choice => s0
      | .error (.status st) => s.failIngest c g st
      | .ok (s, h) =>
        let s := (s.countDrops c.camp g).dataOut c (ingestReport h g.out.length g.rows)
        s.completeCmd { c with dropped := g.badRows } (ingestStatus c e) (min g.rows (2 ^ 32 - 1))

/-- INGEST: the options, the table, then the stream. -/
def State.doIngest (s0 : State) (c : Cmd) (data : Bytes) (msgs : List ArrowMsg) (ch : TableChoice) : State :=
  let (b, s) := s0.dataIn c data
  match ingestOptions b with
  | none => s.failCmd c stInvalidField
  | some (hl, opts) =>
    if c.w 9 != 0 && (s.tableAt c.camp (c.w 9)).isNone then s.failCmd c stTableNotFound
    else if c.avail < hl || c.avail < 8 then s.failCmd c (if c.strict then stLengthShort else stSchemaFault)
    else match s.tableAt c.camp (c.w 9) with
      | none => s0.ingestStream s c none hl opts msgs ch
      | some (slot, t) => match (if c.w 9 = 0 then none else s.listLost slot t) with
        | some s => s.failCmd c stDataLoss
        | none => s0.ingestStream s c (if c.w 9 = 0 then none else some t) hl opts msgs ch

/-- INGEST (R51 to R54, R354, R367). `data` are the bytes the host supplies from the options header on (only the header is read from them), `msgs` the stream's messages; `ch` holds
the layout the device chooses for new blocks. -/
def execIngest (r : CmdRef) (data : Bytes) (msgs : List ArrowMsg) (ch : TableChoice) (s : State) : Res :=
  s.withCmd r 0x44 (fun c => s.doIngest c data msgs ch)

end Sys2Proof.Machine
end

