-- ==== Sys2Proof/Machine/Threads.lean ====
section
/-! DEFINITION. Thread tasks on the dispatcher: tile-time, stops, waits, wakes, and the end of service invocations (R252, R268, R272, R434 to R438, R441). -/

namespace Sys2Proof.Machine

/-- An entry of a thread that runs: its die and tag. -/
def State.runningEntry (s : State) (key : Nat) : Option (Nat × Nat) :=
  match (s.uctx key).entry with
  | some (d, t) => if (s.entry d t).state == .running then some (d, t) else none
  | none => none

/-- Charge a running thread each whole microsecond it has run since it was last charged (Table 09-3). -/
def State.chargeThread (s : State) (key : Nat) : State :=
  match s.runningEntry key with
  | none => s
  | some _ =>
    let u := s.uctx key
    let n := (s.ticks - u.placed) / ticksPerUs
    if n = 0 then s
    else
      let s := s.charge u.camp 0 (1000 * n)
      s.setU key { u with placed := u.placed + ticksPerUs * n, inv := u.inv.map (fun (i : Invocation) => { i with used := i.used + 1000 * n }) }

/-- A running thread stops: its time and its measured energy, whose value is open, are settled; `f` says where its entry goes; selection follows (R277, R283). -/
def State.stopThread (s : State) (key : Nat) (f : State → Nat → Nat → Nat → State) : State :=
  match s.runningEntry key with
  | none => s
  | some (d, t) =>
    let s := s.chargeThread key
    let e := s.entry d t
    let (k, s) := s.draw
    let m := (Config.freeWord k).toNat
    let s := s.settleEnergy (e.tile / 8) e.camp 15 m
    ((f s d t m).idleIf (e.tile / 8)).dispatch

/-- A thread goes back to READY, at the tail of its Camp's queue; a preemption leaves a record (R268, R437). -/
def State.yieldThread (s : State) (key : Nat) (preempt : Option Nat) : State :=
  s.stopThread key (fun s d t _ => (match preempt with
    | some aux => s.traceEntry d t (s.entry d t) 0x0C aux
    | none => s).makeReady d t)

/-- A thread waits: its entry becomes WAITING with its operand slot clear (R436). -/
def State.parkThread (s : State) (key : Nat) : State :=
  s.stopThread key (fun s d t _ => s.setEntry d t { s.entry d t with state := .waiting, arrived := 0, since := s.ticks })

/-- A thread ends: its entry drains; the record says how: 0x03 with the energy, 0x04 with a status, 0x05 (R438, Table 09-8). -/
def State.endThread (s : State) (key reason aux : Nat) : State :=
  match (s.uctx key).entry with
  | none => s
  | some (d, t) =>
    if (s.entry d t).state == .running then
      s.stopThread key (fun s d t m => (s.traceEntry d t (s.entry d t) reason (if reason = 0x03 then m else aux)).drainEntry d t)
    else (s.traceEntry d t (s.entry d t) reason aux).drainEntry d t

/-! ### The end of an invocation (R252, R441) -/

/-- The result of an invocation goes back to an EXT_CALL: a failure without data; otherwise its data and its status, OUT_TRUNCATED before it where the data do not fit (R251, R355). -/
def State.answerCall (s : State) (c : Cmd) (status : Nat) (b : Bytes) : State :=
  if status / 2 ^ 12 = 2 then s.failCmd c status
  else if c.w 8 < b.length || status = 0 then s.varOut c b
  else (s.dataOut c b).completeCmd c status b.length

/-- The record of a timer or event invocation (R249): a timer's carries the due times skipped since its last. -/
def State.recordInvocation (s : State) (i : Invocation) (status : Nat) (b : Bytes) : State :=
  let l : List Msg := if b.isEmpty then [] else [⟨b, 0, false⟩]
  let skips := if i.kind = 1 then (mgetD ⟨0, 0⟩ i.index s.ulr.timers).skips else 0
  let r : Record := ⟨0, i.service, true, i.number, status, i.start, s.devtime, 0, skips, 0, l⟩
  let fits := decide (r.size ≤ s.storeFree i.camp)
  let s := s.addRecord i.camp r
  if fits && i.kind == 1 then { s with ulr := { s.ulr with timers := mmod i.index (fun (x : TimerRun) => { x with skips := 0 }) s.ulr.timers } } else s

/-- An invocation ends with a status: its unfinished executions are cancelled, its thread ends, its context is cleared, and its status and result are reported. -/
def State.endInvocation (s : State) (key status : Nat) (b : Bytes) : State :=
  let u := s.uctx key
  match u.inv with
  | none => s
  | some i =>
    let s := i.execs.foldl (fun (s : State) id => if mhas id s.ulr.results then s else s.failExec id stAborted) s
    let s := { s with ulr := { s.ulr with results := s.ulr.results.filter (fun r => !i.execs.contains r.1) } }
    let s := match u.awaits with
      | some (.digest k) => s.dgeRelease k
      | some (.exec _) | none => s
    let s := s.endThread key (if status = 0 then 0x03 else if status = stAborted then 0x05 else 0x04) (if status = stAborted then 0 else status)
    let s := { s with ulr := { s.ulr with ctxs := mdel key s.ulr.ctxs } }
    match i.uid with
    | some uid => (match s.cmdByUid uid with
      | some c => s.answerCall c status b
      | none => s)
    | none => s.recordInvocation i status b

/-- A cancel of an invocation takes effect at its thread's next instruction boundary that is not between a transfer and its slot (R420, R437). -/
def State.cancelInvocation (s : State) (key status : Nat) : State :=
  let u := s.uctx key
  match u.inv with
  | none => s
  | some i => if u.xfer.isSome then s.setU key { u with inv := some { i with cancelled := i.cancelled.or (some status) } } else s.endInvocation key status []

/-- What has cancelled an invocation, if anything: a cancel that waited, the end of its EXT_CALL, or the end of its Camp. -/
def State.cancelOf (s : State) (i : Invocation) : Option Nat :=
  match i.cancelled with
  | some st => some st
  | none =>
    if (match i.uid with | some uid => (s.cmdByUid uid).isNone | none => false) then some stAborted
    else match s.campState i.camp with
      | .quarantined => some stCampQuarantined
      | .teardown | .free => some stAborted
      | .active | .suspended => none

/-- End an invocation that has been cancelled. -/
def State.reap (s : State) (key : Nat) : State :=
  let u := s.uctx key
  match u.inv with
  | none => s
  | some i => match s.cancelOf i with
    | some st => if u.xfer.isSome then s else s.endInvocation key st []
    | none => s

/-- End every cancelled invocation. -/
def State.reapAll (s : State) : State := s.ulr.ctxs.foldl (fun (s : State) c => s.reap c.1) s

/-- CANCEL_NET (R262, R174, R437): on a cancelled execution, and on the threads of cancelled invocations. -/
def execCancelNet (id : Nat) (s : State) : Res := if !s.alive then .next s else .next (s.cancelNet id).reapAll

/-- DRAIN_TIMEOUT: drain_ms has expired; whatever remains is cancelled, and each command completes with ABORTED (R360 step 4). -/
def execDrainTimeout (dt : Nat) (s : State) : Res :=
  let s := s.advance dt
  if !s.alive then .next s else
  match s.host.drain with
  | none => .next s
  | some d => match d.deadline with
    | none => .next s
    | some t =>
      if s.ticks < t then .next s
      else
        let s := s.cancelAll (s.host.cmds.filter (fun c => c.uid != d.uid)) stAborted
        let s := { s with execs := mmap (fun _ e => { e with failed := e.failed.or (some stAborted), cancelled := true }) s.execs }
        .next (s.ulr.ctxs.foldl (fun (s : State) c => s.cancelInvocation c.1 stAborted) s)

/-! ### Preemption and wakes -/

/-- QUANTUM_EXPIRY (R268, R437): after `dt` ticks a running thread has used its quantum; it stops at an instruction boundary, not between a transfer and its slot. -/
def execQuantumExpiry (dt core slot : Nat) (s : State) : Res :=
  let s := s.advance dt
  let key := ctxKey core slot
  if !s.alive || 128 ≤ core || 32 ≤ slot then .next s else
  match s.runningEntry key with
  | none => .next s
  | some (d, t) =>
    if (s.uctx key).xfer.isSome || s.ticks - (s.entry d t).since < s.rg .DPT_CTL_quantum d then .next s
    else .next ((s.yieldThread key (some 0)).reap key)

/-- The running threads of a Camp that may stop now. -/
def State.campThreads (s : State) (camp : Nat) : List Nat :=
  (s.ulr.ctxs.filter (fun c => c.2.camp == camp && c.2.xfer.isNone && (s.runningEntry c.1).isSome)).map (·.1)

/-- RATION_EXHAUSTED (R272, R437, Table 09-3): after `dt` ticks running threads have been charged; the exhaustion of tile-time stops them. That a Camp's exhausted component withholds
its tasks, descriptors and blocks is in eligibility, the DMA engine and the Digest Engines. -/
def execRationExhausted (dt camp k : Nat) (s : State) : Res :=
  let s := s.advance dt
  if !s.alive || 1024 ≤ camp || 6 ≤ k then .next s else
  let ts := s.campThreads camp
  let s := ts.foldl State.chargeThread s
  if k != 0 || !s.isExhausted camp 0 then .next s
  else .next (ts.foldl (fun (s : State) key => s.yieldThread key (some 1)) s)

/-- The context of a thread's entry. -/
def State.threadOf (s : State) (d t : Nat) : Option Nat :=
  match (s.entry d t).body with
  | .thread core slot => if (s.uctx (ctxKey core slot)).entry == some (d, t) then some (ctxKey core slot) else none
  | _ => none

/-- Does an entry take event tokens of an epoch and Camp: a WAITING thread that waits for an event (R398, R436)? -/
def State.takesEvent (s : State) (d t epoch camp : Nat) : Bool :=
  let e := s.entry d t
  e.thread && e.state == .waiting && e.epoch == epoch && e.camp == camp && s.accepts camp &&
  (match s.threadOf d t with | some key => (s.uctx key).awaits.isNone | none => false)

/-- THREAD_EVENT_TOKEN (R398, R436, R260): the token of a source reaches its die's store: accepted, it makes the thread's entry READY and leaves the source in ULR_EVSRC; stale, it is
dropped. Either way in_service clears. -/
def execThreadEventToken (n : Nat) (s : State) : Res :=
  if !s.alive then .next s else
  match s.io.tokens.find? (fun t => t.source == n) with
  | none => .next s
  | some k =>
    let s := { s with io := { s.io with tokens := s.io.tokens.filter (fun t => t.source != n) } }
    let s := s.rs .EVR_SRC_in_service n 0
    if s.takesEvent k.die k.tag k.epoch k.camp then
      match s.threadOf k.die k.tag with
      | none => .next s
      | some key =>
        let u := s.uctx key
        let s := s.setU key (u.setCreg crEvsrc (n + 512))
        let s := s.ra .ULR_STAT_requests (key / 32) 1
        let s := s.setEntry k.die k.tag { s.entry k.die k.tag with arrived := 1 }
        .next (s.makeReady k.die k.tag).dispatch
    else
      let s := s.ra .DPT_STALE_TOKENS_count k.die 1
      .next (s.traceRoot k.die ⟨k.tag, k.epoch, k.camp, 0, 0, 0, 0x0A, 0, k.epoch, 0⟩)

/-! ### DGE_DONE (R482, R483, R368, R480) -/

/-- ECALL DIGEST's last step is done: the digest goes to the thread's output, or the outcome into G2; the context is released and the thread goes on. -/
def State.digestThread (s : State) (key k : Nat) : State :=
  let x := s.dctx k
  let u := s.uctx key
  let b := x.result
  let (st, g2, s) : Nat × Nat × State :=
    if s.rg .DGE_CTL_dest k = 2 then
      let hit := x.expected b.length == some b
      (0, if hit then 1 else 2, if hit then s else s.ra .DGE_ENGSTAT_mismatches (k / 16) 1)
    else match s.ecallWrite (key / 32) u (u.greg 5).toNat b with
      | .ok s => (0, 0, s)
      | .error st => (st, 0, s)
  let s := s.dgeRelease k
  let u := { ((s.uctx key).setG 1 (BitVec.ofNat 36 st)).setG 2 (BitVec.ofNat 36 g2) with awaits := none }
  (s.setU key u).wakeThread u

/-- DGE_DONE: a context's last block is done; its result goes where its owner wants it. -/
def execDgeDone (e c : Nat) (s : State) : Res :=
  let k := 16 * e + c
  if !s.alive || 17 ≤ e || 16 ≤ c || s.rg .DGE_STAT_state k != 2 || (s.dctx k).result.isEmpty then .next s
  else match (s.dctx k).owner with
    | .regs => .next (s.dgeDeliver k)
    | .command _ => (match s.host.cmds.find? (fun d => d.wait == .digest k) with
      | some d => .next (s.digestDone k d)
      | none => .next (s.dgeRelease k))
    | .thread core slot =>
      let key := ctxKey core slot
      if (s.uctx key).awaits == some (.digest k) then .next (s.digestThread key k) else .next (s.dgeRelease k)

end Sys2Proof.Machine
end

