-- ==== Sys2Proof/Machine/Services.lean ====
section
/-! DEFINITION. Owner extension services: EXT_CALL, service timers and events, tile-time limits (R248 to R252, R398, R439, R440). -/

namespace Sys2Proof.Machine

/-- Permissions of an extension's apertures 0 to 5 (Table 14-6), as bits r, w, x. -/
def extPerms : List Nat := [5, 1, 3, 3, 1, 3]

/-- May aperture n of an invocation have this limit register (R439, Table 14-6)? -/
def extApertureOk (n l units : Nat) : Bool :=
  let perm := bits l 16 3
  bits l 20 1 == 0 && n != 0 && n != 3 && n != 4 && n != 5 ||
  (bits l 20 1 == 1 && bits l 19 1 == 0 && rz l 21 15 && decide (bits l 0 16 ≤ 32768) &&
    (match extPerms[n]? with
     | some p => perm == p
     | none => !(bits perm 1 1 == 1 && bits perm 2 1 == 1)) &&
    (n != 4 || bits l 0 16 == units) && (n != 5 || bits l 0 16 == 1))

/-- Thread slots of a core that an extension may use. -/
def State.svcSlots (s : State) (x : ExtRec) (core : Nat) : List Nat :=
  (List.range 32).filter (fun k => bits (s.rg .ULR_CORE_CTL_svc_slots core) k 1 == 1 && bits x.slots k 1 == 1)

/-- Has an extension a free thread slot? -/
def State.slotFree (s : State) (x : ExtRec) : Bool :=
  (List.range 128).any (fun c => (s.svcSlots x c).any (fun k => !mhas (ctxKey c k) s.ulr.ctxs))

/-- Has a Camp room for one more entry on a die? -/
def State.entryRoom (s : State) (d camp : Nat) : Bool := decide (s.entryCount d camp < 64 * s.rg .CPM_STATE_mse_allot camp)

/-- Could an invocation start now (R251, R257): a slot, an execution context, an entry? -/
def State.svcRoom (s : State) (x : ExtRec) (camp : Nat) : Bool :=
  s.slotFree x && decide (s.contexts < 8192) && (s.entryRoom 0 camp || s.entryRoom 1 camp)

/-- Is firmware's choice one the manual allows? -/
def State.envOk (s : State) (x : ExtRec) (camp : Nat) (v : SvcEnv) (units : Nat) : Bool :=
  decide (v.core < 128) && (s.svcSlots x v.core).contains v.slot && !mhas (ctxKey v.core v.slot) s.ulr.ctxs && decide (v.tag < 65536) &&
  (s.entry (v.core / 64) v.tag).state == .free && s.entryRoom (v.core / 64) camp && v.aptl.length == 16 && v.aptb.length == 16 &&
  (List.range 16).all (fun n => extApertureOk n (v.aptl.getD n 0) units) && v.aptb.all (fun b => decide (b < 2 ^ 29)) && decide (1 ≤ v.rslim) && decide (v.rslim ≤ 4096)

/-- The control registers of an invocation at entry (R439): level X, the data stack at the top of aperture 3. -/
def SvcEnv.crs (v : SvcEnv) : Map UWord :=
  let top := 3 * 2 ^ 32 + 131072 * bits (v.aptl.getD 3 0) 0 16
  let l : List (Nat × Nat) := [(crStatus, 1), (crEvec, v.evec), (crDsp, top), (crDslim, 3 * 2 ^ 32), (crRslim, v.rslim)] ++
    v.aptb.zipIdx.map (fun q => (crAptb + q.2, q.1)) ++ v.aptl.zipIdx.map (fun q => (crAptl + q.2, q.1))
  l.foldl (fun (m : Map UWord) p => mputD 0 p.1 (BitVec.ofNat 36 p.2) m) []

/-- The general registers of an invocation at entry (R440). -/
def entryRegs (caller args kind service index : Nat) : Map UWord :=
  [(1, caller), (2, 4 * 2 ^ 32), (3, args), (4, 5 * 2 ^ 32), (5, kind), (6, service), (7, index)].foldl
    (fun (m : Map UWord) p => mputD 0 p.1 (BitVec.ofNat 36 p.2) m) []

/-- An invocation to start: its service Camp and extension, caller, EXT_CALL, kind, service, index and arguments. -/
structure Call where
  camp : Nat
  ext : ExtRec
  caller : Nat
  uid : Option Nat
  kind : Nat
  service : Nat
  index : Nat
  args : Bytes
  deriving DecidableEq, Repr

/-- Start an invocation (R249, R251, R439, R440): its arguments are copied into the service Camp, and a thread task of class 15 at the Camp's priority ceiling becomes READY. None where
firmware's choice is not one it could make. -/
def State.startCall (s : State) (q : Call) (v : SvcEnv) (entry : Nat) : Option State :=
  if !s.envOk q.ext q.camp v (units64k q.args.length) then none
  else
    let key := ctxKey v.core v.slot
    let d := v.core / 64
    let nkey := q.camp * 64 + q.service
    let number := mgetD 0 nkey s.ulr.numbers
    match (if q.args.isEmpty then (s, none) else s.viewPut 16 q.camp (131072 * v.aptb.getD 4 0) q.args) with
    | (_, some _) => none
    | (s, none) =>
      let i : Invocation := ⟨q.camp, q.uid, q.kind, q.service, q.index, number, q.ext.limit, 0, s.devtime, 0, false, [], none⟩
      let u : UCtx := { UCtx.empty with
        camp := q.camp, g := entryRegs q.caller q.args.length q.kind q.service q.index, cr := v.crs, pos := ⟨entry, false⟩, entry := some (d, v.tag), inv := some i }
      let e : Entry := { Entry.fresh with
        state := .waiting, epoch := (s.entry d v.tag).epoch, priority := s.rg .CPM_STATE_prio_ceiling q.camp, taskClass := 15, camp := q.camp, arrived := 1,
        thread := true, since := s.ticks, body := .thread v.core v.slot, place := .tile v.core, tile := v.core }
      let s := { s with ulr := { s.ulr with ctxs := mput key u s.ulr.ctxs, numbers := mput nkey (number + 1) s.ulr.numbers } }
      some ((s.setEntry d v.tag e).makeReady d v.tag).dispatch

/-! ### EXT_CALL (R251) -/

/-- The extension record of a service Camp. -/
def State.extOf (s : State) (camp : Nat) : Option ExtRec :=
  if !s.isService camp || s.campState camp == .free || s.campState camp == .teardown then none
  else match (mget camp s.camps).bind (·.ext) with
    | none => none
    | some x => s.trust.cfg.exts.find? (fun r => r.index == x)

/-- Does the grant list pair a caller with a service (R251)? -/
def State.granted (s : State) (x : ExtRec) (service caller : Nat) : Bool :=
  s.trust.cfg.grants.any (fun g => g.ext == x.index && bits g.services service 1 == 1 && decide (g.lo ≤ caller) && decide (caller ≤ g.hi) &&
    bits g.classes (s.rg .CCH_CAMPCLASS_class caller) 1 == 1)

/-- EXT_CALL: length, grant, state of the service Camp, room; then the invocation. -/
def State.doExtCall (s0 : State) (c : Cmd) (data : Bytes) (v : SvcEnv) : State :=
  let (b, s) := s0.dataIn c data
  let camp := bits (c.w 9) 0 10
  let service := bits (c.w 9) 10 6
  if 4096 < c.w 4 then s.failCmd c stInvalidField
  else match wholeLen c (c.w 4) with
    | .error st => s.failCmd c st
    | .ok c => match s.extOf camp with
      | none => s.failCmd c stExtDenied
      | some x => match (if s.granted x service c.camp then v.entry else none) with
        | none => s.failCmd c stExtDenied
        | some entry =>
          if s.campState camp == .quarantined then s.failCmd c stExtFault
          else if !s.svcRoom x camp then s.failCmd c stBusy
          else match s.startCall ⟨camp, x, c.camp, some c.uid, 0, service, 0, b⟩ v entry with
            | none => s0
            | some s => s.modCmd c.uid (fun d => { d with wait := .thread v.core v.slot, long := c.long })

/-- EXT_CALL; `v` is what firmware chooses for the invocation. -/
def execExtCall (r : CmdRef) (data : Bytes) (v : SvcEnv) (s : State) : Res := s.withCmd r 0x48 (fun c => s.doExtCall c data v)

/-! ### Timers (R249, R243) -/

/-- May a service's timer or event start an invocation now (R243, R249, R360)? -/
def State.mayInvoke (s : State) (camp : Nat) : Bool :=
  (s.mode == .service || s.mode == .detached) && s.host.drain.isNone && s.campState camp == .active

/-- The service Camp of an extension. -/
def State.campOfExt (s : State) (ext : Nat) : Option Nat :=
  (s.camps.find? (fun c => c.2.ext == some ext && s.isService c.1)).map (·.1)

/-- Replace a timer's run. -/
def State.setTimer (s : State) (n : Nat) (x : TimerRun) : State := { s with ulr := { s.ulr with timers := mput n x s.ulr.timers } }

/-- Is an invocation of a timer in progress? -/
def State.timerBusy (s : State) (camp n : Nat) : Bool :=
  s.ulr.ctxs.any (fun c => match c.2.inv with | some i => i.kind == 1 && i.camp == camp && i.index == n | none => false)

/-- The invocation of a timer at a due time; a service that the extension does not have leaves a record. -/
def State.startTimer (s : State) (n camp : Nat) (x : ExtRec) (t : TimerRec) (v : SvcEnv) : Option State :=
  match v.entry with
  | none => some (s.recordInvocation ⟨camp, none, 1, t.service, n, 0, 0, 0, s.devtime, 0, false, [], none⟩ stExtDenied [])
  | some entry => s.startCall ⟨camp, x, camp, none, 1, t.service, n, []⟩ v entry

/-- SERVICE_TIMER_DUE (R249, R243): after `dt` ticks due times of timer record n have come; the latest invokes its service if it is no more than 100 µs past and nothing forbids it;
every other is skipped and counted. -/
def execServiceTimerDue (dt n : Nat) (v : SvcEnv) (s : State) : Res :=
  let s := s.advance dt
  if !s.alive then .next s else
  match s.trust.cfg.timers[n]? with
  | none => .next s
  | some t => match s.campOfExt t.ext with
    | none => .next s
    | some camp => match s.extOf camp with
      | none => .next s
      | some x =>
        let r := mgetD (⟨0, 0⟩ : TimerRun) n s.ulr.timers
        let now := s.devtime.toNat
        let start := s.ulr.bootTime.toNat + t.start
        if now < start + r.next * t.interval then .next s
        else
          let past := if t.interval = 0 then 1 else (now - start) / t.interval + 1
          let upto := if t.runs = 0 then past else min past t.runs
          if upto ≤ r.next then .next s
          else
            let k := upto - 1
            let skip := s.setTimer n ⟨upto, r.skips + (upto - r.next)⟩
            if now ≤ start + k * t.interval + 100000 && s.mayInvoke camp && !s.timerBusy camp n && s.svcRoom x camp then
              match (s.setTimer n ⟨upto, r.skips + (k - r.next)⟩).startTimer n camp x t v with
              | some s => .next s
              | none => .next s
            else .next skip

/-- EXT_TIMEOUT (R252): after `dt` ticks an invocation has used more tile-time than its limit; its thread is stopped at its next boundary, and it completes with EXT_TIMEOUT. -/
def execExtTimeout (dt core slot : Nat) (s : State) : Res :=
  let s := s.advance dt
  let key := ctxKey core slot
  if !s.alive || 128 ≤ core || 32 ≤ slot then .next s else
  let s := s.chargeThread key
  match (s.uctx key).inv with
  | some i => if i.limit < i.used then .next (s.cancelInvocation key stExtTimeout) else .next s
  | none => .next s

/-! ### Events (R249, R393 to R398) -/

/-- Is a thread target of a source valid (R393, R436)? -/
def State.threadTarget (s : State) (n : Nat) : Bool :=
  let v := s.rg .EVR_VEC_handler n
  s.takesEvent (bits v 20 1) (bits v 0 16) (bits v 16 4) (s.rg .EVR_SRC_camp n) &&
  !s.io.tokens.any (fun t => t.die == bits v 20 1 && t.tag == bits v 0 16)

/-- The delivery of a source that the configuration image assigns to a service (R249): it invokes the service; in_service clears with that. -/
def State.invokeEvent (s : State) (r : EventRec) (v : SvcEnv) : State :=
  match s.campOfExt r.ext with
  | none => s
  | some camp => match s.extOf camp, v.entry with
    | some x, some entry =>
      if !s.mayInvoke camp || !s.svcRoom x camp then s
      else match s.startCall ⟨camp, x, camp, none, 2, r.service, r.source, []⟩ v entry with
        | none => s
        | some t => (t.commitSrc r.source).rs .EVR_SRC_in_service r.source 0
    | _, _ => s

/-- EVENT_DELIVERY_COMMIT (R393 to R395, R398, R249): `target` below 4 names a core in vectored mode, which takes its selected source when it has no committed request; otherwise it is 4 +
a source, which invokes the service that the configuration image assigns it to, or sends an event token to its thread's die. -/
def execEventDeliveryCommit (target : Nat) (v : SvcEnv) (s : State) : Res :=
  if !s.alive then .next s
  else if target < 4 then .next (s.commitCore target)
  else
    let n := target - 4
    if 512 ≤ n || !s.srcReady n then .next s
    else match s.trust.cfg.events.find? (fun e => e.source == n) with
      | some r => .next (s.invokeEvent r v)
      | none =>
        if s.rg .EVR_SRC_target n != 4 || !s.threadTarget n then .next s
        else
          let w := s.rg .EVR_VEC_handler n
          let tok : EventToken := ⟨n, bits w 20 1, bits w 0 16, bits w 16 4, s.rg .EVR_SRC_camp n⟩
          let s := s.commitSrc n
          .next { s with io := { s.io with tokens := s.io.tokens ++ [tok] } }

end Sys2Proof.Machine
end

