-- ==== Sys2Proof/Machine/Spdm.lean ====
section
/-! DEFINITION. The SPDM responder, IDE key management and DOE discovery (R470 to R473, R316). Message codes and error codes are those of the published
SPDM format, which the manual names; response bodies it does not state are free. -/

namespace Sys2Proof.Machine

/-- A response: version, code and two parameters. -/
def spdmHead (ver code p1 p2 : Nat) : Bytes := leBytes 1 ver ++ leBytes 1 code ++ leBytes 1 p1 ++ leBytes 1 p2

/-- An ERROR response. -/
def spdmError (ver e : Nat) : Bytes := spdmHead ver 0x7F e 0

/-- Error codes: InvalidRequest, Busy, UnexpectedRequest, DecryptError, UnsupportedRequest, SessionLimitExceeded, VersionMismatch. -/
def eInvalid : Nat := 0x01
def eBusy : Nat := 0x03
def eUnexpected : Nat := 0x04
def eDecrypt : Nat := 0x06
def eUnsupported : Nat := 0x07
def eSessionLimit : Nat := 0x0A
def eVersion : Nat := 0x41

/-- A transport's connection. -/
def State.conn (s : State) (p : SpdmPath) : SpdmConn := (s.trust.conns.find? (fun c => c.path == p)).getD ⟨p, .start, 0x10, [], none⟩

/-- Replace a transport's connection. -/
def State.setConn (s : State) (c : SpdmConn) : State :=
  { s with trust := { s.trust with conns := s.trust.conns.filter (fun x => x.path != c.path) ++ [c] } }

/-- Certificate slots in use: 0, and 1 with an owner chain (Table 15-13). -/
def State.certSlots (s : State) : List Nat := if s.trust.cfg.ownerCert.isEmpty then [0] else [0, 1]

/-- A body the manual leaves to the SPDM format. -/
def State.openBody (s : State) (code session : Nat) : Bytes × State :=
  let (k, s) := s.draw
  (Config.spdmBody code session k, s)

/-- A signature with the alias key over a transcript (R460, R471). -/
def State.aliasSign (s : State) (t : Bytes) : Bytes × State :=
  let (k, s) := s.draw
  let g := ecdsaSign s.trust.aliasKey (sha .sha384 t) k
  (bslice g.1 0 48 ++ bslice g.2 0 48, s)

/-! ### Measurements (R461, R471) -/

/-- The measurement indices served, ascending (Table 15-8). -/
def State.measIndices (s : State) : List Nat :=
  [1, 2, 3, 4, 5, 6, 7] ++ (((List.range 16).filter (fun x => s.trust.exts.any (fun e => e.index == x))).map (· + 16))

/-- The Cairn entry of an index. -/
def State.cairnOf (s : State) (i : Nat) : Option Bytes := s.trust.cairn.find? (fun e => bits (word32 e 1) 0 8 == i)

/-- A measurement's value (Table 15-8): the device state record, a digest, BOT_EVENTS as it reads now, or the sealed log. -/
def State.measValue (s : State) (i : Nat) : Bytes :=
  if i = 1 then (s.cairnOf 1).elim [] (fun e => bslice e 80 32)
  else if i = 6 then leBytes 1 (bits (s.regs.raw .BOT_EVENTS 0).toNat 0 8)
  else if i = 7 then s.trust.log
  else (s.cairnOf i).elim [] (fun e => bslice e 32 48)

/-- The DMTF type byte of a measurement (Table 15-8 gives the types in words; their codes are the published format's, PRESUMED, log 21; for indices 6 and 7
the table gives only that the value is a raw bit stream). -/
def dmtfType (i : Nat) : Byte :=
  if i = 1 then 0x82 else if i = 5 then 0x03 else if i = 6 ∨ i = 7 then 0x80 ||| (Config.dmtfType i &&& 0x7F) else 0x01

/-- A measurement block: index, DMTF specification, size, type, value size and value. -/
def State.measBlock (s : State) (i : Nat) : Bytes :=
  let v := s.measValue i
  leBytes 1 i ++ [1] ++ leBytes 2 (v.length + 3) ++ [dmtfType i] ++ leBytes 2 v.length ++ v

/-- GET_MEASUREMENTS: index 0 the count, 0xFF all in ascending order, otherwise one; a requested signature covers the transcript, the requester's nonce
with it. -/
def State.spdmMeas (s : State) (c : SpdmConn) (msg : Bytes) : Bytes × State :=
  let p1 := (msg.getD 2 0).toNat
  let idx := (msg.getD 3 0).toNat
  let signed := p1 % 2 = 1
  let slot := if signed then (msg.getD 36 0).toNat % 16 else 0
  let all := s.measIndices
  if (idx != 0 && idx != 0xFF && !all.contains idx) || (signed && (msg.length < 37 || !s.certSlots.contains slot)) then
    (spdmError c.version eInvalid, s)
  else
    let which := if idx = 0 then [] else if idx = 0xFF then all else [idx]
    let blocks := which.flatMap s.measBlock
    let (k, s) := s.draw
    let body := spdmHead c.version 0x60 (if idx = 0 then all.length else 0) slot ++ leBytes 1 which.length ++ leBytes 3 blocks.length ++ blocks ++
      freshBytes k 32 ++ leBytes 2 0
    let t := c.transcript ++ msg ++ body
    if signed then
      let (g, s) := s.aliasSign t
      (body ++ g, s.setConn { c with transcript := [] })
    else (body, s.setConn { c with transcript := t })

/-! ### Sessions (R472) -/

/-- A free one of sessions 0 to 3. -/
def State.freeSession (s : State) : Option Nat := (List.range 4).find? (fun k => !s.trust.sessions.any (fun x => x.slot == k))

/-- End a session: its keys are discarded. -/
def State.endSession (s : State) (id : Nat) : State :=
  match s.trust.sessions.find? (fun x => x.id == id) with
  | none => s
  | some x => { s with trust := { s.trust with sessions := s.trust.sessions.filter (fun y => y.id != id) } }.clearRootSlot (3 + x.slot)

/-- Change a session. -/
def State.modSession (s : State) (id : Nat) (f : Session → Session) : State :=
  { s with trust := { s.trust with sessions := s.trust.sessions.map (fun x => if x.id == id then f x else x) } }

/-- KEY_EXCHANGE: at most 4 sessions over both transports (Table 15-13). The session ID is the requester's half and one of the device's own. -/
def State.spdmKeyExchange (s : State) (c : SpdmConn) (msg : Bytes) : Bytes × State :=
  let slot := (msg.getD 3 0).toNat % 16
  if !s.certSlots.contains slot then (spdmError c.version eInvalid, s) else
  match s.freeSession with
  | none => (spdmError c.version eSessionLimit, s)
  | some k =>
    let (d, s) := s.draw
    let rsp := (Config.freeWord d).toNat % 65536
    let id := leNat (bslice msg 4 2) + 65536 * rsp
    let secret := bslice (Config.spdmExportSecret d) 0 48
    let x : Session := ⟨id, c.path, false, secret, 0, 0, k⟩
    let s : State := { s with trust := { s.trust with sessions := s.trust.sessions ++ [x] } }
    let s := s.rootSlot (3 + k) secret
    let (b, s) := s.openBody 0xE4 id
    let body := spdmHead c.version 0x64 0 0 ++ leBytes 2 rsp ++ b
    let (g, s) := s.aliasSign (c.transcript ++ msg ++ body)
    (body ++ g, s)

/-- VENDOR_DEFINED_REQUEST (R467): StandardID PCI-SIG, Vendor ID 0x1BE7 and an SVN_RAISE block inside a secure session; the response carries a status
word. Everything else of the kind is unsupported, IDE_KM over SECURITY_SEND among it (R473). -/
def State.spdmVendor (s : State) (c : SpdmConn) (sess : Option Nat) (msg : Bytes) : Bytes × State :=
  let std := leNat (bslice msg 4 2)
  let vlen := (msg.getD 6 0).toNat
  let vid := leNat (bslice msg 7 2)
  let n := leNat (bslice msg 9 2)
  if sess.isSome && std = 3 && vlen = 2 && vid = 0x1BE7 then
    let (st, s) := s.svnRaise ((msg.drop 11).take n)
    (spdmHead c.version 0x7E 0 0 ++ leBytes 2 3 ++ [2] ++ leBytes 2 0x1BE7 ++ leBytes 2 2 ++ leBytes 2 st, s)
  else (spdmError c.version eUnsupported, s)

/-- The responder's answer to one request on a transport, in a session or outside (R470, Table 15-13). -/
def State.spdmAnswer (s : State) (p : SpdmPath) (sess : Option Nat) (msg : Bytes) : Bytes × State :=
  let c := s.conn p
  let code := (msg.getD 1 0).toNat
  let ver := (msg.getD 0 0).toNat
  let slot := (msg.getD 2 0).toNat % 16
  if s.rg .BOT_STATUS_sealed 0 = 0 then (spdmError c.version eBusy, s)
  else match code with
  | 0x84 =>
    let r := spdmHead 0x10 0x04 0 0 ++ [0, 2, 0x00, 0x12, 0x00, 0x13]
    (r, s.setConn { c with stage := .version, version := 0x10, transcript := msg ++ r })
  | 0xE1 =>
    if c.stage == .start then (spdmError c.version eUnexpected, s)
    else if ver != 0x12 && ver != 0x13 then (spdmError c.version eVersion, s)
    else
      let (b, s) := s.openBody 0xE1 0
      let r := spdmHead ver 0x61 0 0 ++ b
      (r, s.setConn { c with stage := .capabilities, version := ver, transcript := c.transcript ++ msg ++ r })
  | 0xE3 =>
    if c.stage != .capabilities then (spdmError c.version eUnexpected, s)
    else
      let (b, s) := s.openBody 0xE3 0
      let r := spdmHead c.version 0x63 0 0 ++ b
      (r, s.setConn { c with stage := .negotiated, transcript := c.transcript ++ msg ++ r })
  | 0x81 => if c.stage != .negotiated then (spdmError c.version eUnexpected, s) else
      let (b, s) := s.openBody 0x81 0
      (spdmHead c.version 0x01 0 (if s.certSlots.length = 2 then 3 else 1) ++ b, s)
  | 0x82 => if c.stage != .negotiated then (spdmError c.version eUnexpected, s)
    else if !s.certSlots.contains slot then (spdmError c.version eInvalid, s) else
      let (b, s) := s.openBody 0x82 slot
      (spdmHead c.version 0x02 slot 0 ++ b, s)
  | 0x83 => if c.stage != .negotiated then (spdmError c.version eUnexpected, s)
    else if !s.certSlots.contains slot then (spdmError c.version eInvalid, s) else
      let (b, s) := s.openBody 0x83 slot
      let body := spdmHead c.version 0x03 slot 0 ++ b
      let (g, s) := s.aliasSign (c.transcript ++ msg ++ body)
      (body ++ g, s)
  | 0xE0 => if c.stage != .negotiated then (spdmError c.version eUnexpected, s) else s.spdmMeas c msg
  | 0xE4 => if c.stage != .negotiated || sess.isSome then (spdmError c.version eUnexpected, s) else s.spdmKeyExchange c msg
  | 0xE5 => match sess.bind (fun id => s.trust.sessions.find? (fun x => x.id == id)) with
    | some x =>
      if x.established then (spdmError c.version eUnexpected, s)
      else if Config.spdmFinishOk x.secret msg then
        (spdmHead c.version 0x65 0 0, s.modSession x.id (fun y => { y with established := true }))
      else (spdmError c.version eDecrypt, s)
    | none => (spdmError c.version eUnexpected, s)
  | 0xE8 => match sess with
    | some _ => (spdmHead c.version 0x68 0 0, s)
    | none => (spdmError c.version eUnexpected, s)
  | 0xE9 => match sess with
    | some id => (spdmHead c.version 0x69 slot (msg.getD 3 0).toNat, s.modSession id (fun y => { y with received := 0, sent := 0 }))
    | none => (spdmError c.version eUnexpected, s)
  | 0xEC => match sess with
    | some id => (spdmHead c.version 0x6C 0 0, s.endSession id)
    | none => (spdmError c.version eUnexpected, s)
  | 0xFE => if c.stage != .negotiated then (spdmError c.version eUnexpected, s) else s.spdmVendor c sess msg
  | _ => (spdmError c.version eUnsupported, s)

/-- May a request use the session it names: one of its own transport (R470), established but for FINISH? -/
def State.sessionOk (s : State) (p : SpdmPath) (sess : Option Nat) (code : Nat) : Bool :=
  match sess with
  | none => true
  | some id => s.trust.sessions.any (fun x => x.id == id && x.path == p && (x.established || code == 0xE5))

/-- Does the DOE mailbox answer: the link up and the PF ready (R316, R319)? -/
def State.doeOk (s : State) : Bool := s.alive && s.host.link.up && decide (s.host.link.readyAt ≤ s.ticks)

/-- A request with one of the codes given, on the DOE mailbox. A request on a session that is not there is not answered. -/
def State.doeRequest (s : State) (codeOk : Nat → Bool) (sess : Option Nat) (msg : Bytes) : Res :=
  let code := (msg.getD 1 0).toNat
  if !s.doeOk || !codeOk code || !s.sessionOk .doe sess code then .next s
  else
    let s := match sess with
      | some id => s.modSession id (fun x => { x with received := x.received + 1, sent := x.sent + 1 })
      | none => s
    let (b, s) := s.spdmAnswer .doe sess msg
    .next (s.emit (.spdm .doe b))

/-- GET_VERSION (R470). -/
def execGetVersion (sess : Option Nat) (m : Bytes) (s : State) : Res := s.doeRequest (· == 0x84) sess m
/-- GET_CAPABILITIES (R470). -/
def execGetCapabilities (sess : Option Nat) (m : Bytes) (s : State) : Res := s.doeRequest (· == 0xE1) sess m
/-- NEGOTIATE_ALGORITHMS (R470). -/
def execNegotiateAlgorithms (sess : Option Nat) (m : Bytes) (s : State) : Res := s.doeRequest (· == 0xE3) sess m
/-- GET_DIGESTS (R470). -/
def execGetDigests (sess : Option Nat) (m : Bytes) (s : State) : Res := s.doeRequest (· == 0x81) sess m
/-- GET_CERTIFICATE (R470). -/
def execGetCertificate (sess : Option Nat) (m : Bytes) (s : State) : Res := s.doeRequest (· == 0x82) sess m
/-- CHALLENGE (R470). -/
def execChallenge (sess : Option Nat) (m : Bytes) (s : State) : Res := s.doeRequest (· == 0x83) sess m
/-- GET_MEASUREMENTS (R471). -/
def execGetMeasurements (sess : Option Nat) (m : Bytes) (s : State) : Res := s.doeRequest (· == 0xE0) sess m
/-- KEY_EXCHANGE (R470). -/
def execKeyExchange (sess : Option Nat) (m : Bytes) (s : State) : Res := s.doeRequest (· == 0xE4) sess m
/-- FINISH (R470). -/
def execFinish (sess : Option Nat) (m : Bytes) (s : State) : Res := s.doeRequest (· == 0xE5) sess m
/-- HEARTBEAT (R470). -/
def execHeartbeat (sess : Option Nat) (m : Bytes) (s : State) : Res := s.doeRequest (· == 0xE8) sess m
/-- KEY_UPDATE (R470). -/
def execKeyUpdate (sess : Option Nat) (m : Bytes) (s : State) : Res := s.doeRequest (· == 0xE9) sess m
/-- END_SESSION (R472). -/
def execEndSession (sess : Option Nat) (m : Bytes) (s : State) : Res := s.doeRequest (· == 0xEC) sess m
/-- SVN_RAISE: the owner's block as a VENDOR_DEFINED_REQUEST inside a secure session (R467). -/
def execSvnRaise (sess : Option Nat) (m : Bytes) (s : State) : Res := s.doeRequest (· == 0xFE) sess m

/-- The request codes the responder supports (Table 15-13). -/
def spdmSupported : List Nat := [0x84, 0xE1, 0xE3, 0x81, 0x82, 0x83, 0xE0, 0xE4, 0xE5, 0xE8, 0xE9, 0xEC, 0xFE]

/-- UNSUPPORTED_SPDM_REQUEST: every other request gives ERROR UnsupportedRequest (R470). -/
def execUnsupportedSpdmRequest (sess : Option Nat) (m : Bytes) (s : State) : Res := s.doeRequest (fun c => !spdmSupported.contains c) sess m

/-- DOE_DISCOVERY: the mailbox's protocols in turn: DOE Discovery, CMA/SPDM, Secured CMA/SPDM (R316). -/
def execDoeDiscovery (i : Nat) (s : State) : Res :=
  if !s.doeOk then .next s
  else if i < 3 then .next (s.emit (.doe [0x01, 0x00, BitVec.ofNat 8 i, BitVec.ofNat 8 ((i + 1) % 3)]))
  else .next (s.emit (.doe [0xFF, 0xFF, 0, 0]))

/-! ### IDE key management (R473) -/

/-- The selective streams after an IDE_KM message: at most 4; a key set goes when all six of its keys are programmed. -/
def ideApply (l : List IdeStream) (m : IdeMsg) : List IdeStream :=
  match m with
  | .query => l
  | .keyProg st set sub key =>
    if 2 ≤ set || 6 ≤ sub then l
    else if l.any (fun i => i.id == st) then
      l.map (fun i => if i.id == st then { i with keys := mput (8 * set + sub) key i.keys } else i)
    else if l.length < 4 then l ++ [⟨st, false, 0, [(8 * set + sub, key)]⟩] else l
  | .setGo st set =>
    l.map (fun i => if i.id == st && decide (set < 2) && (List.range 6).all (fun k => mhas (8 * set + k) i.keys) then
      { i with secure := true, keySet := set } else i)
  | .setStop st => l.filter (fun i => i.id != st)

/-- IDE_KM over Secured CMA/SPDM on the DOE mailbox (R473). -/
def execIdeKm (sess : Nat) (m : IdeMsg) (s : State) : Res :=
  if !s.doeOk || s.rg .BOT_STATUS_sealed 0 = 0 || !s.sessionOk .doe (some sess) 0xFE then .next s
  else
    let l := ideApply s.host.link.ide m
    let s := { s with host := { s.host with link := { s.host.link with ide := l } } }
    let s := s.rs .HIF_LINK_ide_streams 0 (l.filter (·.secure)).length
    let s := s.modSession sess (fun x => { x with received := x.received + 1, sent := x.sent + 1 })
    let (b, s) := s.openBody 0xFE sess
    .next (s.emit (.spdm .doe (spdmHead (s.conn .doe).version 0x7E 0 0 ++ b)))

/-! ### SECURITY_SEND and SECURITY_RECV (R470) -/

/-- SECURITY_SEND: a message for the responder; protocol 2 carries a secured record, the session ID in front. -/
def State.doSecuritySend (s : State) (c : Cmd) (data : Bytes) : State :=
  let (b, s) := s.dataIn c data
  let proto := bits (c.w 1) 0 8
  if !s.trust.cfg.pol.spdmAdmin then s.failCmd c stNotPermitted
  else if proto != 1 && proto != 2 then s.failCmd c stInvalidField
  else match wholeLen c (c.w 4) with
    | .error st => s.failCmd c st
    | .ok c =>
      let cn := s.conn .command
      let reply (r : Bytes) (s : State) : State := (s.setConn { s.conn .command with response := some r }).completeCmd c c.okStatus 0
      if proto = 1 then
        let (r, s) := s.spdmAnswer .command none b
        reply r s
      else
        let id := leNat (bslice b 0 4)
        match s.trust.sessions.find? (fun x => x.id == id && x.path == .command) with
        | none => reply (spdmError cn.version eDecrypt) s
        | some x => match Config.spdmOpen x.secret x.received (b.drop 4) with
          | none => reply (spdmError cn.version eDecrypt) s
          | some m =>
            let code := (m.getD 1 0).toNat
            if !s.sessionOk .command (some id) code then reply (spdmError cn.version eUnexpected) s
            else
              let s := s.modSession id (fun y => { y with received := y.received + 1, sent := y.sent + 1 })
              let (r, s) := s.spdmAnswer .command (some id) m
              reply (leBytes 4 id ++ Config.spdmSeal x.secret x.sent r) s

/-- SECURITY_SEND. -/
def execSecuritySend (r : CmdRef) (data : Bytes) (s : State) : Res := s.withCmd r 0x18 (fun c => s.doSecuritySend c data)

/-- SECURITY_RECV: the response that waits; it is gone once returned whole. -/
def State.doSecurityRecv (s : State) (c : Cmd) : State :=
  let proto := bits (c.w 1) 0 8
  if !s.trust.cfg.pol.spdmAdmin then s.failCmd c stNotPermitted
  else if proto != 1 && proto != 2 then s.failCmd c stInvalidField
  else
    let cn := s.conn .command
    let b := cn.response.getD []
    let s := if b.length ≤ c.w 8 then s.setConn { cn with response := none } else s
    s.varOut c b

/-- SECURITY_RECV. -/
def execSecurityRecv (r : CmdRef) (s : State) : Res := s.withCmd r 0x19 s.doSecurityRecv

end Sys2Proof.Machine
end

