-- ==== Sys2Proof/Machine/Sideband.lean ====
section
/-! DEFINITION. The sideband: vendor commands, PLDM sensors and the power cap, discovery and MCTP control (R500 to R504). -/

namespace Sys2Proof.Machine

/-- A vendor command answered with a status and data; it is counted, and as an error when refused (Table 16-18). -/
def State.sbAnswer (s : State) (cmd status : Nat) (b : Bytes) : State :=
  let s := s.ra .SBI_STAT_requests 0 1
  (if status = 0 then s else s.ra .SBI_STAT_errors 0 1).emit (.sideband cmd status b)

/-- A PLDM answer: its completion code and data. -/
def State.pldmAnswer (s : State) (code : Nat) (b : Bytes) : State :=
  let s := s.ra .SBI_STAT_requests 0 1
  (if code = 0 then s else s.ra .SBI_STAT_errors 0 1).emit (.pldm code b)

/-- PLDM completion codes of the published format: ERROR_INVALID_DATA, ERROR_NOT_READY. -/
def pldmInvalidData : Nat := 2
def pldmNotReady : Nat := 4

/-- GET_STATUS: seven registers; SB_ALERT_N is released (Table 16-9). -/
def execGetStatus (s : State) : Res :=
  if s.mode == .reset then .next s else
  let q (r : Reg) : Bytes := leBytes 8 (swReadVal r.fields (BitVec.allOnes 64) (s.regValue r 0)).toNat
  let b := q .HIF_STATUS ++ q .BOT_STATUS ++ q .ERR_STATUS ++ q .ERR_HALT ++ q .BOT_NONCE ++ q .BOT_AUTHSEQ ++ q .BOT_EVENTS
  .next ((s.sbAnswer 1 0 b).rs .SBI_STAT_alert 0 0)

/-- GET_ERRLOG: up to 1,024 bytes of the log in ascending seq from a byte offset (R494). -/
def execGetErrlog (off : Nat) (s : State) : Res :=
  if s.mode == .reset then .next s
  else .next (s.sbAnswer 2 0 (((s.log.entries.flatMap ErrEntry.bytes).drop off).take 1024))

/-- GET_CAIRN: up to 1,024 bytes of the Cairn log, sealed or not (R456). -/
def execGetCairn (off : Nat) (s : State) : Res :=
  if s.mode == .reset then .next s else .next (s.sbAnswer 3 0 ((s.trust.log.drop off).take 1024))

/-- PROVISION_OWNER (R503): the owner hash is blown once; `fused` is what the fuses read back as. -/
def execProvisionOwner (hash : Bytes) (crc : Nat) (fused : Bytes) (s : State) : Res :=
  if s.mode == .reset then .next s
  else if s.mode != .halted || s.rg .BOT_STATUS_halt_cause 0 != 2 || !s.trust.fuses.ownerless || hash.length != 48 || crc32c hash != crc then
    .next (s.sbAnswer 4 stInvalidField [])
  else
    let f := bslice fused 0 48
    let s := { s with trust := { s.trust with fuses := { s.trust.fuses with owner := f } } }
    .next (s.sbAnswer 4 (if f = hash then 0 else stDataLoss) [])

/-- HALT_RESTART (R504): legal in HALTED for causes other than 2; the owner's block with action 4, then a warm restart. -/
def execHaltRestart (b : Bytes) (s : State) : Res :=
  if s.mode == .reset then .next s
  else if s.mode != .halted || s.rg .ERR_HALT_cause 0 = 2 then .next (s.sbAnswer 5 stStateConflict [])
  else match s.authorize b 4 with
    | none => .next (s.sbAnswer 5 stAuthFailed [])
    | some s => .next ((s.sbAnswer 5 0 []).warmStart .haltRestart)

/-- MEM_TEST (R489, Table 16-9): Camp 0 tests memory no Camp holds, in MAINTENANCE. `errors` and `first` are what the test finds, `left` the bytes it leaves in the
range (byte address and value), none of which the manual states. -/
def execMemTest (lo hi pattern errors first : Nat) (left : List (Nat × Byte)) (s : State) : Res :=
  if s.mode == .reset then .next s
  else if s.mode != .maintenance then .next (s.sbAnswer 6 stStateConflict [])
  else if lo % 2 != 0 || hi % 2 != 0 || hi ≤ lo || 3 < pattern || !s.populated lo || !s.populated (hi - 2) then .next (s.sbAnswer 6 stInvalidField [])
  else
    let inside := left.filter (fun c => decide (lo ≤ 2 * c.1) && decide (2 * c.1 < hi))
    let s := inside.foldl (fun (s : State) c => s.memPut (2 * c.1) [c.2]) s
    .next (s.sbAnswer 6 0 (leBytes 8 errors ++ leBytes 8 first))

/-- The sensors of Table 16-8: 0 package temperature, 1 to 16 clusters, 17 package power, 18 to 22 groups, 23 effective limit, 24 mode. -/
def State.sensor (s : State) (i : Nat) : Option Nat :=
  if i = 0 then some s.power.temp
  else if i ≤ 16 then some (s.rg .THM_CLUSTER_t_max (i - 1))
  else if i = 17 then some ((s.power.pkg.take 10).sum / 1000000)
  else if i ≤ 22 then some (s.power.groups.getD (i - 18) 0)
  else if i = 23 then some (s.rg .PWR_LIMIT_effective 0)
  else if i = 24 then some s.mode.code
  else none

/-- Are the sensors and the power cap available: from boot step 5, and not in HALTED (R502)? -/
def State.bmcReady (s : State) : Bool :=
  match s.mode with
  | .boot => decide (5 ≤ s.rg .BOT_STATUS_step 0)
  | .service | .detached | .maintenance => true
  | .reset | .halted => false

/-- PLDM_SENSOR_READ: a value, or unavailable (R502). -/
def execPldmSensorRead (i : Nat) (s : State) : Res :=
  if s.mode == .reset then .next s else
  match s.sensor i with
  | none => .next (s.pldmAnswer pldmInvalidData [])
  | some v => .next (s.pldmAnswer 0 (if s.bmcReady then 1 :: leBytes 4 v else [0]))

/-- PLDM_SET_POWER_CAP (R280, R502): within the policy's range, or 0 to remove it. -/
def execPldmSetPowerCap (w : Nat) (s : State) : Res :=
  if s.mode == .reset then .next s
  else if !s.bmcReady then .next (s.pldmAnswer pldmNotReady [])
  else
    let p := s.trust.cfg.pol
    if w != 0 && (w < p.capMin || p.capMax < w) then .next (s.pldmAnswer pldmInvalidData [])
    else .next ((s.pldmAnswer 0 []).rs .PWR_LIMIT_bmc_cap 0 w)

/-- PLDM_DISCOVERY: PLDM for Messaging Control and Discovery; the bodies are the published format's (R501). -/
def execPldmDiscovery (cmd : Nat) (s : State) : Res :=
  if s.mode == .reset then .next s else .next (s.pldmAnswer 0 (Config.mctpBody 0 cmd))

/-- MCTP_CONTROL: MCTP base control messages; the bodies are the published format's (R501). -/
def execMctpControl (cmd : Nat) (s : State) : Res :=
  if s.mode == .reset then .next s else .next (s.pldmAnswer 0 (Config.mctpBody 1 cmd))

end Sys2Proof.Machine
end

