-- ==== Sys2Proof/Machine/F64.lean ====
section
/-! DEFINITION. IEEE 754 binary64 arithmetic, round to nearest with ties to even (R409). -/

namespace Sys2Proof.Machine

/-- A binary64 number: m * 2^e with m > 0 where it is finite and not zero. -/
inductive F64 where
  | nan (signalling : Bool)
  | inf (neg : Bool)
  | zero (neg : Bool)
  | fin (neg : Bool) (m : Nat) (e : Int)
  deriving DecidableEq, Repr

/-- The number that 64 bits encode. -/
def f64Of (x : BitVec 64) : F64 :=
  let n := x.toNat
  let neg := n / 2 ^ 63 == 1
  let ex : Nat := n / 2 ^ 52 % 2048
  let fr : Nat := n % 2 ^ 52
  if ex = 2047 then (if fr = 0 then .inf neg else .nan (decide (fr < 2 ^ 51)))
  else if ex = 0 then (if fr = 0 then .zero neg else .fin neg fr (-1074))
  else .fin neg (2 ^ 52 + fr) ((ex : Int) - 1075)

/-- The sign bit. -/
def f64Sign (neg : Bool) : Nat := if neg then 2 ^ 63 else 0

/-- Infinity and zero. -/
def f64Inf (neg : Bool) : BitVec 64 := BitVec.ofNat 64 (f64Sign neg + 2047 * 2 ^ 52)
def f64Zero (neg : Bool) : BitVec 64 := BitVec.ofNat 64 (f64Sign neg)
/-- The default quiet NaN: positive, with the quiet bit alone (PRESUMED, log 50). -/
def f64Nan : BitVec 64 := 0x7FF8000000000000

/-- Round the exact value (m, or m and a little more where `more` says so) * 2^e. With `more`, m has at least 55 bits. -/
def f64Round (neg : Bool) (m : Nat) (e : Int) (more : Bool) : BitVec 64 :=
  if m = 0 then f64Zero neg else
  let len : Int := (Nat.log2 m : Int) + 1
  let ex := max (e + len - 53) (-1074)
  let sh := ex - e
  let q : Nat :=
    if sh ≤ 0 then m * 2 ^ (-sh).toNat
    else
      let k := sh.toNat
      let q := m / 2 ^ k
      let r := m % 2 ^ k
      let half := 2 ^ (k - 1)
      if half < r || (r == half && (more || q % 2 == 1)) then q + 1 else q
  let (q, ex) := if 2 ^ 53 ≤ q then (q / 2, ex + 1) else (q, ex)
  if q < 2 ^ 52 then BitVec.ofNat 64 (f64Sign neg + q)
  else if 971 < ex then f64Inf neg
  else BitVec.ofNat 64 (f64Sign neg + (ex + 1075).toNat * 2 ^ 52 + (q - 2 ^ 52))

/-- A result with a NaN operand: the default quiet NaN of an invalid operation where one signals, otherwise a quiet NaN whose payload is open. -/
def f64NanOf (x y : BitVec 64) : BitVec 64 :=
  match f64Of x, f64Of y with
  | .nan true, _ | _, .nan true => f64Nan
  | _, _ => f64Nan ||| (Config.nanPayload x y &&& 0x8007FFFFFFFFFFFF)

/-- A signed exact value m * 2^e; an exact zero has the given sign. -/
def f64Signed (m e : Int) (zneg : Bool) : BitVec 64 := if m = 0 then f64Zero zneg else f64Round (decide (m < 0)) m.natAbs e false

/-- A signed significand. -/
def f64Mant (neg : Bool) (m : Nat) : Int := if neg then -(m : Int) else m

/-- Sum of two finite values, exact, rounded once. -/
def f64Sum (n1 : Bool) (m1 : Nat) (e1 : Int) (n2 : Bool) (m2 : Nat) (e2 : Int) : BitVec 64 :=
  let e := min e1 e2
  f64Signed (f64Mant n1 m1 * 2 ^ (e1 - e).toNat + f64Mant n2 m2 * 2 ^ (e2 - e).toNat) e false

/-- Addition. -/
def f64Add (x y : BitVec 64) : BitVec 64 :=
  match f64Of x, f64Of y with
  | .nan _, _ | _, .nan _ => f64NanOf x y
  | .inf a, .inf b => if a = b then f64Inf a else f64Nan
  | .inf a, _ => f64Inf a
  | _, .inf b => f64Inf b
  | .zero a, .zero b => f64Zero (a && b)
  | .zero _, .fin _ _ _ => y
  | .fin _ _ _, .zero _ => x
  | .fin n1 m1 e1, .fin n2 m2 e2 => f64Sum n1 m1 e1 n2 m2 e2

/-- Negation of the sign bit. -/
def f64Neg (x : BitVec 64) : BitVec 64 := x ^^^ 0x8000000000000000

/-- Subtraction. -/
def f64Sub (x y : BitVec 64) : BitVec 64 :=
  match f64Of x, f64Of y with
  | .nan _, _ | _, .nan _ => f64NanOf x y
  | _, _ => f64Add x (f64Neg y)

/-- Multiplication. -/
def f64Mul (x y : BitVec 64) : BitVec 64 :=
  match f64Of x, f64Of y with
  | .nan _, _ | _, .nan _ => f64NanOf x y
  | .inf _, .zero _ | .zero _, .inf _ => f64Nan
  | .inf a, .inf b | .inf a, .fin b _ _ | .fin a _ _, .inf b => f64Inf (a != b)
  | .zero a, .zero b | .zero a, .fin b _ _ | .fin a _ _, .zero b => f64Zero (a != b)
  | .fin n1 m1 e1, .fin n2 m2 e2 => f64Round (n1 != n2) (m1 * m2) (e1 + e2) false

/-- Division. -/
def f64Div (x y : BitVec 64) : BitVec 64 :=
  match f64Of x, f64Of y with
  | .nan _, _ | _, .nan _ => f64NanOf x y
  | .inf _, .inf _ | .zero _, .zero _ => f64Nan
  | .inf a, .zero b | .inf a, .fin b _ _ | .fin a _ _, .zero b => f64Inf (a != b)
  | .zero a, .inf b | .zero a, .fin b _ _ | .fin a _ _, .inf b => f64Zero (a != b)
  | .fin n1 m1 e1, .fin n2 m2 e2 =>
    f64Round (n1 != n2) (m1 * 2 ^ 120 / m2) (e1 - e2 - 120) (m1 * 2 ^ 120 % m2 != 0)

/-- Integer square root of a number below 4^n, bit by bit. -/
def isqrt : Nat → Nat → Nat
  | 0, _ => 0
  | n + 1, x =>
    let r := 2 * isqrt n (x / 4)
    if (r + 1) * (r + 1) ≤ x then r + 1 else r

/-- Square root. -/
def f64Sqrt (x : BitVec 64) : BitVec 64 :=
  match f64Of x with
  | .nan _ => f64NanOf x x
  | .zero n => f64Zero n
  | .inf n => if n then f64Nan else f64Inf false
  | .fin n m e =>
    if n then f64Nan
    else
      let k : Nat := if e % 2 = 0 then 120 else 121
      let y := m * 2 ^ k
      let r := isqrt 100 y
      f64Round false r ((e - k) / 2) (r * r != y)

/-- Fused multiply-add: z + x * y with one rounding. -/
def f64Fma (z x y : BitVec 64) : BitVec 64 :=
  match f64Of z, f64Of x, f64Of y with
  | _, .inf _, .zero _ | _, .zero _, .inf _ => f64Nan
  | .nan _, _, _ => f64NanOf z x
  | _, .nan _, _ | _, _, .nan _ => f64NanOf x y
  | .fin n3 m3 e3, .fin n1 m1 e1, .fin n2 m2 e2 => f64Sum n3 m3 e3 (n1 != n2) (m1 * m2) (e1 + e2)
  | .zero _, .fin n1 m1 e1, .fin n2 m2 e2 => f64Round (n1 != n2) (m1 * m2) (e1 + e2) false
  | _, _, _ => f64Add z (f64Mul x y)

/-- Sign and magnitude as an order: none with a NaN. -/
def f64Cmp (x y : BitVec 64) : Option Ordering :=
  let key (f : F64) : Option (Int × Int) := match f with
    | .nan _ => none
    | .inf n => some (if n then -1 else 1, 0)
    | .zero _ => some (0, 0)
    | .fin n m e => some (0, f64Mant n (m * 2 ^ (e + 1074).toNat))
  match key (f64Of x), key (f64Of y) with
  | some (a, b), some (c, d) => some (if a < c then .lt else if c < a then .gt else if b < d then .lt else if d < b then .gt else .eq)
  | _, _ => none

/-- Minimum and maximum; with a NaN operand the result is open, and of two zeros which one is (R409 leaves both to the standard's editions). -/
def f64MinMax (isMax : Bool) (x y : BitVec 64) : BitVec 64 :=
  match f64Cmp x y with
  | none => Config.minMaxOpen x y
  | some .eq => if x = y then x else if (Config.minMaxOpen x y).toNat % 2 = 0 then x else y
  | some .lt => if isMax then y else x
  | some .gt => if isMax then x else y

/-- A 36-bit integer as a binary64 number. -/
def f64OfInt (v : Int) : BitVec 64 := f64Signed v 0 false

/-- Truncate to a 36-bit integer: saturating, NaN to 0 (R409). -/
def f64ToInt (x : BitVec 64) : Int :=
  let clip (v : Int) : Int := max (-(2 ^ 35 : Nat)) (min v ((2 ^ 35 : Nat) - 1))
  match f64Of x with
  | .nan _ | .zero _ => 0
  | .inf n => if n then -(2 ^ 35 : Nat) else (2 ^ 35 : Nat) - 1
  | .fin n m e =>
    let a : Nat := if 0 ≤ e then m * 2 ^ (min e.toNat 64) else m / 2 ^ (-e).toNat
    clip (f64Mant n a)

end Sys2Proof.Machine
end

