-- ==== Sys2Proof/Machine/UCore.lean ====
section
/-! DEFINITION. How a Uliar context executes one instruction: fetch, encodings, delay slots, exceptions, and taking event requests (R401, R412, R415 to R424, R431, R432, R442). -/

namespace Sys2Proof.Machine

/-! ### Positions (R415) -/

/-- A Uliar address wraps at 36 bits. -/
def wrap36 (n : Nat) : Nat := n % 2 ^ 36
/-- The position one half on. -/
def UPos.next (p : UPos) : UPos := if p.half then ⟨wrap36 (p.word + 9), false⟩ else ⟨p.word, true⟩
/-- The position after a long form. -/
def UPos.nextWord (p : UPos) : UPos := ⟨wrap36 (p.word + 9), false⟩
/-- The position a signed number of halves away. -/
def UPos.move (p : UPos) (k : Int) : UPos :=
  let n : Int := (if p.half then 1 else 0) + k
  ⟨ofInt 36 ((p.word : Int) + 9 * (n.fdiv 2)), n.fmod 2 == 1⟩
/-- A position whose half is 0. -/
def UPos.at0 (w : Nat) : UPos := ⟨wrap36 w, false⟩

/-! ### Encodings (Tables 14-3 and 14-4) -/

/-- A half in format R. -/
def encR (op : BitVec 6) (d a b : BitVec 4) : BitVec 18 := op ++ d ++ a ++ b
/-- A half in format I. -/
def encI (op : BitVec 6) (d : BitVec 4) (imm : BitVec 8) : BitVec 18 := op ++ d ++ imm
/-- A half in format B. -/
def encB (op : BitVec 6) (a : BitVec 4) (off : BitVec 8) : BitVec 18 := op ++ a ++ off
/-- A half in format X. -/
def encX (op : BitVec 6) (sub : BitVec 4) : BitVec 18 := op ++ sub ++ (0 : BitVec 8)
/-- A half in format V. -/
def encV (op : BitVec 6) (vd va vb f : BitVec 3) : BitVec 18 := op ++ vd ++ va ++ vb ++ f
/-- A half in format VM, strided. -/
def encVM (op : BitVec 6) (vd : BitVec 3) (a b : BitVec 4) : BitVec 18 := op ++ vd ++ a ++ b ++ (0 : BitVec 1)
/-- A half in format VM, indexed. -/
def encVX (op : BitVec 6) (vd : BitVec 3) (a : BitVec 4) (vb : BitVec 3) : BitVec 18 := op ++ vd ++ a ++ vb ++ (0 : BitVec 2)
/-- A word in format L. -/
def encL (op : BitVec 6) (d a : BitVec 4) (imm : BitVec 22) : BitVec 36 := op ++ d ++ a ++ imm
/-- A word in format LF. -/
def encLF (op fd fa fb func : BitVec 6) (g : BitVec 4) (h : BitVec 2) : BitVec 36 := op ++ fd ++ fa ++ fb ++ func ++ g ++ h
/-- A word in format LM. -/
def encLM (op fd : BitVec 6) (a : BitVec 4) (st : BitVec 1) (off : BitVec 19) : BitVec 36 := op ++ fd ++ a ++ st ++ off

/-- What stands at a position: one half, or a long form's word. -/
inductive Code where
  | half (h : BitVec 18)
  | word (w : BitVec 36)
  deriving DecidableEq, Repr

/-- The half of a word at a position. -/
def halfOf (w : BitVec 36) (second : Bool) : BitVec 18 := if second then w.extractLsb' 0 18 else w.extractLsb' 18 18

/-- Does a half hold the opcode and unused fields of some operation of Table 14-4? An operation checks the values of the fields it uses. -/
def halfKnown (h : BitVec 18) : Bool :=
  let n := h.toNat
  let op := n / 4096
  let f8 := bits n 8 4
  let lo := bits n 0 8
  if op = 0 then false
  else if op = 1 then bits n 0 12 == 0
  else if op ≤ 0x0F then true
  else if op = 0x10 then bits n 0 4 == 0
  else if op ≤ 0x12 then true
  else if op ≤ 0x15 then bits n 6 2 == 0
  else if op ≤ 0x17 then false
  else if op ≤ 0x1F then true
  else if op ≤ 0x21 then lo == 0
  else if op = 0x22 then f8 == 0
  else if op = 0x23 then false
  else if op ≤ 0x27 then true
  else if op ≤ 0x29 then f8 == 0 && bits n 0 4 == 0
  else if op = 0x2A then bits n 0 12 == 0
  else if op = 0x2B then f8 == 0
  else if op = 0x2C then lo == 0 && (decide (f8 ≤ 5) || f8 == 7)
  else if op = 0x2D then f8 == 0
  else if op ≤ 0x33 then true
  else if op ≤ 0x35 then bits n 0 1 == 0
  else if op ≤ 0x37 then bits n 0 2 == 0
  else false

/-- Does a word hold a long form? -/
def wordKnown (w : BitVec 36) : Bool :=
  let n := w.toNat
  let op := n / 2 ^ 30
  if op = 0x38 then bits n 22 4 == 0
  else if op = 0x39 then bits n 22 4 == 0 && bits n 14 8 == 0
  else if op = 0x3D then bits n 22 4 == 0
  else decide (0x3A ≤ op)

/-- Is the code at a half one of no operation (R415, R416)? -/
def isIllegal (w : BitVec 36) (second : Bool) : Bool :=
  let h := halfOf w second
  if 0x38 ≤ h.toNat / 4096 then second || !wordKnown w else !halfKnown h

/-- Does a word hold this code at a half? -/
def Code.stands (c : Code) (w : BitVec 36) (second : Bool) : Bool :=
  match c with
  | .half h => halfOf w second == h
  | .word x => !second && w == x

/-- Length of a code: the position after it. -/
def Code.after (c : Code) (p : UPos) : UPos :=
  match c with
  | .half _ => p.next
  | .word _ => p.nextWord

/-! ### Exceptions (R419, R422, R424, R442) -/

/-- The double fault of a context (R424). -/
def State.doubleFault (s : State) (core slot : Nat) (u : UCtx) (cause : Nat) (epc : UPos) : State :=
  let s := if s.rg .ULR_FAULTLOG_valid core = 1 then s else
    ((((s.rs .ULR_FAULTLOG_cause core cause).rs .ULR_FAULTLOG_slot core slot).rs .ULR_FAULTLOG_epc core epc.word).rs
      .ULR_FAULTLOG_epc_half core (if epc.half then 1 else 0)).rs .ULR_FAULTLOG_valid core 1
  s.halt 8 0x0E core u.camp 0

/-- ULR_ECAUSE of an exception (Table 14-10). -/
def ecauseOf (x : UExc) (epc etgt : UPos) (inSlot : Bool) : Nat :=
  x.cause + (if epc.half then 2 ^ 6 else 0) + (if inSlot then 2 ^ 7 else 0) + (if etgt.half then 2 ^ 8 else 0) + 2 ^ 9 * x.aperture + 2 ^ 13 * x.xkind

/-- Steps 1 to 3 of R422, and step 4: the registers saved, level F with exc set, and the exception vector. -/
def UCtx.enterExc (u : UCtx) (x : UExc) (epc etgt : UPos) (inSlot : Bool) : UCtx :=
  let st := u.creg crStatus
  let u := (((u.setCreg crEpc epc.word).setCreg crEcause (ecauseOf x epc etgt inSlot)).setCreg crEaddr x.addr).setCreg crEtgt etgt.word
  let u := u.setCreg crStatus (st - st % 8 + 2 * (st % 2) + 4)
  { u with pos := UPos.at0 (u.creg crEvec), xfer := none }

/-- What firmware does with an exception of an invocation (R442): its registered handler starts as a call, at level X with an empty return stack; any other exception ends the
invocation with EXT_FAULT. -/
def State.extException (s : State) (key : Nat) (u : UCtx) (i : Invocation) (x : UExc) (epc : UPos) : State :=
  if i.handler = 0 || i.handling then (s.setU key u).endInvocation key stExtFault []
  else
    let u := ((u.setG 1 (BitVec.ofNat 36 x.cause)).setG 2 (BitVec.ofNat 36 x.addr)).setG 3 (BitVec.ofNat 36 epc.word)
    let u := { (u.setCreg crCsp 0).setCreg crStatus 1 with
      rcache := [], pos := UPos.at0 i.handler, xfer := none, inv := some { i with handling := true } }
    s.setU key u

/-- Raise an exception at a position; in a delay slot, control would have continued at `etgt` (R419). Where it is raised outside one, what ULR_ETGT holds is open. -/
def State.raise (s : State) (core slot : Nat) (u : UCtx) (x : UExc) (epc : UPos) (etgt : Option UPos) : State :=
  let s := s.ra .ULR_STAT_exceptions core 1
  if u.inExc then s.doubleFault core slot u x.cause epc
  else
    let (s, t) : State × UPos := match etgt with
      | some t => (s, t)
      | none => let (k, s) := s.draw; (s, ⟨(Config.freeWord k).toNat % 2 ^ 36, (Config.freeWord k).getLsbD 36⟩)
    let u' := u.enterExc x epc t etgt.isSome
    match u.inv with
    | some i => if u.atX then s.extException (ctxKey core slot) u' i x epc else s.setU (ctxKey core slot) u'
    | none => s.setU (ctxKey core slot) u'

/-! ### One instruction -/

/-- Where control goes after an instruction: on; through a delay slot to a target if taken, with what the transfer does to the return stack; to a position at once, perhaps with a
slot to execute again; or nowhere, because the instruction has done everything itself. -/
inductive UFlow where
  | seq
  | branch (target : UPos) (taken : Bool) (act : StackAct)
  | goto (p : UPos) (x : Option Xfer)
  | done
  deriving DecidableEq, Repr

/-- Does a core run? Firmware starts core 128 in BOOT; ULR_CORE_CTL.enable runs the others. -/
def State.coreRuns (s : State) (core : Nat) : Bool :=
  s.alive && decide (core < 132) && (s.rg .ULR_CORE_CTL_enable core == 1 || (core == 128 && s.mode == .boot))

/-- May a context issue its next instruction (R431, R434 to R436)? -/
def State.uReady (s : State) (core slot : Nat) : Bool :=
  s.coreRuns core && mhas (ctxKey core slot) s.ulr.ctxs &&
  (if core < 128 then decide (slot < 32) && (s.runningEntry (ctxKey core slot)).isSome
   else slot == 0 && !(s.uctx (ctxKey core slot)).waiting)

/-- Fetch the word at a context's position (R406). -/
def State.uFetch (s : State) (core : Nat) (u : UCtx) : UAns (BitVec 36) :=
  match u.aperture u.pos.word 9 .fetch false with
  | .error x => .exc s u x
  | .ok (v, _) => (State.uDigits core u.pos.word v .fetch 9 s u).andThen (fun s u l => .ok s u (BitVec.ofNat 36 (lowNat l)))

/-- Count an instruction that has been retired, in units of 1,024 (Table 14-17). -/
def State.retire (s : State) (core : Nat) : State :=
  let n := mgetD 0 core s.ulr.retired + 1
  let s := if n = 1024 then s.ra .ULR_STAT_retired core 1 else s
  { s with ulr := { s.ulr with retired := mput core (n % 1024) s.ulr.retired } }

/-- The return-stack action of a transfer, which takes effect before its slot executes (R412, R418, R419). -/
def State.stackAct (s : State) (core slot : Nat) (u : UCtx) (a : StackAct) : State × UCtx :=
  match a with
  | .keep => (s, u)
  | .push p => s.rsPush core slot u (rsEntry p.word p.half 0)
  | .pop => (s, u.rsPop)

/-- Control moves on after an instruction whose code is `c`. -/
def UCtx.follow (u : UCtx) (c : Code) (x : Option Xfer) (f : UFlow) : UCtx :=
  match f with
  | .seq => (match x with
    | some x => { u with pos := if x.taken then x.target else u.pos.next, xfer := none }
    | none => { u with pos := c.after u.pos })
  | .branch t taken act => { u with pos := c.after u.pos, xfer := some ⟨u.pos, t, taken, act⟩ }
  | .goto p x => { u with pos := p, xfer := x }
  | .done => u

/-- Where control would go on after a slot. -/
def Xfer.etgt (x : Xfer) (slot : UPos) : UPos := if x.taken then x.target else slot.next

/-- The end of an instruction: control moves on, it is retired, and a cancel that waits takes effect at the boundary (R437). -/
def State.uFinish (core slot : Nat) (c : Code) (x : Option Xfer) (pos : UPos) (r : UAns UFlow) : Res :=
  match r with
  | .halted s => .next s
  | .exc s u e => .next (s.raise core slot { u with xfer := none } e pos (x.map (fun x => x.etgt pos)))
  | .ok s _ .done => .next ((s.retire core).reap (ctxKey core slot))
  | .ok s u f => .next (((s.setU (ctxKey core slot) (u.follow c x f)).retire core).reap (ctxKey core slot))

/-- Execute the instruction with code `c` at a context's position: it is fetched; where it stands there, it runs. In a delay slot that may not hold it, the transfer takes no effect
and ILLEGAL_INSTRUCTION is raised there (R418). `slotOk` says whether a slot may hold it. -/
def State.uRun (s0 : State) (core slot : Nat) (c : Code) (slotOk : Bool) (f : State → UCtx → UAns UFlow) : Res :=
  if !s0.uReady core slot then .next s0 else
  let u := s0.uctx (ctxKey core slot)
  match s0.uFetch core u with
  | .halted s => .next s
  | .exc s u x => (match u.xfer with
    | some t =>
      let (s, u) := s.stackAct core slot u t.act
      .next (s.raise core slot { u with xfer := none } x u.pos (some (t.etgt u.pos)))
    | none => .next (s.raise core slot u x u.pos none))
  | .ok s u w =>
    if !c.stands w u.pos.half then .next s0
    else match u.xfer with
      | none => State.uFinish core slot c none u.pos (f s u)
      | some t =>
        if !slotOk then .next (s.raise core slot { u with xfer := none } uIllegal t.pos none)
        else
          let (s, u) := s.stackAct core slot u t.act
          State.uFinish core slot c (some t) u.pos (f s u)

/-- ILLEGAL (R415, R416): opcode 0, a reserved opcode or sub-function, an unused field that is not 0, or a long form at half 1. -/
def execUIllegal (core slot : Nat) (s0 : State) : Res :=
  if !s0.uReady core slot then .next s0 else
  let u := s0.uctx (ctxKey core slot)
  match s0.uFetch core u with
  | .halted s => .next s
  | .exc s u x => (match u.xfer with
    | some t =>
      let (s, u) := s.stackAct core slot u t.act
      .next (s.raise core slot { u with xfer := none } x u.pos (some (t.etgt u.pos)))
    | none => .next (s.raise core slot u x u.pos none))
  | .ok s u w =>
    if !isIllegal w u.pos.half then .next s0
    else match u.xfer with
      | none => .next (s.raise core slot u uIllegal u.pos none)
      | some t => .next (s.raise core slot { u with xfer := none } uIllegal t.pos none)

/-! ### Event requests (R431, R432) -/

/-- EVENT_REQUEST_TAKE: management core i takes its committed request at an instruction boundary. -/
def execEventRequestTake (i : Nat) (s : State) : Res :=
  let core := 128 + i
  let key := ctxKey core 0
  if 4 ≤ i || !s.coreRuns core || !mhas key s.ulr.ctxs then .next s else
  match mget i s.io.reqs with
  | none => .next s
  | some q =>
    let u := s.uctx key
    let st := u.creg crStatus
    if bits st 3 1 = 0 || u.inExc || u.xfer.isSome || q.priority + 1 ≤ bits st 4 5 then .next s
    else if u.creg crRslim < u.creg crCsp + 2 then .next (s.halt 9 0x0E core 0 0)
    else
      let (s, u) := s.rsPush core 0 u (rsEntry u.pos.word u.pos.half 1)
      let (s, u) := s.rsPush core 0 u (rsEntry (bits st 0 9 + 2 ^ 9 * bits (u.creg crIsrc) 0 14) false 2)
      let u := u.setCreg crIsrc (q.source + 2 ^ 9 * q.priority + 2 ^ 13)
      let u := u.setCreg crStatus (st - 2 ^ 4 * bits st 4 5 + 2 ^ 4 * (q.priority + 1))
      let u := { u with pos := UPos.at0 q.handler, waiting := false }
      let s := (s.ra .ULR_STAT_requests core 1).rs .EVR_CORE_request i 0
      let s := { s with io := { s.io with reqs := mdel i s.io.reqs } }
      .next (s.setU key u)

end Sys2Proof.Machine
end

