-- ==== Sys2Proof/Machine/UInt.lean ====
section
/-! DEFINITION. Uliar integer instructions, loads and stores, the data stack, transfers and long forms (Table 14-4, R403 to R407, R410 to R412, R417). -/

namespace Sys2Proof.Machine

/-! ### Integer operations on 36-bit words (R403, Table 14-4) -/

/-- An operation on two registers. -/
def State.uAlu (s : State) (core slot : Nat) (op : BitVec 6) (d a b : BitVec 4) (f : UWord → UWord → UWord) : Res :=
  s.uRun core slot (.half (encR op d a b)) true (fun s u => .ok s (u.setG d.toNat (f (u.greg a.toNat) (u.greg b.toNat))) .seq)

/-- An operation on a register and an immediate. -/
def State.uImm (s : State) (core slot : Nat) (op : BitVec 6) (d : BitVec 4) (imm : BitVec 8) (f : UWord → UWord) : Res :=
  s.uRun core slot (.half (encI op d imm)) true (fun s u => .ok s (u.setG d.toNat (f (u.greg d.toNat))) .seq)

/-- A shift count: Gb[5:0]. -/
def shiftBy (b : UWord) : Nat := b.toNat % 64
/-- The high 36 bits of a signed product. -/
def mulHigh (x y : UWord) : UWord := BitVec.ofInt 36 ((x.toInt * y.toInt) / (2 ^ 36 : Nat))
/-- Division truncated toward zero; -2^35 / -1 wraps to -2^35. -/
def divTrunc (x y : UWord) : UWord := BitVec.ofInt 36 (x.toInt.tdiv y.toInt)
/-- The remainder, with the sign of the dividend. -/
def remTrunc (x y : UWord) : UWord := BitVec.ofInt 36 (x.toInt.tmod y.toInt)
/-- 1 or 0. -/
def flag36 (b : Bool) : UWord := if b then 1 else 0
/-- An immediate sign-extended to 36 bits. -/
def sext36 {w : Nat} (x : BitVec w) : UWord := x.signExtend 36

/-- NOP. -/
def execUNop (core slot : Nat) (s : State) : Res := s.uRun core slot (.half (encX 0x01 0)) true (fun s u => .ok s u .seq)
/-- ADD. -/
def execUAdd (core slot : Nat) (d a b : BitVec 4) (s : State) : Res := s.uAlu core slot 0x02 d a b (fun x y => x + y)
/-- SUB. -/
def execUSub (core slot : Nat) (d a b : BitVec 4) (s : State) : Res := s.uAlu core slot 0x03 d a b (fun x y => x - y)
/-- AND. -/
def execUAnd (core slot : Nat) (d a b : BitVec 4) (s : State) : Res := s.uAlu core slot 0x04 d a b (fun x y => x &&& y)
/-- OR. -/
def execUOr (core slot : Nat) (d a b : BitVec 4) (s : State) : Res := s.uAlu core slot 0x05 d a b (fun x y => x ||| y)
/-- XOR. -/
def execUXor (core slot : Nat) (d a b : BitVec 4) (s : State) : Res := s.uAlu core slot 0x06 d a b (fun x y => x ^^^ y)
/-- SHL: a count of 36 or more gives 0. -/
def execUShl (core slot : Nat) (d a b : BitVec 4) (s : State) : Res := s.uAlu core slot 0x07 d a b (fun x y => x <<< shiftBy y)
/-- SHR: a count of 36 or more gives 0. -/
def execUShr (core slot : Nat) (d a b : BitVec 4) (s : State) : Res := s.uAlu core slot 0x08 d a b (fun x y => x >>> shiftBy y)
/-- SAR: a count of 36 or more gives the sign. -/
def execUSar (core slot : Nat) (d a b : BitVec 4) (s : State) : Res := s.uAlu core slot 0x09 d a b (fun x y => x.sshiftRight (shiftBy y))
/-- MUL: the low 36 bits. -/
def execUMul (core slot : Nat) (d a b : BitVec 4) (s : State) : Res := s.uAlu core slot 0x0A d a b (fun x y => x * y)
/-- MULH. -/
def execUMulh (core slot : Nat) (d a b : BitVec 4) (s : State) : Res := s.uAlu core slot 0x0B d a b mulHigh

/-- DIV or REM: INT_DIVIDE on a zero divisor. -/
def State.uDivide (s : State) (core slot : Nat) (op : BitVec 6) (d a b : BitVec 4) (f : UWord → UWord → UWord) : Res :=
  s.uRun core slot (.half (encR op d a b)) true (fun s u =>
    if u.greg b.toNat = 0 then .exc s u (uexc 7) else .ok s (u.setG d.toNat (f (u.greg a.toNat) (u.greg b.toNat))) .seq)

/-- DIV. -/
def execUDiv (core slot : Nat) (d a b : BitVec 4) (s : State) : Res := s.uDivide core slot 0x0C d a b divTrunc
/-- REM. -/
def execURem (core slot : Nat) (d a b : BitVec 4) (s : State) : Res := s.uDivide core slot 0x0D d a b remTrunc
/-- SLT. -/
def execUSlt (core slot : Nat) (d a b : BitVec 4) (s : State) : Res := s.uAlu core slot 0x0E d a b (fun x y => flag36 (x.slt y))
/-- SLTU. -/
def execUSltu (core slot : Nat) (d a b : BitVec 4) (s : State) : Res := s.uAlu core slot 0x0F d a b (fun x y => flag36 (x.ult y))
/-- MOV. -/
def execUMov (core slot : Nat) (d a : BitVec 4) (s : State) : Res := s.uAlu core slot 0x10 d a 0 (fun x _ => x)
/-- ADDI. -/
def execUAddi (core slot : Nat) (d : BitVec 4) (imm : BitVec 8) (s : State) : Res := s.uImm core slot 0x11 d imm (fun x => x + sext36 imm)
/-- LI. -/
def execULi (core slot : Nat) (d : BitVec 4) (imm : BitVec 8) (s : State) : Res := s.uImm core slot 0x12 d imm (fun _ => sext36 imm)
/-- SHLI. -/
def execUShli (core slot : Nat) (d : BitVec 4) (n : BitVec 6) (s : State) : Res := s.uImm core slot 0x13 d (n.zeroExtend 8) (fun x => x <<< n.toNat)
/-- SHRI. -/
def execUShri (core slot : Nat) (d : BitVec 4) (n : BitVec 6) (s : State) : Res := s.uImm core slot 0x14 d (n.zeroExtend 8) (fun x => x >>> n.toNat)
/-- SARI. -/
def execUSari (core slot : Nat) (d : BitVec 4) (n : BitVec 6) (s : State) : Res := s.uImm core slot 0x15 d (n.zeroExtend 8) (fun x => x.sshiftRight n.toNat)

/-! ### Loads and stores (R404 to R407) -/

/-- A data address: a register and a signed offset in digits. -/
def UCtx.dataAddr (u : UCtx) (a : Nat) (off : Int) : Nat := ofInt 36 (((u.greg a).toNat : Int) + off)
/-- The register pair at an even register as 72 bits (R405). -/
def UCtx.pair (u : UCtx) (d : Nat) : Nat := (u.greg d).toNat * 2 ^ 36 + (u.greg (d + 1)).toNat
/-- Set a register pair. -/
def UCtx.setPair (u : UCtx) (d n : Nat) : UCtx := (u.setG d (BitVec.ofNat 36 (n / 2 ^ 36))).setG (d + 1) (BitVec.ofNat 36 n)

/-- Load m digits into a register, zero-extended. -/
def loadReg (core m : Nat) (d : BitVec 4) (addr : UCtx → Nat) (s : State) (u : UCtx) : UAns UFlow :=
  (s.uLoad core u (addr u) m).andThen (fun s u n => .ok s (u.setG d.toNat (BitVec.ofNat 36 n)) .seq)
/-- Store the low m digits of a register. -/
def storeReg (core m : Nat) (d : BitVec 4) (addr : UCtx → Nat) (s : State) (u : UCtx) : UAns UFlow :=
  (s.uStore core u (addr u) m (u.greg d.toNat).toNat).andThen (fun s u _ => .ok s u .seq)

/-- A load in format R: digits at Ga + s × b. -/
def State.uLoadR (s : State) (core slot : Nat) (op : BitVec 6) (m : Nat) (d a b : BitVec 4) : Res :=
  s.uRun core slot (.half (encR op d a b)) true (loadReg core m d (fun u => u.dataAddr a.toNat (m * b.toNat)))
/-- A store in format R. -/
def State.uStoreR (s : State) (core slot : Nat) (op : BitVec 6) (m : Nat) (d a b : BitVec 4) : Res :=
  s.uRun core slot (.half (encR op d a b)) true (storeReg core m d (fun u => u.dataAddr a.toNat (m * b.toNat)))

/-- LDG. -/
def execULdg (core slot : Nat) (d a b : BitVec 4) (s : State) : Res := s.uLoadR core slot 0x18 1 d a b
/-- LDB. -/
def execULdb (core slot : Nat) (d a b : BitVec 4) (s : State) : Res := s.uLoadR core slot 0x19 2 d a b
/-- LDW. -/
def execULdw (core slot : Nat) (d a b : BitVec 4) (s : State) : Res := s.uLoadR core slot 0x1A 9 d a b
/-- STG. -/
def execUStg (core slot : Nat) (d a b : BitVec 4) (s : State) : Res := s.uStoreR core slot 0x1C 1 d a b
/-- STB. -/
def execUStb (core slot : Nat) (d a b : BitVec 4) (s : State) : Res := s.uStoreR core slot 0x1D 2 d a b
/-- STW. -/
def execUStw (core slot : Nat) (d a b : BitVec 4) (s : State) : Res := s.uStoreR core slot 0x1E 9 d a b

/-- LDP: a pair from memory, or a register through a window (R405, R407). -/
def execULdp (core slot : Nat) (d a b : BitVec 4) (s : State) : Res :=
  s.uRun core slot (.half (encR 0x1B d a b)) true (fun s u =>
    if d.toNat % 2 = 1 then .exc s u uIllegal
    else (s.uLoadPair core u (u.dataAddr a.toNat (18 * b.toNat))).andThen (fun s u n => .ok s (u.setPair d.toNat n) .seq))
/-- STP. -/
def execUStp (core slot : Nat) (d a b : BitVec 4) (s : State) : Res :=
  s.uRun core slot (.half (encR 0x1F d a b)) true (fun s u =>
    if d.toNat % 2 = 1 then .exc s u uIllegal
    else (s.uStorePair core u (u.dataAddr a.toNat (18 * b.toNat)) (u.pair d.toNat)).andThen (fun s u _ => .ok s u .seq))

/-! ### The data stack (R410, R411) -/

/-- The stack pointer less n digits: none where it would lie below its limit. -/
def UCtx.dspDown (u : UCtx) (n : Int) : Option Nat :=
  let d : Int := (u.creg crDsp : Int) - n
  if 0 < n && (d < 0 || d < (u.creg crDslim : Int)) then none else some (ofInt 36 d)

/-- PUSH: the word goes into the cache; a word that leaves it is written to memory. -/
def execUPush (core slot : Nat) (d : BitVec 4) (s : State) : Res :=
  s.uRun core slot (.half (encI 0x20 d 0)) true (fun s u =>
    match u.dspDown 9 with
    | none => .exc s u (uexc 8)
    | some a => match u.aperture a 9 .write false with
      | .error x => .exc s u x
      | .ok _ => (s.moveDsp core u a).andThen (fun s u _ => .ok s { u with dcache := mput a (u.greg d.toNat, true) u.dcache } .seq))

/-- POP. -/
def execUPop (core slot : Nat) (d : BitVec 4) (s : State) : Res :=
  s.uRun core slot (.half (encI 0x21 d 0)) true (fun s u =>
    (s.uLoad core u (u.creg crDsp) 9).andThen (fun s u n =>
      (s.moveDsp core u (wrap36 (u.creg crDsp + 9))).andThen (fun s u _ => .ok s (u.setG d.toNat (BitVec.ofNat 36 n)) .seq)))

/-- DSPADJ. -/
def execUDspadj (core slot : Nat) (imm : BitVec 8) (s : State) : Res :=
  s.uRun core slot (.half (encI 0x22 0 imm)) true (fun s u =>
    match u.dspDown (-9 * imm.toInt) with
    | none => .exc s u (uexc 8)
    | some a => (s.moveDsp core u a).andThen (fun s u _ => .ok s u .seq))

/-! ### Transfers (R412, R417) -/

/-- The position after the delay slot of a transfer whose code is `c`. -/
def UCtx.afterSlot (u : UCtx) (c : Code) : UPos := (c.after u.pos).next

/-- A conditional branch by signed halves. -/
def State.uBranch (s : State) (core slot : Nat) (op : BitVec 6) (a : BitVec 4) (off : BitVec 8) (f : UWord → Bool) : Res :=
  s.uRun core slot (.half (encB op a off)) false (fun s u => .ok s u (.branch (u.pos.move off.toInt) (f (u.greg a.toNat)) .keep))

/-- BZ. -/
def execUBz (core slot : Nat) (a : BitVec 4) (off : BitVec 8) (s : State) : Res := s.uBranch core slot 0x24 a off (fun x => x == 0)
/-- BNZ. -/
def execUBnz (core slot : Nat) (a : BitVec 4) (off : BitVec 8) (s : State) : Res := s.uBranch core slot 0x25 a off (fun x => x != 0)
/-- BLTZ. -/
def execUBltz (core slot : Nat) (a : BitVec 4) (off : BitVec 8) (s : State) : Res := s.uBranch core slot 0x26 a off (fun x => x.slt 0)
/-- BGEZ. -/
def execUBgez (core slot : Nat) (a : BitVec 4) (off : BitVec 8) (s : State) : Res := s.uBranch core slot 0x27 a off (fun x => !x.slt 0)
/-- BR. -/
def execUBr (core slot : Nat) (off : BitVec 8) (s : State) : Res := s.uBranch core slot 0x2B 0 off (fun _ => true)
/-- JR. -/
def execUJr (core slot : Nat) (a : BitVec 4) (s : State) : Res :=
  s.uRun core slot (.half (encR 0x28 0 a 0)) false (fun s u => .ok s u (.branch (UPos.at0 (u.greg a.toNat).toNat) true .keep))

/-- A call to a target: RSTACK_OVERFLOW at the limit, before the call or its slot executes. -/
def uCall (c : Code) (target : UPos) (s : State) (u : UCtx) : UAns UFlow :=
  if u.creg crRslim ≤ u.creg crCsp then .exc s u (uexc 9) else .ok s u (.branch target true (.push (u.afterSlot c)))

/-- CALLR. -/
def execUCallr (core slot : Nat) (a : BitVec 4) (s : State) : Res :=
  let c : Code := .half (encR 0x29 0 a 0)
  s.uRun core slot c false (fun s u => uCall c (UPos.at0 (u.greg a.toNat).toNat) s u)

/-- RET. -/
def execURet (core slot : Nat) (s : State) : Res :=
  s.uRun core slot (.half (encX 0x2A 0)) false (fun s u =>
    match s.rsPeek core slot u 0 with
    | none => .exc s u (uexc 10)
    | some e => if rsKind e = 0 then .ok s u (.branch (rsPos e) true .pop) else .exc s u uIllegal)

/-! ### Long forms -/

/-- LIL. -/
def execULil (core slot : Nat) (d : BitVec 4) (imm : BitVec 22) (s : State) : Res :=
  s.uRun core slot (.word (encL 0x38 d 0 imm)) false (fun s u => .ok s (u.setG d.toNat (sext36 imm)) .seq)
/-- LUI: bits [35:22] of Gd. -/
def execULui (core slot : Nat) (d : BitVec 4) (imm : BitVec 14) (s : State) : Res :=
  s.uRun core slot (.word (encL 0x39 d 0 (imm.zeroExtend 22))) false (fun s u =>
    .ok s (u.setG d.toNat (imm ++ (u.greg d.toNat).extractLsb' 0 22)) .seq)
/-- ADDIL. -/
def execUAddil (core slot : Nat) (d a : BitVec 4) (imm : BitVec 22) (s : State) : Res :=
  s.uRun core slot (.word (encL 0x3A d a imm)) false (fun s u => .ok s (u.setG d.toNat (u.greg a.toNat + sext36 imm)) .seq)

/-- Digits of a size of LSL. -/
def lslDigits (size : BitVec 2) : Nat := [1, 2, 9, 18].getD size.toNat 1

/-- LSL: a load or store of a digit, byte, word or pair at a signed digit offset. -/
def execULsl (core slot : Nat) (d a : BitVec 4) (size : BitVec 2) (store : BitVec 1) (off : BitVec 19) (s : State) : Res :=
  s.uRun core slot (.word (encL 0x3B d a (size ++ store ++ off))) false (fun s u =>
    let m := lslDigits size
    let addr := u.dataAddr a.toNat off.toInt
    if size = 3 && d.toNat % 2 = 1 then .exc s u uIllegal
    else if store = 1 then
      (s.uStore core u addr m (if size = 3 then u.pair d.toNat else (u.greg d.toNat).toNat)).andThen (fun s u _ => .ok s u .seq)
    else (s.uLoad core u addr m).andThen (fun s u n =>
      .ok s (if size = 3 then u.setPair d.toNat n else u.setG d.toNat (BitVec.ofNat 36 n)) .seq))

/-- The condition of BCMP; none is reserved. -/
def bcmpCond (c : BitVec 3) (x y : UWord) : Option Bool :=
  match c.toNat with
  | 0 => some (x == y)
  | 1 => some (x != y)
  | 2 => some (x.slt y)
  | 3 => some (!x.slt y)
  | 4 => some (x.ult y)
  | 5 => some (!x.ult y)
  | _ => none

/-- BCMP: Ga against Gb, whose number is in the d field. -/
def execUBcmp (core slot : Nat) (a b : BitVec 4) (cond : BitVec 3) (off : BitVec 19) (s : State) : Res :=
  s.uRun core slot (.word (encL 0x3C b a (cond ++ off))) false (fun s u =>
    match bcmpCond cond (u.greg a.toNat) (u.greg b.toNat) with
    | none => .exc s u uIllegal
    | some t => .ok s u (.branch (u.pos.move off.toInt) t .keep))

/-- BRL: a long branch (d 0) or call (d 1). -/
def execUBrl (core slot : Nat) (d : BitVec 4) (off : BitVec 22) (s : State) : Res :=
  let c : Code := .word (encL 0x3D d 0 off)
  s.uRun core slot c false (fun s u =>
    if d = 0 then .ok s u (.branch (u.pos.move off.toInt) true .keep)
    else if d = 1 then uCall c (u.pos.move off.toInt) s u
    else .exc s u uIllegal)

end Sys2Proof.Machine
end

