-- ==== Sys2Proof/Machine/UVec.lean ====
section
/-! DEFINITION. Uliar vector and floating-point instructions (R409, R425 to R430, Table 14-4). -/

namespace Sys2Proof.Machine

/-! ### Elements (R425, R426) -/

/-- Element size and vector length in force. -/
def UCtx.sew (u : UCtx) : Nat := bits (u.creg crVcfg) 8 2
def UCtx.vl (u : UCtx) : Nat := bits (u.creg crVcfg) 0 8
/-- VLMAX of an element size. -/
def vlMax (sew : Nat) : Nat := match sew with | 0 => 144 | 1 => 16 | _ => 8
/-- Digits of an element. -/
def elemDigits (sew : Nat) : Nat := match sew with | 0 => 1 | 1 => 9 | _ => 18
/-- Where element i of Vk lies: its F register and its lowest bit. -/
def elemAt (sew k i : Nat) : Nat × Nat := match sew with
  | 0 => (8 * k + i / 18, 4 * (i % 18))
  | 1 => (8 * k + i / 2, 36 * (i % 2))
  | _ => (8 * k + i, 0)
/-- An element as a number. -/
def UCtx.elem (u : UCtx) (sew k i : Nat) : Nat :=
  let (f, b) := elemAt sew k i
  bits (u.freg f).toNat b (4 * elemDigits sew)
/-- Set an element. -/
def UCtx.setElem (u : UCtx) (sew k i v : Nat) : UCtx :=
  let (f, b) := elemAt sew k i
  let n := (u.freg f).toNat
  let w := 4 * elemDigits sew
  u.setF f (BitVec.ofNat 72 (n - 2 ^ b * bits n b w + 2 ^ b * (v % 2 ^ w)))

/-- Elements from ULR_VXI on, below VL (R426, R430). -/
def UCtx.elems (u : UCtx) : List Nat := (List.range u.vl).filter (fun i => decide (u.creg crVxi ≤ i))
/-- A completed vector instruction writes 0 to ULR_VXI; one with VL = 0 does nothing. -/
def UCtx.vdone (u : UCtx) : UCtx := if u.vl = 0 then u else u.setCreg crVxi 0

/-- VSETL: the element size and the length; Gd takes the length. -/
def execUVsetl (core slot : Nat) (d a b : BitVec 4) (s : State) : Res :=
  s.uRun core slot (.half (encR 0x30 d a b)) true (fun s u =>
    if 2 < b.toNat then .exc s u uIllegal
    else
      let n := min (u.greg a.toNat).toNat (vlMax b.toNat)
      .ok s ((u.setCreg crVcfg (n + 2 ^ 8 * b.toNat)).setG d.toNat (BitVec.ofNat 36 n)) .seq)

/-- An elementwise operation: `f` takes elements of Vd, Va and Vb. -/
def UCtx.vmap (u : UCtx) (vd va vb : Nat) (f : Nat → Nat → Nat → Nat) : UCtx :=
  (u.elems.foldl (fun (x : UCtx) i => x.setElem u.sew vd i (f (u.elem u.sew vd i) (u.elem u.sew va i) (u.elem u.sew vb i))) u).vdone

/-! ### Vector arithmetic -/

/-- VINT on elements of w bits. -/
def vintOp (f w x y : Nat) : Nat :=
  match f with
  | 0 => x + y
  | 1 => ofInt w ((x : Int) - y)
  | 2 => x &&& y
  | 3 => x ||| y
  | 4 => x ^^^ y
  | 5 => x * y
  | 6 => if sInt w x ≤ sInt w y then x else y
  | _ => if sInt w x ≤ sInt w y then y else x

/-- VINT. -/
def execUVint (core slot : Nat) (vd va vb f : BitVec 3) (s : State) : Res :=
  s.uRun core slot (.half (encV 0x31 vd va vb f)) true (fun s u =>
    if u.sew = 1 || u.sew = 2 then
      .ok s (u.vmap vd.toNat va.toNat vb.toNat (fun _ x y => vintOp f.toNat (4 * elemDigits u.sew) x y)) .seq
    else .exc s u uIllegal)

/-- VFP on binary64 values. -/
def vfpOp (f : Nat) (d x y : BitVec 64) : BitVec 64 :=
  match f with
  | 0 => f64Add x y
  | 1 => f64Sub x y
  | 2 => f64Mul x y
  | 3 => f64Div x y
  | 4 => f64MinMax false x y
  | 5 => f64MinMax true x y
  | _ => f64Fma d x y

/-- VFP; function 7 is reserved. -/
def execUVfp (core slot : Nat) (vd va vb f : BitVec 3) (s : State) : Res :=
  s.uRun core slot (.half (encV 0x32 vd va vb f)) true (fun s u =>
    if u.sew = 2 && f != 7 then
      .ok s (u.vmap vd.toNat va.toNat vb.toNat (fun d x y => (vfpOp f.toNat (BitVec.ofNat 64 d) (BitVec.ofNat 64 x) (BitVec.ofNat 64 y)).toNat)) .seq
    else .exc s u uIllegal)

/-- VDIG on digits. -/
def vdigOp (f x y : Nat) : Nat :=
  match f with
  | 0 => if x = y then 1 else 0
  | 1 => if x < y then 1 else 0
  | 2 => min x y
  | 3 => max x y
  | _ => (x + y) % 16

/-- VDIG; functions 5 to 7 are reserved. -/
def execUVdig (core slot : Nat) (vd va vb f : BitVec 3) (s : State) : Res :=
  s.uRun core slot (.half (encV 0x33 vd va vb f)) true (fun s u =>
    if u.sew = 0 && decide (f.toNat ≤ 4) then .ok s (u.vmap vd.toNat va.toNat vb.toNat (fun _ x y => vdigOp f.toNat x y)) .seq
    else .exc s u uIllegal)

/-! ### Vector memory (R428 to R430) -/

/-- One element's access: its number, address, and, for a store, its value. -/
structure VElem where
  i : Nat
  addr : Nat
  val : Nat

/-- Do element accesses in order until one faults. -/
def vrun (core : Nat) (vd : Nat) (store : Bool) : List VElem → State → UCtx → UAns Unit
  | [], s, u => .ok s u ()
  | x :: l, s, u =>
    let m := elemDigits u.sew
    if store then (s.uStore core u x.addr m x.val).andThen (fun s u _ => vrun core vd store l s u)
    else (s.uLoad core u x.addr m).andThen (fun s u n => vrun core vd store l s (u.setElem u.sew vd x.i n))

/-- The number of elements done before the fault. -/
def vfault (core : Nat) (vd : Nat) (store : Bool) : List VElem → State → UCtx → Nat
  | [], _, _ => 0
  | x :: l, s, u =>
    match vrun core vd store [x] s u with
    | .ok s u _ => vfault core vd store l s u + 1
    | .exc _ _ _ | .halted _ => 0

/-- A vector memory instruction over its elements. A fault at element k commits those before it in BOOT and MAINTENANCE, with k in ULR_VXI; in SERVICE and DETACHED it leaves 0
there, and which elements before k were committed is open. -/
def vmem (core : Nat) (vd : Nat) (store : Bool) (l : List VElem) (s : State) (u : UCtx) : UAns UFlow :=
  match vrun core vd store l s u with
  | .ok s u _ => .ok s u.vdone .seq
  | .halted s => .halted s
  | .exc s' u' x =>
    let n := vfault core vd store l s u
    let k := ((l[n]?).map (·.i)).getD 0
    if s.mode == .boot || s.mode == .maintenance then .exc s' (u'.setCreg crVxi k) x
    else
      let (q, s1) := s.draw
      match vrun core vd store ((l.take n).filter (fun e => Config.freeBit q e.i)) s1 u with
      | .ok s2 u2 _ =>
        -- what the faulting access itself left behind (the fault's own record) is that of the access in order
        (match vrun core vd store ((l.drop n).take 1) s2 u2 with
        | .exc s3 u3 y => .exc s3 (u3.setCreg crVxi 0) y
        | .ok s3 u3 _ => .exc s3 (u3.setCreg crVxi 0) x
        | .halted s3 => .halted s3)
      | .exc s2 u2 y => .exc s2 (u2.setCreg crVxi 0) y
      | .halted s2 => .halted s2

/-- Elements of a strided access: Ga + i × Gb, or consecutive elements for b = 0. -/
def UCtx.strided (u : UCtx) (vd a b : Nat) : List VElem :=
  let step := if b = 0 then elemDigits u.sew else (u.greg b).toNat
  u.elems.map (fun i => ⟨i, wrap36 ((u.greg a).toNat + i * step), u.elem u.sew vd i⟩)

/-- Elements of an indexed access: Ga + word element i of Vb. -/
def UCtx.indexed (u : UCtx) (vd a vb : Nat) : List VElem :=
  u.elems.map (fun i => ⟨i, wrap36 ((u.greg a).toNat + u.elem 1 vb i), u.elem u.sew vd i⟩)

/-- VLD. -/
def execUVld (core slot : Nat) (vd : BitVec 3) (a b : BitVec 4) (s : State) : Res :=
  s.uRun core slot (.half (encVM 0x34 vd a b)) true (fun s u => vmem core vd.toNat false (u.strided vd.toNat a.toNat b.toNat) s u)
/-- VST. -/
def execUVst (core slot : Nat) (vd : BitVec 3) (a b : BitVec 4) (s : State) : Res :=
  s.uRun core slot (.half (encVM 0x35 vd a b)) true (fun s u => vmem core vd.toNat true (u.strided vd.toNat a.toNat b.toNat) s u)
/-- VGATHER: Vd must not be Vb, in every mode (R428). -/
def execUVgather (core slot : Nat) (vd : BitVec 3) (a : BitVec 4) (vb : BitVec 3) (s : State) : Res :=
  s.uRun core slot (.half (encVX 0x36 vd a vb)) true (fun s u =>
    if vd = vb || (u.sew != 1 && u.sew != 2) then .exc s u uIllegal
    else vmem core vd.toNat false (u.indexed vd.toNat a.toNat vb.toNat) s u)
/-- VSCATTER. -/
def execUVscatter (core slot : Nat) (vd : BitVec 3) (a : BitVec 4) (vb : BitVec 3) (s : State) : Res :=
  s.uRun core slot (.half (encVX 0x37 vd a vb)) true (fun s u =>
    if u.sew != 1 && u.sew != 2 then .exc s u uIllegal
    else vmem core vd.toNat true (u.indexed vd.toNat a.toNat vb.toNat) s u)

/-! ### Scalar floating point (R409) -/

/-- The binary64 value of an F register. -/
def UCtx.fp (u : UCtx) (i : Nat) : BitVec 64 := (u.freg i).extractLsb' 0 64
/-- Set an F register to a floating-point result: bits [71:64] are 0. -/
def UCtx.setFp (u : UCtx) (i : Nat) (x : BitVec 64) : UCtx := u.setF i (x.zeroExtend 72)

/-- The fields of FOP. -/
structure FopFields where
  fd : Nat
  fa : Nat
  fb : Nat
  g : Nat
  h : Nat

/-- Are the fields that a function of FOP does not use 0, and h legal? -/
def fopOk (func : Nat) (x : FopFields) : Bool :=
  match func with
  | 0 | 1 | 2 | 3 | 5 | 6 => x.g == 0 && x.h == 0
  | 4 | 7 => x.fb == 0 && x.g == 0 && x.h == 0
  | 8 => x.fa == 0 && x.fb == 0 && x.h == 0
  | 9 => x.fd == 0 && x.fb == 0 && x.h == 0
  | 10 | 11 => x.fd == 0 && x.h == 0
  | 12 => x.fa == 0 && x.fb == 0 && decide (x.h < 2)
  | 13 => x.fd == 0 && x.fb == 0 && decide (x.h < 2)
  | _ => false

/-- FCVT.F2I as 36 bits. -/
def f2i (x : BitVec 64) : UWord := BitVec.ofInt 36 (f64ToInt x)

/-- A function of FOP. -/
def UCtx.fop (u : UCtx) (func : Nat) (x : FopFields) : UCtx :=
  let a := u.fp x.fa
  let b := u.fp x.fb
  match func with
  | 0 => u.setFp x.fd (f64Add a b)
  | 1 => u.setFp x.fd (f64Sub a b)
  | 2 => u.setFp x.fd (f64Mul a b)
  | 3 => u.setFp x.fd (f64Div a b)
  | 4 => u.setFp x.fd (f64Sqrt a)
  | 5 => u.setFp x.fd (f64MinMax false a b)
  | 6 => u.setFp x.fd (f64MinMax true a b)
  | 7 => u.setF x.fd (u.freg x.fa)
  | 8 => u.setFp x.fd (f64OfInt (u.greg x.g).toInt)
  | 9 => u.setG x.g (f2i a)
  | 10 => u.setG x.g (flag36 (f64Cmp a b == some .lt))
  | 11 => u.setG x.g (flag36 (f64Cmp a b == some .eq))
  | 12 =>
    let d := u.freg x.fd
    u.setF x.fd (if x.h = 0 then d.extractLsb' 36 36 ++ u.greg x.g else u.greg x.g ++ d.extractLsb' 0 36)
  | _ => u.setG x.g ((u.freg x.fa).extractLsb' (36 * x.h) 36)

/-- FOP. -/
def execUFop (core slot : Nat) (fd fa fb func : BitVec 6) (g : BitVec 4) (h : BitVec 2) (s : State) : Res :=
  s.uRun core slot (.word (encLF 0x3E fd fa fb func g h)) false (fun s u =>
    let x : FopFields := ⟨fd.toNat, fa.toNat, fb.toNat, g.toNat, h.toNat⟩
    if fopOk func.toNat x then .ok s (u.fop func.toNat x) .seq else .exc s u uIllegal)

/-- FLS: an F register and 18 digits at Ga + off19. -/
def execUFls (core slot : Nat) (fd : BitVec 6) (a : BitVec 4) (st : BitVec 1) (off : BitVec 19) (s : State) : Res :=
  s.uRun core slot (.word (encLM 0x3F fd a st off)) false (fun s u =>
    let addr := u.dataAddr a.toNat off.toInt
    if st = 1 then (s.uStore core u addr 18 (u.freg fd.toNat).toNat).andThen (fun s u _ => .ok s u .seq)
    else (s.uLoad core u addr 18).andThen (fun s u n => .ok s (u.setF fd.toNat (BitVec.ofNat 72 n)) .seq))

end Sys2Proof.Machine
end

