-- ==== Sys2Proof/Machine/USys.lean ====
section
/-! DEFINITION. Uliar system instructions and control registers (R401, R408, R411, R421 to R423, R433, R436, R437, R443, R444, Tables 14-8 to 14-13). -/

namespace Sys2Proof.Machine

/-- A SYS instruction; a delay slot may hold only the fences (R418). -/
def State.uSys (s : State) (core slot : Nat) (sub : BitVec 4) (slotOk : Bool) (f : State → UCtx → UAns UFlow) : Res :=
  s.uRun core slot (.half (encX 0x2C sub)) slotOk f

/-- FENCE.W: the dirty words of the data-stack cache are written back; stores happen in order in this model. -/
def execUFenceW (core slot : Nat) (s : State) : Res := s.uSys core slot 0 true (fun s u => (s.cleanAll core u).andThen (fun s u _ => .ok s u .seq))
/-- FENCE.RW: loads and stores happen in order in this model. -/
def execUFenceRw (core slot : Nat) (s : State) : Res := s.uSys core slot 1 true (fun s u => .ok s u .seq)

/-- WAIT: a thread's entry waits for an event, and it goes on after the WAIT (R436); a management core stops issue until it takes a request (R431). -/
def execUWait (core slot : Nat) (s : State) : Res :=
  s.uSys core slot 2 false (fun s u =>
    if core < 128 then
      let s := s.setU (ctxKey core slot) { u with pos := u.pos.next }
      .ok (s.parkThread (ctxKey core slot)) u .done
    else .ok s { u with waiting := true } .seq)

/-- YIELD, on Uliar-T only. -/
def execUYield (core slot : Nat) (s : State) : Res :=
  s.uSys core slot 3 false (fun s u =>
    if core < 128 then
      let s := s.setU (ctxKey core slot) { u with pos := u.pos.next }
      .ok (s.yieldThread (ctxKey core slot) none) u .done
    else .exc s u uIllegal)

/-- ERET (R423, R419): exc clears, the level comes back from plevel; a slot is executed again and control then goes on at ULR_ETGT. -/
def execUEret (core slot : Nat) (s : State) : Res :=
  s.uSys core slot 4 false (fun s u =>
    if u.atX then .exc s u uPrivilege
    else
      let st := u.creg crStatus
      let c := u.creg crEcause
      let p : UPos := ⟨u.creg crEpc, bits c 6 1 == 1⟩
      let t : UPos := ⟨u.creg crEtgt, bits c 8 1 == 1⟩
      let u := u.setCreg crStatus (st - bits st 0 1 + bits st 1 1 - 4 * bits st 2 1)
      .ok s u (.goto p (if bits c 7 1 = 1 then some ⟨p, t, true, .keep⟩ else none)))

/-- IRET (R433), on Uliar-M only: the kind-2 entry over a kind-1 entry restores state and position. -/
def execUIret (core slot : Nat) (s : State) : Res :=
  s.uSys core slot 5 false (fun s u =>
    if u.atX then .exc s u uPrivilege
    else if core < 128 then .exc s u uIllegal
    else match s.rsPeek core slot u 0, s.rsPeek core slot u 1 with
      | some a, some b =>
        if rsKind a != 2 || rsKind b != 1 then .exc s u uIllegal
        else
          let v := a.toNat
          let st := u.creg crStatus
          let u := (u.rsPop).rsPop
          let u := (u.setCreg crStatus (st - bits st 0 9 + bits v 0 9)).setCreg crIsrc (bits v 9 14)
          .ok s u (.goto (rsPos b) none)
      | _, _ => .exc s u uIllegal)

/-- BRK. -/
def execUBrk (core slot : Nat) (s : State) : Res := s.uSys core slot 7 false (fun s u => .exc s u (uexc 11))

/-! ### Control registers -/

/-- Is the number one of Table 14-8? -/
def crKnown (n : Nat) : Bool := decide (n ≤ 0x0E) || (decide (0x10 ≤ n) && decide (n ≤ 0x2F))
/-- May extension code read it? -/
def crReadableX (n : Nat) : Bool := n == crVcfg || n == crVxi || n == crDsp || n == crCsp || n == crEvsrc || n == crTid

/-- The value of a control register; ULR_TID says where the context is. -/
def UCtx.crRead (u : UCtx) (core slot n : Nat) : Nat := if n = crTid then u.camp + 2 ^ 10 * slot + 2 ^ 15 * core else u.creg n

/-- CSRR. -/
def execUCsrr (core slot : Nat) (d : BitVec 4) (n : BitVec 8) (s : State) : Res :=
  s.uRun core slot (.half (encI 0x2E d n)) true (fun s u =>
    if !crKnown n.toNat then .exc s u uIllegal
    else if u.atX && !crReadableX n.toNat then .exc s u uPrivilege
    else .ok s (u.setG d.toNat (BitVec.ofNat 36 (u.crRead core slot n.toNat))) .seq)

/-- What a write of a control register stores: its fields (Tables 14-9 to 14-13), with values outside a field's range brought to its bounds. -/
def crMasked (n v : Nat) : Nat :=
  if n = crStatus then v % 2 ^ 9
  else if n = crEcause then v % 2 ^ 16
  else if n = crVcfg then
    let sew := bits v 8 2
    if sew = 3 then 0 else min (bits v 0 8) (vlMax sew) + 2 ^ 8 * sew
  else if n = crVxi then v % 2 ^ 8
  else if n = crRslim then max 1 (min v 4096)
  else if n = crIsrc then v % 2 ^ 14
  else if crAptb ≤ n && n < crAptl then v % 2 ^ 29
  else if crAptl ≤ n then (v % 2 ^ 21) - (if 32768 < v % 2 ^ 16 then v % 2 ^ 16 - 32768 else 0)
  else v

/-- The effect of CSRW: ULR_DSP writes back and empties the data-stack cache first (R411); an aperture register takes effect after every earlier access (R408); read-only registers keep
their value. -/
def State.crWrite (s : State) (core : Nat) (u : UCtx) (n v : Nat) : UAns UFlow :=
  if n = crCsp || n = crEvsrc || n = crTid then .ok s u .seq
  else if n = crDsp then (s.cleanAll core u).andThen (fun s u _ => .ok s ({ u with dcache := [] }.setCreg crDsp v) .seq)
  else if crAptl ≤ n && bits v 17 2 = 3 then .exc s u uIllegal
  else if crAptb ≤ n then (s.cleanAll core u).andThen (fun s u _ => .ok s (u.setCreg n (crMasked n v)) .seq)
  else .ok s (u.setCreg n (crMasked n v)) .seq

/-- CSRW. -/
def execUCsrw (core slot : Nat) (d : BitVec 4) (n : BitVec 8) (s : State) : Res :=
  s.uRun core slot (.half (encI 0x2F d n)) true (fun s u =>
    if !crKnown n.toNat then .exc s u uIllegal
    else if u.atX && n.toNat != crDsp then .exc s u uPrivilege
    else s.crWrite core u n.toNat (u.greg d.toNat).toNat)

end Sys2Proof.Machine
end

