-- ==== Sys2Proof/Machine/UEcall.lean ====
section
/-! DEFINITION. The firmware calls of Uliar code (R250, R441, R442, R480, Table 14-7). Firmware works on a call at once; a call that waits leaves its thread's entry WAITING. -/

namespace Sys2Proof.Machine

/-- Results in G1 to G6: the status, the result words, and open values in those of G2 to G6 that hold no result. -/
def State.ecallRet (s : State) (u : UCtx) (st : Nat) (r : List Nat) : State × UCtx :=
  let (k, s) := s.draw
  let u := (List.range 5).foldl (fun (u : UCtx) i =>
    u.setG (i + 2) (match r[i]? with
      | some v => BitVec.ofNat 36 v
      | none => BitVec.ofNat 36 ((Config.freeWord k).toNat / 2 ^ (5 * i)))) u
  (s, u.setG 1 (BitVec.ofNat 36 st))

/-- Go on after a call with results. -/
def ecallDone (s : State) (u : UCtx) (st : Nat) (r : List Nat) : UAns UFlow := let (s, u) := s.ecallRet u st r; .ok s u .seq

/-- ECALL: the call that stands at the position: its number is `n`, or undefined, which answers INVALID_OPCODE. A context without an invocation gets `bare`. -/
def State.uEcall (s0 : State) (core slot n : Nat) (bare : State → UCtx → UAns UFlow) (f : State → UCtx → Invocation → UAns UFlow) : Res :=
  if !s0.uReady core slot then .next s0 else
  match s0.uFetch core (s0.uctx (ctxKey core slot)) with
  | .ok _ u w =>
    let h := halfOf w u.pos.half
    let imm := bits h.toNat 0 8
    if h != encI 0x2D 0 (BitVec.ofNat 8 imm) then .next s0
    else if imm = 0 || 9 < imm then s0.uRun core slot (.half h) false (fun s u => ecallDone s u stInvalidOpcode [])
    else if imm != n then .next s0
    else s0.uRun core slot (.half h) false (fun s u => match u.inv with
      | some i => f s u i
      | none => bare s u)
  | .exc _ _ _ | .halted _ => s0.uRun core slot (.half (encI 0x2D 0 (BitVec.ofNat 8 n))) false (fun s u => .ok s u .seq)

/-- What a context that runs no invocation gets. -/
def noInvocation (s : State) (u : UCtx) : UAns UFlow := ecallDone s u stNotPermitted []

/-- Argument register i. -/
def UCtx.arg (u : UCtx) (i : Nat) : Nat := (u.greg i).toNat

/-- ECALL EXIT: the invocation ends with G1's status and the first G2 bytes of its result buffer; more than 64 KiB ends it with EXT_FAULT. A firmware thread just ends. -/
def execEcallExit (core slot : Nat) (s : State) : Res :=
  let key := ctxKey core slot
  s.uEcall core slot 1
    (fun s u => if core < 128 then
        let s := s.endThread key 0x03 0
        .ok { s with ulr := { s.ulr with ctxs := mdel key s.ulr.ctxs } } u .done
      else noInvocation s u)
    (fun s u _ =>
      let s := s.setU key u
      if 65536 < u.arg 2 then .ok (s.endInvocation key stExtFault []) u .done
      else match s.ecallRead core u (5 * 2 ^ 32) (u.arg 2) with
        | .error st => .ok (s.endInvocation key st []) u .done
        | .ok b => .ok (s.endInvocation key (u.arg 1 % 2 ^ 14) b) u .done)

/-- The status of data whose content declares `n` bytes of `len` given: too short, or a warning for an excess (R354). -/
def ecallLen (len n : Nat) : Except Nat Nat := if len < n then .error stLengthShort else .ok (if n < len then warnSt 0x008 else 0)

/-- ECALL PLAN_LOAD: as PLAN_LOAD, into the service Camp; `da` is where firmware puts its checked copy. -/
def execEcallPlanLoad (core slot da : Nat) (s : State) : Res :=
  s.uEcall core slot 2 noInvocation (fun s u i =>
    if u.arg 2 < 8 then ecallDone s u stLengthShort []
    else match s.ecallRead core u (u.arg 1) 8 with
      | .error st => ecallDone s u st []
      | .ok h => match imageLen h with
        | none => ecallDone s u stPlanMalformed []
        | some n => match ecallLen (u.arg 2) n with
          | .error st => ecallDone s u st []
          | .ok w => match s.ecallRead core u (u.arg 1) n with
            | .error st => ecallDone s u st []
            | .ok b => match s.loadPlan i.camp b da with
              | .error (st, _) => ecallDone s u st []
              | .ok (s, h) => ecallDone s u w [h])

/-- ECALL PLAN_DROP. -/
def execEcallPlanDrop (core slot : Nat) (s : State) : Res :=
  s.uEcall core slot 3 noInvocation (fun s u i => let (st, s) := s.doPlanDrop i.camp (u.arg 1); ecallDone s u st [])

/-- Does a result area lie in an aperture that permits stores? -/
def UCtx.resultOk (u : UCtx) (addr cap : Nat) : Bool :=
  addr == 0 || cap == 0 || (match u.aperture addr (2 * cap) .write false with | .ok _ => true | .error _ => false)

/-- ECALL EXECUTE: steps 1 to 5 and 7 of R224 under TOLERANT, then the execution, whose number the call returns. `homes` are the home clusters of its gapped dictionaries. -/
def execEcallExecute (core slot : Nat) (homes : List Nat) (s : State) : Res :=
  s.uEcall core slot 4 noInvocation (fun s u i =>
    if u.arg 3 < 8 then ecallDone s u stLengthShort []
    else match s.ecallRead core u (u.arg 2) 8 with
      | .error st => ecallDone s u st []
      | .ok h => match ecallLen (u.arg 3) (word32 h 1) with
        | .error st => ecallDone s u st []
        | .ok w =>
          if !blockHeadOk h || !u.resultOk (u.arg 4) (u.arg 5) then ecallDone s u stInvalidField []
          else match s.ecallRead core u (u.arg 2) (word32 h 1) with
            | .error st => ecallDone s u st []
            | .ok b => match s.bindPlan i.camp (u.arg 1) b with
              | .error e => ecallDone s u e.status []
              | .ok (ps, q, p, m) => match (s.planLost ps q).or (s.tablesLost i.camp p m) with
                | some s => ecallDone s u stDataLoss []
                | none => match s.startRun i.camp ps p m (.service core slot (u.arg 4) (u.arg 5)) 0 0xFFFF false homes with
                  | .error (st, _) => ecallDone s u st []
                  | .ok (s, id) => ecallDone s.dispatch { u with inv := some { i with execs := i.execs ++ [id] } } w [id])

/-- ECALL EXEC_WAIT: the status of an execution of this invocation, at once or when it is there; the thread waits until then. -/
def execEcallExecWait (core slot : Nat) (s : State) : Res :=
  let key := ctxKey core slot
  s.uEcall core slot 5 noInvocation (fun s u i =>
    let id := u.arg 1
    if !i.execs.contains id then ecallDone s u stInvalidField []
    else match mget id s.ulr.results with
      | some r =>
        let s := { s with ulr := { s.ulr with results := mdel id s.ulr.results } }
        ecallDone s (u.dropExec id) r.status [min r.dropped (2 ^ 36 - 1), r.handle, r.bytes]
      | none =>
        let (s, u) := s.ecallRet u 0 []
        let s := s.setU key { u with pos := u.pos.next, awaits := some (.exec id) }
        .ok (s.parkThread key) u .done)

/-- The Digest Engine of a core: its cluster's, or the root engine for a management core. -/
def engineOf (core : Nat) : Nat := if core < 128 then core / 8 else 16

/-- The last step of a message: the digest is compared or returned as this step says, and the thread waits for the engine. -/
def State.ecallDigestFinish (s : State) (key k n w : Nat) (u : UCtx) (b : Bytes) : UAns UFlow :=
  let s := s.rs .DGE_CTL_dest k (if bits w 8 1 = 1 then 2 else 0)
  let (b, s) := if bits w 8 1 = 1 then s.digestExpect k n b else (b, s)
  let s := (s.digestData k b).dgeFinish k
  let (s, u) := s.ecallRet u 0 []
  let s := s.setU key { u with pos := u.pos.next, awaits := some (.digest k) }
  .ok (s.parkThread key) u .done

/-- ECALL DIGEST: as DIGEST, on the engine of the cluster where the invocation runs (R480). -/
def execEcallDigest (core slot : Nat) (s : State) : Res :=
  let key := ctxKey core slot
  s.uEcall core slot 6 noInvocation (fun s u i =>
    let w := u.arg 1
    let alg := bits w 0 2
    let step := bits w 9 2
    let h := u.arg 2
    let e := engineOf core
    let k := 16 * e + bits h 0 4
    let x := s.dctx k
    let owned := match x.owner with | .thread _ _ => s.rg .DGE_CTL_camp k == i.camp | .regs | .command _ => false
    let mine := owned && s.rg .DGE_STAT_state k == 2 && x.gen == bits h 4 4 && !x.finish
    let cont := decide (2 ≤ step)
    let drop (s : State) : State := if cont && mine then s.dgeRelease k else s
    if w / 2 ^ 11 != 0 || alg = 3 then ecallDone (drop s) u stInvalidField []
    else match s.ecallRead core u (u.arg 3) (u.arg 4) with
      | .error st => ecallDone (drop s) u st []
      | .ok b =>
        if cont then
          if !mine then ecallDone s u stInvalidField []
          else if step = 2 then ecallDone (s.digestData k b) u 0 [0]
          else s.ecallDigestFinish key k (algOf x.alg).size w u b
        else if bits w 2 1 = 1 && !s.ownsSlot i.camp (bits w 3 5) then ecallDone s u stKeyNotFound []
        else match s.dgeClaim e (.thread core slot) with
          | (none, s) => ecallDone s u stBusy []
          | (some n, s) =>
            let k := 16 * e + n
            let s := (s.rs .DGE_CTL_alg k alg).dgeCtl k (bits w 0 8 + 2 ^ 10 * i.camp + 2 ^ 21)
            if s.rg .DGE_STAT_state k != 2 then ecallDone (s.dgeRelease k) u stKeyNotFound []
            else if step = 1 then ecallDone (s.digestData k b) u 0 [n + 16 * (s.dctx k).gen]
            else s.ecallDigestFinish key k (algOf alg).size w u b)

/-- ECALL RETAIN: a record with a status and a stream enters the service Camp's store (R246, R250). -/
def execEcallRetain (core slot : Nat) (s : State) : Res :=
  s.uEcall core slot 7 noInvocation (fun s u i =>
    match s.ecallRead core u (u.arg 2) (min (u.arg 3) (s.storeCapacity i.camp + 1)) with
    | .error st => ecallDone s u st []
    | .ok b =>
      let l : List Msg := if b.isEmpty then [] else [⟨b, 0, false⟩]
      let r : Record := ⟨0, i.service, true, i.number, u.arg 1 % 2 ^ 14, i.start, s.devtime, 0, 0, 0, l⟩
      let n := (mgetD Store.empty i.camp s.records).next
      if s.storeFree i.camp < r.size then ecallDone (s.loseRecord i.camp) u stRetainFull []
      else ecallDone (s.addRecord i.camp r) u 0 [n])

/-- ECALL DEVTIME. -/
def execEcallDevtime (core slot : Nat) (s : State) : Res :=
  let f (s : State) (u : UCtx) : UAns UFlow := ecallDone s u 0 [bits s.devtime.toNat 0 36, bits s.devtime.toNat 36 28]
  s.uEcall core slot 8 f (fun s u _ => f s u)

/-- ECALL HANDLER: register a handler in aperture 0, or remove it with 0. -/
def execEcallHandler (core slot : Nat) (s : State) : Res :=
  s.uEcall core slot 9 noInvocation (fun s u i =>
    let a := u.arg 1
    let ok := a == 0 || (a / 2 ^ 32 == 0 && (match u.aperture a 9 .fetch false with | .ok _ => true | .error _ => false))
    if ok then ecallDone s { u with inv := some { i with handler := a } } 0 [] else ecallDone s u stInvalidField [])

end Sys2Proof.Machine
end

