-- ==== Sys2Proof/Machine/Dispatch.lean ====
section
/-! DEFINITION. The dispatch: one arm for each command, a direct call of its meaning. -/

namespace Sys2Proof.Machine

/-- The effect of a command on everything but the queue. -/
def exec (i : Instr) (s : State) : Host.Outcome State Fault Refusal :=
  match i with
  | .resetNAssert ticks => Sys2Proof.Machine.execResetNAssert ticks s
  | .resetNDeassert => Sys2Proof.Machine.execResetNDeassert s
  | .pwrgdAonDeassert ticks => Sys2Proof.Machine.execPwrgdAonDeassert ticks s
  | .pwrgdAonAssert => Sys2Proof.Machine.execPwrgdAonAssert s
  | .pwrgdMainDeassert ticks => Sys2Proof.Machine.execPwrgdMainDeassert ticks s
  | .pwrgdMainAssert => Sys2Proof.Machine.execPwrgdMainAssert s
  | .endOfReset dt strapBoot strapDbg => Sys2Proof.Machine.execEndOfReset dt strapBoot strapDbg s
  | .bootRomStart b => Sys2Proof.Machine.execBootRomStart b s
  | .prochotAssert ticks => Sys2Proof.Machine.execProchotAssert ticks s
  | .prochotDeassert ticks => Sys2Proof.Machine.execProchotDeassert ticks s
  | .thermalTrip site => Sys2Proof.Machine.execThermalTrip site s
  | .gpioEdge pin ticks level rise fall => Sys2Proof.Machine.execGpioEdge pin ticks level rise fall s
  | .configRequest f q => Sys2Proof.Machine.execConfigRequest f q s
  | .linkUp dt gen width flit vc1 tag14 ats => Sys2Proof.Machine.execLinkUp dt gen width flit vc1 tag14 ats s
  | .linkDown => Sys2Proof.Machine.execLinkDown s
  | .perstAssert => Sys2Proof.Machine.execPerstAssert s
  | .perstDeassert refclkOk => Sys2Proof.Machine.execPerstDeassert refclkOk s
  | .functionLevelReset f => Sys2Proof.Machine.execFunctionLevelReset f s
  | .vfEnable n => Sys2Proof.Machine.execVfEnable n s
  | .vfDisable => Sys2Proof.Machine.execVfDisable s
  | .hifEnable f => Sys2Proof.Machine.execHifEnable f s
  | .hifDisable f => Sys2Proof.Machine.execHifDisable f s
  | .ptmMeasure dt master => Sys2Proof.Machine.execPtmMeasure dt master s
  | .unsupportedHostAccess f bar off size write => Sys2Proof.Machine.execUnsupportedHostAccess f bar off size write s
  | .sqTailDoorbell f q size v => Sys2Proof.Machine.execSqTailDoorbell f q size v s
  | .cqHeadDoorbell f q size v => Sys2Proof.Machine.execCqHeadDoorbell f q size v s
  | .resultRingPostDoorbell f r size v es => Sys2Proof.Machine.execResultRingPostDoorbell f r size v es s
  | .sqFetch entry sgl => Sys2Proof.Machine.execSqFetch entry sgl s
  | .cqWrite f q => Sys2Proof.Machine.execCqWrite f q s
  | .retainedCompletionPost c => Sys2Proof.Machine.execRetainedCompletionPost c s
  | .coalesceTimeout dt f isRing q => Sys2Proof.Machine.execCoalesceTimeout dt f isRing q s
  | .msixVectorUnmask f v => Sys2Proof.Machine.execMsixVectorUnmask f v s
  | .resultBufferComplete f r sq cid => Sys2Proof.Machine.execResultBufferComplete f r sq cid s
  | .resultBufferTimeout dt f r sq cid => Sys2Proof.Machine.execResultBufferTimeout dt f r sq cid s
  | .challengeExpiry dt c => Sys2Proof.Machine.execChallengeExpiry dt c s
  | .challengeLockoutEnd dt c => Sys2Proof.Machine.execChallengeLockoutEnd dt c s
  | .ideCheckFailed stream => Sys2Proof.Machine.execIdeCheckFailed stream s
  | .ideKm sess m => Sys2Proof.Machine.execIdeKm sess m s
  | .doeDiscovery idx => Sys2Proof.Machine.execDoeDiscovery idx s
  | .identify r => Sys2Proof.Machine.execIdentify r s
  | .getLog r => Sys2Proof.Machine.execGetLog r s
  | .getFeature r => Sys2Proof.Machine.execGetFeature r s
  | .setFeature r => Sys2Proof.Machine.execSetFeature r s
  | .sqCreate r => Sys2Proof.Machine.execSqCreate r s
  | .sqDelete r => Sys2Proof.Machine.execSqDelete r s
  | .cqCreate r => Sys2Proof.Machine.execCqCreate r s
  | .cqDelete r => Sys2Proof.Machine.execCqDelete r s
  | .ringCreate r => Sys2Proof.Machine.execRingCreate r s
  | .ringDelete r => Sys2Proof.Machine.execRingDelete r s
  | .campCreate r data id root units es => Sys2Proof.Machine.execCampCreate r data id root units es s
  | .campDestroy r => Sys2Proof.Machine.execCampDestroy r s
  | .teardownComplete c => Sys2Proof.Machine.execTeardownComplete c s
  | .campRation r data => Sys2Proof.Machine.execCampRation r data s
  | .attachChallenge r => Sys2Proof.Machine.execAttachChallenge r s
  | .attachProve r data => Sys2Proof.Machine.execAttachProve r data s
  | .abort r => Sys2Proof.Machine.execAbort r s
  | .keyLoad r data => Sys2Proof.Machine.execKeyLoad r data s
  | .securitySend r data => Sys2Proof.Machine.execSecuritySend r data s
  | .securityRecv r => Sys2Proof.Machine.execSecurityRecv r s
  | .activate r data => Sys2Proof.Machine.execActivate r data s
  | .maintEnter r data => Sys2Proof.Machine.execMaintEnter r data s
  | .maintExit r => Sys2Proof.Machine.execMaintExit r s
  | .drainComplete => Sys2Proof.Machine.execDrainComplete s
  | .drainTimeout dt => Sys2Proof.Machine.execDrainTimeout dt s
  | .planLoad r data da => Sys2Proof.Machine.execPlanLoad r data da s
  | .planDrop r => Sys2Proof.Machine.execPlanDrop r s
  | .execute r data homes => Sys2Proof.Machine.execExecute r data homes s
  | .resultFetch r => Sys2Proof.Machine.execResultFetch r s
  | .ingest r data msgs ch => Sys2Proof.Machine.execIngest r data msgs ch s
  | .digest r data => Sys2Proof.Machine.execDigest r data s
  | .standingSet r data => Sys2Proof.Machine.execStandingSet r data s
  | .standingClear r => Sys2Proof.Machine.execStandingClear r s
  | .extCall r data v => Sys2Proof.Machine.execExtCall r data v s
  | .flush r => Sys2Proof.Machine.execFlush r s
  | .standingDue dt id homes => Sys2Proof.Machine.execStandingDue dt id homes s
  | .serviceTimerDue dt n v => Sys2Proof.Machine.execServiceTimerDue dt n v s
  | .extTimeout dt core slot => Sys2Proof.Machine.execExtTimeout dt core slot s
  | .executionComplete id chs => Sys2Proof.Machine.execExecutionComplete id chs s
  | .fenceFire id f => Sys2Proof.Machine.execFenceFire id f s
  | .exchEndFire id op dest => Sys2Proof.Machine.execExchEndFire id op dest s
  | .resultBatch die tag => Sys2Proof.Machine.execResultBatch die tag s
  | .tokenHeader n tag da => Sys2Proof.Machine.execTokenHeader n tag da s
  | .tokenRelease n => Sys2Proof.Machine.execTokenRelease n s
  | .overflowReadmit camp die fenceLane tag da => Sys2Proof.Machine.execOverflowReadmit camp die fenceLane tag da s
  | .threadEventToken n => Sys2Proof.Machine.execThreadEventToken n s
  | .taskComplete die tag m => Sys2Proof.Machine.execTaskComplete die tag m s
  | .entryFree dt die tag => Sys2Proof.Machine.execEntryFree dt die tag s
  | .cancelNet id => Sys2Proof.Machine.execCancelNet id s
  | .taskStopAtBoundary die tag m => Sys2Proof.Machine.execTaskStopAtBoundary die tag m s
  | .xdieWaitExpiry dt die tag => Sys2Proof.Machine.execXdieWaitExpiry dt die tag s
  | .quantumExpiry dt core slot => Sys2Proof.Machine.execQuantumExpiry dt core slot s
  | .rationPeriod dt => Sys2Proof.Machine.execRationPeriod dt s
  | .rationExhausted dt camp k => Sys2Proof.Machine.execRationExhausted dt camp k s
  | .governorPeriod dt m => Sys2Proof.Machine.execGovernorPeriod dt m s
  | .thawComplete dt c => Sys2Proof.Machine.execThawComplete dt c s
  | .frozenColdEntry dt c => Sys2Proof.Machine.execFrozenColdEntry dt c s
  | .avsComplete port => Sys2Proof.Machine.execAvsComplete port s
  | .avsTimeout dt port => Sys2Proof.Machine.execAvsTimeout dt port s
  | .scanHeaderRead die tag c => Sys2Proof.Machine.execScanHeaderRead die tag c s
  | .checkTableRead die tag c => Sys2Proof.Machine.execCheckTableRead die tag c s
  | .planeFetch die tag c idx => Sys2Proof.Machine.execPlaneFetch die tag c idx s
  | .dictTermReduction die tag term side => Sys2Proof.Machine.execDictTermReduction die tag term side s
  | .heapCompare die tag term row => Sys2Proof.Machine.execHeapCompare die tag term row s
  | .stripRowGroup die tag ecc => Sys2Proof.Machine.execStripRowGroup die tag ecc s
  | .stringCast die tag op row => Sys2Proof.Machine.execStringCast die tag op row s
  | .hashGroup die tag => Sys2Proof.Machine.execHashGroup die tag s
  | .bucketInsert die tag da lost => Sys2Proof.Machine.execBucketInsert die tag da lost s
  | .probeLookup die tag da lost => Sys2Proof.Machine.execProbeLookup die tag da lost s
  | .spillPartition die tag das => Sys2Proof.Machine.execSpillPartition die tag das s
  | .spillPass die tag das => Sys2Proof.Machine.execSpillPass die tag das s
  | .chunkJoin die tag das => Sys2Proof.Machine.execChunkJoin die tag das s
  | .unmatchedScan die tag => Sys2Proof.Machine.execUnmatchedScan die tag s
  | .batchFold die tag => Sys2Proof.Machine.execBatchFold die tag s
  | .groupMerge die tag da lost => Sys2Proof.Machine.execGroupMerge die tag da lost s
  | .groupPassMerge die tag das => Sys2Proof.Machine.execGroupPassMerge die tag das s
  | .aggregateFinalise die tag => Sys2Proof.Machine.execAggregateFinalise die tag s
  | .runFormation die tag das => Sys2Proof.Machine.execRunFormation die tag das s
  | .mergePass die tag das => Sys2Proof.Machine.execMergePass die tag das s
  | .exchangeSend die tag => Sys2Proof.Machine.execExchangeSend die tag s
  | .exchangeFlushTimeout dt id op tile dest => Sys2Proof.Machine.execExchangeFlushTimeout dt id op tile dest s
  | .ternarySearch q p => Sys2Proof.Machine.execTernarySearch q p s
  | .ternaryStep q above p => Sys2Proof.Machine.execTernaryStep q above p s
  | .ternaryScrub cl p => Sys2Proof.Machine.execTernaryScrub cl p s
  | .dictLookup q lost => Sys2Proof.Machine.execDictLookup q lost s
  | .dictFloor q lost => Sys2Proof.Machine.execDictFloor q lost s
  | .dictInsert q lost => Sys2Proof.Machine.execDictInsert q lost s
  | .dictDelete q lost => Sys2Proof.Machine.execDictDelete q lost s
  | .dictScan q span lost => Sys2Proof.Machine.execDictScan q span lost s
  | .automatonSearch q off lost => Sys2Proof.Machine.execAutomatonSearch q off lost s
  | .automatonStep q off stop pattern lost => Sys2Proof.Machine.execAutomatonStep q off stop pattern lost s
  | .translationWalk q camp v a exec => Sys2Proof.Machine.execTranslationWalk q camp v a exec s
  | .cacheAccess cl camp exec da cls wr p => Sys2Proof.Machine.execCacheAccess cl camp exec da cls wr p s
  | .fillComplete cl l ecc => Sys2Proof.Machine.execFillComplete cl l ecc s
  | .evictionWritebackDone cl l parityFail => Sys2Proof.Machine.execEvictionWritebackDone cl l parityFail s
  | .cacheFlush cl da lines all => Sys2Proof.Machine.execCacheFlush cl da lines all s
  | .cacheInvalidate cl da lines all => Sys2Proof.Machine.execCacheInvalidate cl da lines all s
  | .cacheFlushInval cl da lines all => Sys2Proof.Machine.execCacheFlushInval cl da lines all s
  | .cacheMaintDone cl => Sys2Proof.Machine.execCacheMaintDone cl s
  | .xltInval v => Sys2Proof.Machine.execXltInval v s
  | .xltInvalDone => Sys2Proof.Machine.execXltInvalDone s
  | .patrolScrub da ecc => Sys2Proof.Machine.execPatrolScrub da ecc s
  | .dmaPost ch v serves => Sys2Proof.Machine.execDmaPost ch v serves s
  | .dmaRingEnable ch base log2 camp => Sys2Proof.Machine.execDmaRingEnable ch base log2 camp s
  | .dmaRingDisable ch => Sys2Proof.Machine.execDmaRingDisable ch s
  | .dmaResume ch => Sys2Proof.Machine.execDmaResume ch s
  | .dmaReset ch => Sys2Proof.Machine.execDmaReset ch s
  | .dmaCopy ch => Sys2Proof.Machine.execDmaCopy ch s
  | .dmaZero ch => Sys2Proof.Machine.execDmaZero ch s
  | .dmaReadCompletion ch data ep => Sys2Proof.Machine.execDmaReadCompletion ch data ep s
  | .dmaIdleDrain dt ch => Sys2Proof.Machine.execDmaIdleDrain dt ch s
  | .dmaFlushReadReturn ch => Sys2Proof.Machine.execDmaFlushReadReturn ch s
  | .dmaCompletionWriteResponse ch => Sys2Proof.Machine.execDmaCompletionWriteResponse ch s
  | .dmaBusError ch kind => Sys2Proof.Machine.execDmaBusError ch kind s
  | .dmaCompletionTimeout dt ch => Sys2Proof.Machine.execDmaCompletionTimeout dt ch s
  | .evrPendWrite g v => Sys2Proof.Machine.execEvrPendWrite g v s
  | .eventDeliveryCommit target v => Sys2Proof.Machine.execEventDeliveryCommit target v s
  | .evrMaskWindowClose n => Sys2Proof.Machine.execEvrMaskWindowClose n s
  | .evrHoldoffExpiry dt g => Sys2Proof.Machine.execEvrHoldoffExpiry dt g s
  | .eventRequestTake idx => Sys2Proof.Machine.execEventRequestTake idx s
  | .evrClaimRead core => Sys2Proof.Machine.execEvrClaimRead core s
  | .evrDoneWrite core v => Sys2Proof.Machine.execEvrDoneWrite core v s
  | .dgeAllocRead e => Sys2Proof.Machine.execDgeAllocRead e s
  | .dgeStart e c v => Sys2Proof.Machine.execDgeStart e c v s
  | .dgeFeed e c da n => Sys2Proof.Machine.execDgeFeed e c da n s
  | .dgeFinish e c => Sys2Proof.Machine.execDgeFinish e c s
  | .dgeRelease e c => Sys2Proof.Machine.execDgeRelease e c s
  | .dgeBlock e => Sys2Proof.Machine.execDgeBlock e s
  | .dgeDone e c => Sys2Proof.Machine.execDgeDone e c s
  | .registerWrite p v => Sys2Proof.Machine.execRegisterWrite p v s
  | .rcRead p => Sys2Proof.Machine.execRcRead p s
  | .getVersion sess m => Sys2Proof.Machine.execGetVersion sess m s
  | .getCapabilities sess m => Sys2Proof.Machine.execGetCapabilities sess m s
  | .negotiateAlgorithms sess m => Sys2Proof.Machine.execNegotiateAlgorithms sess m s
  | .getDigests sess m => Sys2Proof.Machine.execGetDigests sess m s
  | .getCertificate sess m => Sys2Proof.Machine.execGetCertificate sess m s
  | .challenge sess m => Sys2Proof.Machine.execChallenge sess m s
  | .getMeasurements sess m => Sys2Proof.Machine.execGetMeasurements sess m s
  | .keyExchange sess m => Sys2Proof.Machine.execKeyExchange sess m s
  | .finish sess m => Sys2Proof.Machine.execFinish sess m s
  | .heartbeat sess m => Sys2Proof.Machine.execHeartbeat sess m s
  | .keyUpdate sess m => Sys2Proof.Machine.execKeyUpdate sess m s
  | .endSession sess m => Sys2Proof.Machine.execEndSession sess m s
  | .svnRaise sess m => Sys2Proof.Machine.execSvnRaise sess m s
  | .getStatus => Sys2Proof.Machine.execGetStatus s
  | .getErrlog off => Sys2Proof.Machine.execGetErrlog off s
  | .getCairn off => Sys2Proof.Machine.execGetCairn off s
  | .provisionOwner hash crc fused => Sys2Proof.Machine.execProvisionOwner hash crc fused s
  | .haltRestart b => Sys2Proof.Machine.execHaltRestart b s
  | .memTest lo hi pattern errors first left => Sys2Proof.Machine.execMemTest lo hi pattern errors first left s
  | .pldmSensorRead idx => Sys2Proof.Machine.execPldmSensorRead idx s
  | .pldmSetPowerCap w => Sys2Proof.Machine.execPldmSetPowerCap w s
  | .pldmDiscovery cmd => Sys2Proof.Machine.execPldmDiscovery cmd s
  | .mctpControl cmd => Sys2Proof.Machine.execMctpControl cmd s
  | .uIllegal core slot => Sys2Proof.Machine.execUIllegal core slot s
  | .uNop core slot => Sys2Proof.Machine.execUNop core slot s
  | .uAdd core slot d a b => Sys2Proof.Machine.execUAdd core slot d a b s
  | .uSub core slot d a b => Sys2Proof.Machine.execUSub core slot d a b s
  | .uAnd core slot d a b => Sys2Proof.Machine.execUAnd core slot d a b s
  | .uOr core slot d a b => Sys2Proof.Machine.execUOr core slot d a b s
  | .uXor core slot d a b => Sys2Proof.Machine.execUXor core slot d a b s
  | .uShl core slot d a b => Sys2Proof.Machine.execUShl core slot d a b s
  | .uShr core slot d a b => Sys2Proof.Machine.execUShr core slot d a b s
  | .uSar core slot d a b => Sys2Proof.Machine.execUSar core slot d a b s
  | .uMul core slot d a b => Sys2Proof.Machine.execUMul core slot d a b s
  | .uMulh core slot d a b => Sys2Proof.Machine.execUMulh core slot d a b s
  | .uDiv core slot d a b => Sys2Proof.Machine.execUDiv core slot d a b s
  | .uRem core slot d a b => Sys2Proof.Machine.execURem core slot d a b s
  | .uSlt core slot d a b => Sys2Proof.Machine.execUSlt core slot d a b s
  | .uSltu core slot d a b => Sys2Proof.Machine.execUSltu core slot d a b s
  | .uMov core slot d a => Sys2Proof.Machine.execUMov core slot d a s
  | .uAddi core slot d imm => Sys2Proof.Machine.execUAddi core slot d imm s
  | .uLi core slot d imm => Sys2Proof.Machine.execULi core slot d imm s
  | .uShli core slot d n => Sys2Proof.Machine.execUShli core slot d n s
  | .uShri core slot d n => Sys2Proof.Machine.execUShri core slot d n s
  | .uSari core slot d n => Sys2Proof.Machine.execUSari core slot d n s
  | .uLdg core slot d a b => Sys2Proof.Machine.execULdg core slot d a b s
  | .uLdb core slot d a b => Sys2Proof.Machine.execULdb core slot d a b s
  | .uLdw core slot d a b => Sys2Proof.Machine.execULdw core slot d a b s
  | .uLdp core slot d a b => Sys2Proof.Machine.execULdp core slot d a b s
  | .uStg core slot d a b => Sys2Proof.Machine.execUStg core slot d a b s
  | .uStb core slot d a b => Sys2Proof.Machine.execUStb core slot d a b s
  | .uStw core slot d a b => Sys2Proof.Machine.execUStw core slot d a b s
  | .uStp core slot d a b => Sys2Proof.Machine.execUStp core slot d a b s
  | .uPush core slot d => Sys2Proof.Machine.execUPush core slot d s
  | .uPop core slot d => Sys2Proof.Machine.execUPop core slot d s
  | .uDspadj core slot imm => Sys2Proof.Machine.execUDspadj core slot imm s
  | .uBz core slot a off => Sys2Proof.Machine.execUBz core slot a off s
  | .uBnz core slot a off => Sys2Proof.Machine.execUBnz core slot a off s
  | .uBltz core slot a off => Sys2Proof.Machine.execUBltz core slot a off s
  | .uBgez core slot a off => Sys2Proof.Machine.execUBgez core slot a off s
  | .uJr core slot a => Sys2Proof.Machine.execUJr core slot a s
  | .uCallr core slot a => Sys2Proof.Machine.execUCallr core slot a s
  | .uRet core slot => Sys2Proof.Machine.execURet core slot s
  | .uBr core slot off => Sys2Proof.Machine.execUBr core slot off s
  | .uFenceW core slot => Sys2Proof.Machine.execUFenceW core slot s
  | .uFenceRw core slot => Sys2Proof.Machine.execUFenceRw core slot s
  | .uWait core slot => Sys2Proof.Machine.execUWait core slot s
  | .uYield core slot => Sys2Proof.Machine.execUYield core slot s
  | .uEret core slot => Sys2Proof.Machine.execUEret core slot s
  | .uIret core slot => Sys2Proof.Machine.execUIret core slot s
  | .uBrk core slot => Sys2Proof.Machine.execUBrk core slot s
  | .uCsrr core slot d n => Sys2Proof.Machine.execUCsrr core slot d n s
  | .uCsrw core slot d n => Sys2Proof.Machine.execUCsrw core slot d n s
  | .uVsetl core slot d a b => Sys2Proof.Machine.execUVsetl core slot d a b s
  | .uVint core slot vd va vb f => Sys2Proof.Machine.execUVint core slot vd va vb f s
  | .uVfp core slot vd va vb f => Sys2Proof.Machine.execUVfp core slot vd va vb f s
  | .uVdig core slot vd va vb f => Sys2Proof.Machine.execUVdig core slot vd va vb f s
  | .uVld core slot vd a b => Sys2Proof.Machine.execUVld core slot vd a b s
  | .uVst core slot vd a b => Sys2Proof.Machine.execUVst core slot vd a b s
  | .uVgather core slot vd a vb => Sys2Proof.Machine.execUVgather core slot vd a vb s
  | .uVscatter core slot vd a vb => Sys2Proof.Machine.execUVscatter core slot vd a vb s
  | .uLil core slot d imm => Sys2Proof.Machine.execULil core slot d imm s
  | .uLui core slot d imm => Sys2Proof.Machine.execULui core slot d imm s
  | .uAddil core slot d a imm => Sys2Proof.Machine.execUAddil core slot d a imm s
  | .uLsl core slot d a size store off => Sys2Proof.Machine.execULsl core slot d a size store off s
  | .uBcmp core slot a b cond off => Sys2Proof.Machine.execUBcmp core slot a b cond off s
  | .uBrl core slot d off => Sys2Proof.Machine.execUBrl core slot d off s
  | .uFop core slot fd fa fb func g h => Sys2Proof.Machine.execUFop core slot fd fa fb func g h s
  | .uFls core slot fd a st off => Sys2Proof.Machine.execUFls core slot fd a st off s
  | .ecallExit core slot => Sys2Proof.Machine.execEcallExit core slot s
  | .ecallPlanLoad core slot da => Sys2Proof.Machine.execEcallPlanLoad core slot da s
  | .ecallPlanDrop core slot => Sys2Proof.Machine.execEcallPlanDrop core slot s
  | .ecallExecute core slot homes => Sys2Proof.Machine.execEcallExecute core slot homes s
  | .ecallExecWait core slot => Sys2Proof.Machine.execEcallExecWait core slot s
  | .ecallDigest core slot => Sys2Proof.Machine.execEcallDigest core slot s
  | .ecallRetain core slot => Sys2Proof.Machine.execEcallRetain core slot s
  | .ecallDevtime core slot => Sys2Proof.Machine.execEcallDevtime core slot s
  | .ecallHandler core slot => Sys2Proof.Machine.execEcallHandler core slot s
  | .linkTrainingFailure width => Sys2Proof.Machine.execLinkTrainingFailure width s
  | .unsupportedSpdmRequest sess m => Sys2Proof.Machine.execUnsupportedSpdmRequest sess m s
  | .malformedTlp kind => Sys2Proof.Machine.execMalformedTlp kind s

end Sys2Proof.Machine
end

