-- ==== Sys2Proof/Machine/Step.lean ====
section
/-! DEFINITION. One step: the command at the front of the queue takes effect on the rest of the state; on an empty queue one AON tick passes. -/

namespace Sys2Proof.Machine

/-- One step of the block (DESIGN CHOICE, log 2: with no command waiting, one AON tick passes and nothing else changes). -/
def step (s : State) : Host.Outcome State Fault Refusal :=
  match s.pending with
  | [] => .next (s.advance 1)
  | c :: rest => exec c { s with pending := rest }

/-- `s` with the command that a word spells at the front of its queue (no word spells one). -/
def State.withFetchWord (s : State) (nbits w : Nat) : State :=
  match decodeTableWord nbits w with
  | some c => { s with pending := c :: s.pending }
  | none => s

end Sys2Proof.Machine
end

