-- ==== Sys2Proof/Machine/UCode.lean ====
section
/-! DEFINITION. The codes of the Uliar commands (Tables 14-3 and 14-4): what stands in memory where a command is the next instruction of its context, and what command a word stands for. -/

namespace Sys2Proof.Machine

/-- The context and the code of a Uliar command; none: the command is no instruction with one code. -/
def uCode (i : Instr) : Option (Nat × Nat × Code) :=
  match i with
  | .uNop core slot => some (core, slot, .half (encX 0x01 0))
  | .uAdd core slot d a b => some (core, slot, .half (encR 0x02 d a b))
  | .uSub core slot d a b => some (core, slot, .half (encR 0x03 d a b))
  | .uAnd core slot d a b => some (core, slot, .half (encR 0x04 d a b))
  | .uOr core slot d a b => some (core, slot, .half (encR 0x05 d a b))
  | .uXor core slot d a b => some (core, slot, .half (encR 0x06 d a b))
  | .uShl core slot d a b => some (core, slot, .half (encR 0x07 d a b))
  | .uShr core slot d a b => some (core, slot, .half (encR 0x08 d a b))
  | .uSar core slot d a b => some (core, slot, .half (encR 0x09 d a b))
  | .uMul core slot d a b => some (core, slot, .half (encR 0x0A d a b))
  | .uMulh core slot d a b => some (core, slot, .half (encR 0x0B d a b))
  | .uDiv core slot d a b => some (core, slot, .half (encR 0x0C d a b))
  | .uRem core slot d a b => some (core, slot, .half (encR 0x0D d a b))
  | .uSlt core slot d a b => some (core, slot, .half (encR 0x0E d a b))
  | .uSltu core slot d a b => some (core, slot, .half (encR 0x0F d a b))
  | .uLdg core slot d a b => some (core, slot, .half (encR 0x18 d a b))
  | .uLdb core slot d a b => some (core, slot, .half (encR 0x19 d a b))
  | .uLdw core slot d a b => some (core, slot, .half (encR 0x1A d a b))
  | .uLdp core slot d a b => some (core, slot, .half (encR 0x1B d a b))
  | .uStg core slot d a b => some (core, slot, .half (encR 0x1C d a b))
  | .uStb core slot d a b => some (core, slot, .half (encR 0x1D d a b))
  | .uStw core slot d a b => some (core, slot, .half (encR 0x1E d a b))
  | .uStp core slot d a b => some (core, slot, .half (encR 0x1F d a b))
  | .uVsetl core slot d a b => some (core, slot, .half (encR 0x30 d a b))
  | .uMov core slot d a => some (core, slot, .half (encR 0x10 d a 0))
  | .uAddi core slot d n => some (core, slot, .half (encI 0x11 d n))
  | .uLi core slot d n => some (core, slot, .half (encI 0x12 d n))
  | .uCsrr core slot d n => some (core, slot, .half (encI 0x2E d n))
  | .uCsrw core slot d n => some (core, slot, .half (encI 0x2F d n))
  | .uShli core slot d n => some (core, slot, .half (encI 0x13 d (n.zeroExtend 8)))
  | .uShri core slot d n => some (core, slot, .half (encI 0x14 d (n.zeroExtend 8)))
  | .uSari core slot d n => some (core, slot, .half (encI 0x15 d (n.zeroExtend 8)))
  | .uPush core slot d => some (core, slot, .half (encI 0x20 d 0))
  | .uPop core slot d => some (core, slot, .half (encI 0x21 d 0))
  | .uDspadj core slot n => some (core, slot, .half (encI 0x22 0 n))
  | .uBz core slot a off => some (core, slot, .half (encB 0x24 a off))
  | .uBnz core slot a off => some (core, slot, .half (encB 0x25 a off))
  | .uBltz core slot a off => some (core, slot, .half (encB 0x26 a off))
  | .uBgez core slot a off => some (core, slot, .half (encB 0x27 a off))
  | .uBr core slot off => some (core, slot, .half (encB 0x2B 0 off))
  | .uJr core slot a => some (core, slot, .half (encR 0x28 0 a 0))
  | .uCallr core slot a => some (core, slot, .half (encR 0x29 0 a 0))
  | .uRet core slot => some (core, slot, .half (encX 0x2A 0))
  | .uFenceW core slot => some (core, slot, .half (encX 0x2C 0))
  | .uFenceRw core slot => some (core, slot, .half (encX 0x2C 1))
  | .uWait core slot => some (core, slot, .half (encX 0x2C 2))
  | .uYield core slot => some (core, slot, .half (encX 0x2C 3))
  | .uEret core slot => some (core, slot, .half (encX 0x2C 4))
  | .uIret core slot => some (core, slot, .half (encX 0x2C 5))
  | .uBrk core slot => some (core, slot, .half (encX 0x2C 7))
  | .uVint core slot vd va vb f => some (core, slot, .half (encV 0x31 vd va vb f))
  | .uVfp core slot vd va vb f => some (core, slot, .half (encV 0x32 vd va vb f))
  | .uVdig core slot vd va vb f => some (core, slot, .half (encV 0x33 vd va vb f))
  | .uVld core slot vd a b => some (core, slot, .half (encVM 0x34 vd a b))
  | .uVst core slot vd a b => some (core, slot, .half (encVM 0x35 vd a b))
  | .uVgather core slot vd a vb => some (core, slot, .half (encVX 0x36 vd a vb))
  | .uVscatter core slot vd a vb => some (core, slot, .half (encVX 0x37 vd a vb))
  | .uLil core slot d imm => some (core, slot, .word (encL 0x38 d 0 imm))
  | .uLui core slot d imm => some (core, slot, .word (encL 0x39 d 0 (imm.zeroExtend 22)))
  | .uAddil core slot d a imm => some (core, slot, .word (encL 0x3A d a imm))
  | .uLsl core slot d a size store off => some (core, slot, .word (encL 0x3B d a (size ++ store ++ off)))
  | .uBcmp core slot a b cond off => some (core, slot, .word (encL 0x3C b a (cond ++ off)))
  | .uBrl core slot d off => some (core, slot, .word (encL 0x3D d 0 off))
  | .uFop core slot fd fa fb func g h => some (core, slot, .word (encLF 0x3E fd fa fb func g h))
  | .uFls core slot fd a st off => some (core, slot, .word (encLM 0x3F fd a st off))
  | .ecallExit core slot => some (core, slot, .half (encI 0x2D 0 1))
  | .ecallPlanLoad core slot _ => some (core, slot, .half (encI 0x2D 0 2))
  | .ecallPlanDrop core slot => some (core, slot, .half (encI 0x2D 0 3))
  | .ecallExecute core slot _ => some (core, slot, .half (encI 0x2D 0 4))
  | .ecallExecWait core slot => some (core, slot, .half (encI 0x2D 0 5))
  | .ecallDigest core slot => some (core, slot, .half (encI 0x2D 0 6))
  | .ecallRetain core slot => some (core, slot, .half (encI 0x2D 0 7))
  | .ecallDevtime core slot => some (core, slot, .half (encI 0x2D 0 8))
  | .ecallHandler core slot => some (core, slot, .half (encI 0x2D 0 9))
  | _ => none

/-- What firmware chooses for a call: where a checked copy goes, and the home clusters of an execution's dictionaries. -/
def uChosen (i : Instr) : Nat × List Nat :=
  match i with
  | .ecallPlanLoad _ _ da => (da, [])
  | .ecallExecute _ _ homes => (0, homes)
  | _ => (0, [])

/-- The SYS instruction of a sub-function (Table 14-4). -/
def sysAt (core slot sub : Nat) : Instr :=
  match sub with
  | 0 => .uFenceW core slot
  | 1 => .uFenceRw core slot
  | 2 => .uWait core slot
  | 3 => .uYield core slot
  | 4 => .uEret core slot
  | 5 => .uIret core slot
  | 7 => .uBrk core slot
  | _ => .uIllegal core slot

/-- The call of a number (Table 14-7), `da` and `homes` being what firmware chooses for it; a number of no call is answered alike by every call (log 51). -/
def ecallAt (core slot da : Nat) (homes : List Nat) (n : Nat) : Instr :=
  match n with
  | 1 => .ecallExit core slot
  | 2 => .ecallPlanLoad core slot da
  | 3 => .ecallPlanDrop core slot
  | 4 => .ecallExecute core slot homes
  | 5 => .ecallExecWait core slot
  | 6 => .ecallDigest core slot
  | 7 => .ecallRetain core slot
  | 8 => .ecallDevtime core slot
  | 9 => .ecallHandler core slot
  | _ => .ecallDevtime core slot

/-- The command of a half that is known. -/
def halfAt (core slot da : Nat) (homes : List Nat) (h : BitVec 18) : Instr :=
  match h.toNat / 4096 with
  | 0x01 => .uNop core slot
  | 0x02 => .uAdd core slot (h.extractLsb' 8 4) (h.extractLsb' 4 4) (h.extractLsb' 0 4)
  | 0x03 => .uSub core slot (h.extractLsb' 8 4) (h.extractLsb' 4 4) (h.extractLsb' 0 4)
  | 0x04 => .uAnd core slot (h.extractLsb' 8 4) (h.extractLsb' 4 4) (h.extractLsb' 0 4)
  | 0x05 => .uOr core slot (h.extractLsb' 8 4) (h.extractLsb' 4 4) (h.extractLsb' 0 4)
  | 0x06 => .uXor core slot (h.extractLsb' 8 4) (h.extractLsb' 4 4) (h.extractLsb' 0 4)
  | 0x07 => .uShl core slot (h.extractLsb' 8 4) (h.extractLsb' 4 4) (h.extractLsb' 0 4)
  | 0x08 => .uShr core slot (h.extractLsb' 8 4) (h.extractLsb' 4 4) (h.extractLsb' 0 4)
  | 0x09 => .uSar core slot (h.extractLsb' 8 4) (h.extractLsb' 4 4) (h.extractLsb' 0 4)
  | 0x0A => .uMul core slot (h.extractLsb' 8 4) (h.extractLsb' 4 4) (h.extractLsb' 0 4)
  | 0x0B => .uMulh core slot (h.extractLsb' 8 4) (h.extractLsb' 4 4) (h.extractLsb' 0 4)
  | 0x0C => .uDiv core slot (h.extractLsb' 8 4) (h.extractLsb' 4 4) (h.extractLsb' 0 4)
  | 0x0D => .uRem core slot (h.extractLsb' 8 4) (h.extractLsb' 4 4) (h.extractLsb' 0 4)
  | 0x0E => .uSlt core slot (h.extractLsb' 8 4) (h.extractLsb' 4 4) (h.extractLsb' 0 4)
  | 0x0F => .uSltu core slot (h.extractLsb' 8 4) (h.extractLsb' 4 4) (h.extractLsb' 0 4)
  | 0x10 => .uMov core slot (h.extractLsb' 8 4) (h.extractLsb' 4 4)
  | 0x11 => .uAddi core slot (h.extractLsb' 8 4) (h.extractLsb' 0 8)
  | 0x12 => .uLi core slot (h.extractLsb' 8 4) (h.extractLsb' 0 8)
  | 0x13 => .uShli core slot (h.extractLsb' 8 4) (h.extractLsb' 0 6)
  | 0x14 => .uShri core slot (h.extractLsb' 8 4) (h.extractLsb' 0 6)
  | 0x15 => .uSari core slot (h.extractLsb' 8 4) (h.extractLsb' 0 6)
  | 0x18 => .uLdg core slot (h.extractLsb' 8 4) (h.extractLsb' 4 4) (h.extractLsb' 0 4)
  | 0x19 => .uLdb core slot (h.extractLsb' 8 4) (h.extractLsb' 4 4) (h.extractLsb' 0 4)
  | 0x1A => .uLdw core slot (h.extractLsb' 8 4) (h.extractLsb' 4 4) (h.extractLsb' 0 4)
  | 0x1B => .uLdp core slot (h.extractLsb' 8 4) (h.extractLsb' 4 4) (h.extractLsb' 0 4)
  | 0x1C => .uStg core slot (h.extractLsb' 8 4) (h.extractLsb' 4 4) (h.extractLsb' 0 4)
  | 0x1D => .uStb core slot (h.extractLsb' 8 4) (h.extractLsb' 4 4) (h.extractLsb' 0 4)
  | 0x1E => .uStw core slot (h.extractLsb' 8 4) (h.extractLsb' 4 4) (h.extractLsb' 0 4)
  | 0x1F => .uStp core slot (h.extractLsb' 8 4) (h.extractLsb' 4 4) (h.extractLsb' 0 4)
  | 0x20 => .uPush core slot (h.extractLsb' 8 4)
  | 0x21 => .uPop core slot (h.extractLsb' 8 4)
  | 0x22 => .uDspadj core slot (h.extractLsb' 0 8)
  | 0x24 => .uBz core slot (h.extractLsb' 8 4) (h.extractLsb' 0 8)
  | 0x25 => .uBnz core slot (h.extractLsb' 8 4) (h.extractLsb' 0 8)
  | 0x26 => .uBltz core slot (h.extractLsb' 8 4) (h.extractLsb' 0 8)
  | 0x27 => .uBgez core slot (h.extractLsb' 8 4) (h.extractLsb' 0 8)
  | 0x28 => .uJr core slot (h.extractLsb' 4 4)
  | 0x29 => .uCallr core slot (h.extractLsb' 4 4)
  | 0x2A => .uRet core slot
  | 0x2B => .uBr core slot (h.extractLsb' 0 8)
  | 0x2C => sysAt core slot (bits h.toNat 8 4)
  | 0x2D => ecallAt core slot da homes (bits h.toNat 0 8)
  | 0x2E => .uCsrr core slot (h.extractLsb' 8 4) (h.extractLsb' 0 8)
  | 0x2F => .uCsrw core slot (h.extractLsb' 8 4) (h.extractLsb' 0 8)
  | 0x30 => .uVsetl core slot (h.extractLsb' 8 4) (h.extractLsb' 4 4) (h.extractLsb' 0 4)
  | 0x31 => .uVint core slot (h.extractLsb' 9 3) (h.extractLsb' 6 3) (h.extractLsb' 3 3) (h.extractLsb' 0 3)
  | 0x32 => .uVfp core slot (h.extractLsb' 9 3) (h.extractLsb' 6 3) (h.extractLsb' 3 3) (h.extractLsb' 0 3)
  | 0x33 => .uVdig core slot (h.extractLsb' 9 3) (h.extractLsb' 6 3) (h.extractLsb' 3 3) (h.extractLsb' 0 3)
  | 0x34 => .uVld core slot (h.extractLsb' 9 3) (h.extractLsb' 5 4) (h.extractLsb' 1 4)
  | 0x35 => .uVst core slot (h.extractLsb' 9 3) (h.extractLsb' 5 4) (h.extractLsb' 1 4)
  | 0x36 => .uVgather core slot (h.extractLsb' 9 3) (h.extractLsb' 5 4) (h.extractLsb' 2 3)
  | 0x37 => .uVscatter core slot (h.extractLsb' 9 3) (h.extractLsb' 5 4) (h.extractLsb' 2 3)
  | _ => .uIllegal core slot

/-- The command of a word that holds a long form. -/
def wordAt (core slot : Nat) (w : BitVec 36) : Instr :=
  match w.toNat / 2 ^ 30 with
  | 0x38 => .uLil core slot (w.extractLsb' 26 4) (w.extractLsb' 0 22)
  | 0x39 => .uLui core slot (w.extractLsb' 26 4) (w.extractLsb' 0 14)
  | 0x3A => .uAddil core slot (w.extractLsb' 26 4) (w.extractLsb' 22 4) (w.extractLsb' 0 22)
  | 0x3B => .uLsl core slot (w.extractLsb' 26 4) (w.extractLsb' 22 4) (w.extractLsb' 20 2) (w.extractLsb' 19 1) (w.extractLsb' 0 19)
  | 0x3C => .uBcmp core slot (w.extractLsb' 22 4) (w.extractLsb' 26 4) (w.extractLsb' 19 3) (w.extractLsb' 0 19)
  | 0x3D => .uBrl core slot (w.extractLsb' 26 4) (w.extractLsb' 0 22)
  | 0x3E => .uFop core slot (w.extractLsb' 24 6) (w.extractLsb' 18 6) (w.extractLsb' 12 6) (w.extractLsb' 6 6) (w.extractLsb' 2 4) (w.extractLsb' 0 2)
  | 0x3F => .uFls core slot (w.extractLsb' 24 6) (w.extractLsb' 20 4) (w.extractLsb' 19 1) (w.extractLsb' 0 19)
  | _ => .uIllegal core slot

/-- The command that a word stands for at a half (R415, R416): ILLEGAL where it is the code of no operation. -/
def uDecode (core slot da : Nat) (homes : List Nat) (w : BitVec 36) (second : Bool) : Instr :=
  if isIllegal w second then .uIllegal core slot
  else if 0x38 ≤ (halfOf w second).toNat / 4096 then wordAt core slot w
  else halfAt core slot da homes (halfOf w second)

end Sys2Proof.Machine
end

