-- ==== Sys2Proof/WellFormed.lean ====
section
/-! DEFINITION. The operand ranges of the commands: what a sender can name. A command outside them is no event of the block. -/

namespace Sys2Proof

open Sys2Proof.Machine

/-- The PF is function 0 and the VFs are functions 1 to 127 (R316). -/
def fnOk (f : Nat) : Bool := decide (f < 128)
/-- Two compute dies (Table 01-3). -/
def dieOk (d : Nat) : Bool := decide (d < 2)
/-- A task tag has 16 bits (Table 01-3). -/
def tagOk (t : Nat) : Bool := decide (t < 65536)
/-- A Camp ID has 10 bits (Table 01-3). -/
def campOk (c : Nat) : Bool := decide (c < 1024)
/-- 16 clusters. -/
def clusterOk (c : Nat) : Bool := decide (c < 16)
/-- 96 DMA channels (R378). -/
def channelOk (c : Nat) : Bool := decide (c < 96)
/-- 17 Digest Engines (R478). -/
def engineOk (e : Nat) : Bool := decide (e < 17)
/-- 32 groups of event sources (R390). -/
def groupOk (g : Nat) : Bool := decide (g < 32)
/-- 512 event sources (R390). -/
def sourceOk (n : Nat) : Bool := decide (n < 512)
/-- A digit address has 46 bits. -/
def daOk (a : Nat) : Bool := decide (a < 2 ^ 46)
/-- A Uliar context: 32 slots of each of the 128 tile cores, one of each of the four management cores. -/
def ctxOk (core slot : Nat) : Bool := decide (core < 132) && decide (slot < if core < 128 then 32 else 1)
/-- The host link's error answers: Unsupported Request, Completer Abort, poisoned (Table 13-7). -/
def busKind (k : Nat) : Bool := k == 1 || k == 2 || k == 4
/-- A command's name: function, submission queue, 16-bit command ID (R328). -/
def Machine.CmdRef.wf (r : CmdRef) : Bool := fnOk r.fn && decide (r.sq < 65536) && decide (r.cid < 65536)
/-- An invocation's place: a thread slot of a tile core and a tag. -/
def Machine.SvcEnv.wf (v : SvcEnv) : Bool := decide (v.core < 128) && decide (v.slot < 32) && tagOk v.tag

/-- The operands of a command are in range. -/
def Instr.wf (i : Instr) : Bool :=
  match i with
  | .resetNAssert _ => true
  | .resetNDeassert => true
  | .pwrgdAonDeassert _ => true
  | .pwrgdAonAssert => true
  | .pwrgdMainDeassert _ => true
  | .pwrgdMainAssert => true
  | .endOfReset _ strapBoot _ => decide (strapBoot < 4)
  | .bootRomStart _ => true
  | .prochotAssert _ => true
  | .prochotDeassert _ => true
  | .thermalTrip _ => true
  | .gpioEdge pin _ _ _ _ => decide (pin < 8)
  | .configRequest f _ => fnOk f
  | .linkUp _ _ _ _ _ _ _ => true
  | .linkDown => true
  | .perstAssert => true
  | .perstDeassert _ => true
  | .functionLevelReset f => fnOk f
  | .vfEnable n => decide (n ≤ 127)
  | .vfDisable => true
  | .hifEnable f => fnOk f
  | .hifDisable f => fnOk f
  | .ptmMeasure _ _ => true
  | .unsupportedHostAccess f _ _ _ _ => fnOk f
  | .sqTailDoorbell f _ _ _ => fnOk f
  | .cqHeadDoorbell f _ _ _ => fnOk f
  | .resultRingPostDoorbell f _ _ _ es => fnOk f && es.all (fun b => b.length == 32)
  | .sqFetch entry _ => decide (entry.length = 16)
  | .cqWrite f _ => fnOk f
  | .retainedCompletionPost c => campOk c
  | .coalesceTimeout _ f _ _ => fnOk f
  | .msixVectorUnmask f _ => fnOk f
  | .resultBufferComplete f _ _ _ => fnOk f
  | .resultBufferTimeout _ f _ _ _ => fnOk f
  | .challengeExpiry _ c => campOk c
  | .challengeLockoutEnd _ c => campOk c
  | .ideCheckFailed _ => true
  | .ideKm _ _ => true
  | .doeDiscovery _ => true
  | .identify r => r.wf
  | .getLog r => r.wf
  | .getFeature r => r.wf
  | .setFeature r => r.wf
  | .sqCreate r => r.wf
  | .sqDelete r => r.wf
  | .cqCreate r => r.wf
  | .cqDelete r => r.wf
  | .ringCreate r => r.wf
  | .ringDelete r => r.wf
  | .campCreate r _ id _ _ _ => r.wf && campOk id
  | .campDestroy r => r.wf
  | .teardownComplete c => campOk c
  | .campRation r _ => r.wf
  | .attachChallenge r => r.wf
  | .attachProve r _ => r.wf
  | .abort r => r.wf
  | .keyLoad r _ => r.wf
  | .securitySend r _ => r.wf
  | .securityRecv r => r.wf
  | .activate r _ => r.wf
  | .maintEnter r _ => r.wf
  | .maintExit r => r.wf
  | .drainComplete => true
  | .drainTimeout _ => true
  | .planLoad r _ da => r.wf && daOk da
  | .planDrop r => r.wf
  | .execute r _ _ => r.wf
  | .resultFetch r => r.wf
  | .ingest r _ _ _ => r.wf
  | .digest r _ => r.wf
  | .standingSet r _ => r.wf
  | .standingClear r => r.wf
  | .extCall r _ v => r.wf && v.wf
  | .flush r => r.wf
  | .standingDue _ _ _ => true
  | .serviceTimerDue _ _ v => v.wf
  | .extTimeout _ core slot => ctxOk core slot
  | .executionComplete _ _ => true
  | .fenceFire _ _ => true
  | .exchEndFire _ _ _ => true
  | .resultBatch die tag => dieOk die && tagOk tag
  | .tokenHeader _ tag da => tagOk tag && daOk da
  | .tokenRelease _ => true
  | .overflowReadmit camp die _ tag da => campOk camp && dieOk die && tagOk tag && daOk da
  | .threadEventToken n => sourceOk n
  | .taskComplete die tag _ => dieOk die && tagOk tag
  | .entryFree _ die tag => dieOk die && tagOk tag
  | .cancelNet _ => true
  | .taskStopAtBoundary die tag _ => dieOk die && tagOk tag
  | .xdieWaitExpiry _ die tag => dieOk die && tagOk tag
  | .quantumExpiry _ core slot => ctxOk core slot
  | .rationPeriod _ => true
  | .rationExhausted _ camp k => campOk camp && decide (k < 6)
  | .governorPeriod _ _ => true
  | .thawComplete _ c => clusterOk c
  | .frozenColdEntry _ c => clusterOk c
  | .avsComplete port => decide (port < 2)
  | .avsTimeout _ port => decide (port < 2)
  | .scanHeaderRead die tag _ => dieOk die && tagOk tag
  | .checkTableRead die tag _ => dieOk die && tagOk tag
  | .planeFetch die tag _ _ => dieOk die && tagOk tag
  | .dictTermReduction die tag _ _ => dieOk die && tagOk tag
  | .heapCompare die tag _ row => dieOk die && tagOk tag && decide (row < 4096)
  | .stripRowGroup die tag _ => dieOk die && tagOk tag
  | .stringCast die tag _ row => dieOk die && tagOk tag && decide (row < 4096)
  | .hashGroup die tag => dieOk die && tagOk tag
  | .bucketInsert die tag da _ => dieOk die && tagOk tag && daOk da
  | .probeLookup die tag da _ => dieOk die && tagOk tag && daOk da
  | .spillPartition die tag das => dieOk die && tagOk tag && das.all daOk
  | .spillPass die tag das => dieOk die && tagOk tag && das.all daOk
  | .chunkJoin die tag das => dieOk die && tagOk tag && das.all daOk
  | .unmatchedScan die tag => dieOk die && tagOk tag
  | .batchFold die tag => dieOk die && tagOk tag
  | .groupMerge die tag da _ => dieOk die && tagOk tag && daOk da
  | .groupPassMerge die tag das => dieOk die && tagOk tag && das.all daOk
  | .aggregateFinalise die tag => dieOk die && tagOk tag
  | .runFormation die tag das => dieOk die && tagOk tag && das.all daOk
  | .mergePass die tag das => dieOk die && tagOk tag && das.all daOk
  | .exchangeSend die tag => dieOk die && tagOk tag
  | .exchangeFlushTimeout _ _ _ tile _ => decide (tile < 128)
  | .ternarySearch _ _ => true
  | .ternaryStep _ _ _ => true
  | .ternaryScrub cl _ => clusterOk cl
  | .dictLookup _ _ => true
  | .dictFloor _ _ => true
  | .dictInsert _ _ => true
  | .dictDelete _ _ => true
  | .dictScan _ _ _ => true
  | .automatonSearch _ _ _ => true
  | .automatonStep _ _ _ _ _ => true
  | .translationWalk _ camp v _ _ => campOk camp && daOk v
  | .cacheAccess cl camp _ da cls _ _ => clusterOk cl && campOk camp && daOk da && decide (cls < 4)
  | .fillComplete cl _ _ => clusterOk cl
  | .evictionWritebackDone cl _ _ => clusterOk cl
  | .cacheFlush cl da lines _ => clusterOk cl && daOk da && decide (lines < 2 ^ 15)
  | .cacheInvalidate cl da lines _ => clusterOk cl && daOk da && decide (lines < 2 ^ 15)
  | .cacheFlushInval cl da lines _ => clusterOk cl && daOk da && decide (lines < 2 ^ 15)
  | .cacheMaintDone cl => clusterOk cl
  | .xltInval _ => true
  | .xltInvalDone => true
  | .patrolScrub da _ => daOk da
  | .dmaPost ch _ _ => channelOk ch
  | .dmaRingEnable ch _ log2 camp => channelOk ch && decide (log2 < 32) && campOk camp
  | .dmaRingDisable ch => channelOk ch
  | .dmaResume ch => channelOk ch
  | .dmaReset ch => channelOk ch
  | .dmaCopy ch => channelOk ch
  | .dmaZero ch => channelOk ch
  | .dmaReadCompletion ch _ _ => channelOk ch
  | .dmaIdleDrain _ ch => channelOk ch
  | .dmaFlushReadReturn ch => channelOk ch
  | .dmaCompletionWriteResponse ch => channelOk ch
  | .dmaBusError ch kind => channelOk ch && busKind kind
  | .dmaCompletionTimeout _ ch => channelOk ch
  | .evrPendWrite g _ => groupOk g
  | .eventDeliveryCommit target v => decide (target < 516) && v.wf
  | .evrMaskWindowClose n => sourceOk n
  | .evrHoldoffExpiry _ g => groupOk g
  | .eventRequestTake i => decide (i < 4)
  | .evrClaimRead core => decide (core < 4)
  | .evrDoneWrite core _ => decide (core < 4)
  | .dgeAllocRead e => engineOk e
  | .dgeStart e c _ => engineOk e && decide (c < 16)
  | .dgeFeed e c da n => engineOk e && decide (c < 16) && daOk da && decide (n < 2 ^ 18)
  | .dgeFinish e c => engineOk e && decide (c < 16)
  | .dgeRelease e c => engineOk e && decide (c < 16)
  | .dgeBlock e => engineOk e
  | .dgeDone e c => engineOk e && decide (c < 16)
  | .registerWrite _ _ => true
  | .rcRead _ => true
  | .getVersion _ _ => true
  | .getCapabilities _ _ => true
  | .negotiateAlgorithms _ _ => true
  | .getDigests _ _ => true
  | .getCertificate _ _ => true
  | .challenge _ _ => true
  | .getMeasurements _ _ => true
  | .keyExchange _ _ => true
  | .finish _ _ => true
  | .heartbeat _ _ => true
  | .keyUpdate _ _ => true
  | .endSession _ _ => true
  | .svnRaise _ _ => true
  | .getStatus => true
  | .getErrlog _ => true
  | .getCairn _ => true
  | .provisionOwner _ crc fused => decide (crc < 2 ^ 32) && decide (fused.length = 48)
  | .haltRestart _ => true
  | .memTest lo _ _ _ _ _ => daOk lo
  | .pldmSensorRead _ => true
  | .pldmSetPowerCap w => decide (w < 2 ^ 32)
  | .pldmDiscovery _ => true
  | .mctpControl _ => true
  | .uIllegal core slot => ctxOk core slot
  | .uNop core slot => ctxOk core slot
  | .uAdd core slot _ _ _ => ctxOk core slot
  | .uSub core slot _ _ _ => ctxOk core slot
  | .uAnd core slot _ _ _ => ctxOk core slot
  | .uOr core slot _ _ _ => ctxOk core slot
  | .uXor core slot _ _ _ => ctxOk core slot
  | .uShl core slot _ _ _ => ctxOk core slot
  | .uShr core slot _ _ _ => ctxOk core slot
  | .uSar core slot _ _ _ => ctxOk core slot
  | .uMul core slot _ _ _ => ctxOk core slot
  | .uMulh core slot _ _ _ => ctxOk core slot
  | .uDiv core slot _ _ _ => ctxOk core slot
  | .uRem core slot _ _ _ => ctxOk core slot
  | .uSlt core slot _ _ _ => ctxOk core slot
  | .uSltu core slot _ _ _ => ctxOk core slot
  | .uMov core slot _ _ => ctxOk core slot
  | .uAddi core slot _ _ => ctxOk core slot
  | .uLi core slot _ _ => ctxOk core slot
  | .uShli core slot _ _ => ctxOk core slot
  | .uShri core slot _ _ => ctxOk core slot
  | .uSari core slot _ _ => ctxOk core slot
  | .uLdg core slot _ _ _ => ctxOk core slot
  | .uLdb core slot _ _ _ => ctxOk core slot
  | .uLdw core slot _ _ _ => ctxOk core slot
  | .uLdp core slot _ _ _ => ctxOk core slot
  | .uStg core slot _ _ _ => ctxOk core slot
  | .uStb core slot _ _ _ => ctxOk core slot
  | .uStw core slot _ _ _ => ctxOk core slot
  | .uStp core slot _ _ _ => ctxOk core slot
  | .uPush core slot _ => ctxOk core slot
  | .uPop core slot _ => ctxOk core slot
  | .uDspadj core slot _ => ctxOk core slot
  | .uBz core slot _ _ => ctxOk core slot
  | .uBnz core slot _ _ => ctxOk core slot
  | .uBltz core slot _ _ => ctxOk core slot
  | .uBgez core slot _ _ => ctxOk core slot
  | .uJr core slot _ => ctxOk core slot
  | .uCallr core slot _ => ctxOk core slot
  | .uRet core slot => ctxOk core slot
  | .uBr core slot _ => ctxOk core slot
  | .uFenceW core slot => ctxOk core slot
  | .uFenceRw core slot => ctxOk core slot
  | .uWait core slot => ctxOk core slot
  | .uYield core slot => ctxOk core slot
  | .uEret core slot => ctxOk core slot
  | .uIret core slot => ctxOk core slot
  | .uBrk core slot => ctxOk core slot
  | .uCsrr core slot _ _ => ctxOk core slot
  | .uCsrw core slot _ _ => ctxOk core slot
  | .uVsetl core slot _ _ _ => ctxOk core slot
  | .uVint core slot _ _ _ _ => ctxOk core slot
  | .uVfp core slot _ _ _ _ => ctxOk core slot
  | .uVdig core slot _ _ _ _ => ctxOk core slot
  | .uVld core slot _ _ _ => ctxOk core slot
  | .uVst core slot _ _ _ => ctxOk core slot
  | .uVgather core slot _ _ _ => ctxOk core slot
  | .uVscatter core slot _ _ _ => ctxOk core slot
  | .uLil core slot _ _ => ctxOk core slot
  | .uLui core slot _ _ => ctxOk core slot
  | .uAddil core slot _ _ _ => ctxOk core slot
  | .uLsl core slot _ _ _ _ _ => ctxOk core slot
  | .uBcmp core slot _ _ _ _ => ctxOk core slot
  | .uBrl core slot _ _ => ctxOk core slot
  | .uFop core slot _ _ _ _ _ _ => ctxOk core slot
  | .uFls core slot _ _ _ _ => ctxOk core slot
  | .ecallExit core slot => ctxOk core slot
  | .ecallPlanLoad core slot da => ctxOk core slot && daOk da
  | .ecallPlanDrop core slot => ctxOk core slot
  | .ecallExecute core slot _ => ctxOk core slot
  | .ecallExecWait core slot => ctxOk core slot
  | .ecallDigest core slot => ctxOk core slot
  | .ecallRetain core slot => ctxOk core slot
  | .ecallDevtime core slot => ctxOk core slot
  | .ecallHandler core slot => ctxOk core slot
  | .linkTrainingFailure _ => true
  | .unsupportedSpdmRequest _ _ => true
  | .malformedTlp _ => true

end Sys2Proof
end

