-- ==== Sys2Proof/Safety.lean ====
section
/-! DEFINITION. What a claim may say about a run: the memory keeps its one form (Memory.wf), the commands that wait are in range, and the block answers. -/

namespace Sys2Proof.Machine

/-- Every waiting command is in range. -/
def State.queueOk (s : State) : Bool := s.pending.all Instr.wf

/-- A fetched command `c` with reference `r` and opcode `op` waits for its step, in a mode with a running engine. -/
def State.runs (s : State) (r : CmdRef) (op : Nat) (c : Cmd) : Prop := s.alive = true ∧ s.findCmd r = some c ∧ c.op = op

/-- A function that answers the host: the link is up, the function is the PF or an enabled VF, and the device is neither in RESET nor in HALTED. -/
def State.answers (s : State) (f : Nat) : Prop := s.mode ≠ .reset ∧ s.mode ≠ .halted ∧ s.host.link.up = true ∧ s.fnOk f = true

/-- A running task of an entry with a batch in hand at an operator of its fragment. -/
def State.working (s : State) (die tag : Nat) (t : Task) (i : Nat) (o : PlanOp) (b : Batch) : Prop := s.task die tag = some t ∧ t.head = some (i, o, b)

/-- The columns of the batch in hand are there, or can be read: the state after it, the work and the batch with them. -/
def State.colsReady (s : State) (t : Task) (cols : List Nat) (b : Batch) (u : State) (w : Work) (b' : Batch) : Prop :=
  ∀ k : State → Work → Batch → Res, s.withCols t cols b k = k u w b'

/-- A request to a gapped dictionary that is answered: the state it is answered in, and what it asks. -/
def State.asks (s : State) (q : MatchReq) (fn : Nat) (u : State) (a : DictAsk) : Prop := ∀ k : State → DictAsk → Res, s.dictAsk q fn k = k u a

/-- A context issues a Uliar command outside a delay slot: it is ready, the word at its position is fetched, giving the state and the context after the fetch, and the command's
code stands there. -/
def State.issues (s : State) (core slot : Nat) (i : Instr) (t : State) (u : UCtx) : Prop :=
  s.uReady core slot = true ∧ (∃ w c, s.uFetch core (s.uctx (ctxKey core slot)) = .ok t u w ∧ uCode i = some (core, slot, c) ∧ c.stands w u.pos.half = true) ∧ u.xfer = none

/-- A context executes a Uliar command in a delay slot: as `issues`, behind a transfer `x` that has not taken effect. -/
def State.issuesSlot (s : State) (core slot : Nat) (i : Instr) (t : State) (u : UCtx) (x : Xfer) : Prop :=
  s.uReady core slot = true ∧ (∃ w c, s.uFetch core (s.uctx (ctxKey core slot)) = .ok t u w ∧ uCode i = some (core, slot, c) ∧ c.stands w u.pos.half = true) ∧ u.xfer = some x

/-- The instructions that a delay slot may not hold (R418): transfers, long forms, ECALL, BRK, WAIT, YIELD, ERET and IRET. -/
def Code.slotForbids (c : Code) : Bool :=
  match c with
  | .word _ => true
  | .half h =>
    let op := h.toNat / 4096
    (decide (0x24 ≤ op) && decide (op ≤ 0x2B)) || op == 0x2D || (op == 0x2C && decide (2 ≤ h.toNat / 256 % 16))

/-- The end of an instruction that leaves a context with `v`: it is retired, and a cancel that waits takes effect. -/
def State.stepped (t : State) (core slot : Nat) (v : UCtx) : State := ((t.setU (ctxKey core slot) v).retire core).reap (ctxKey core slot)

/-- A command completes in a state: exec answers a next state. -/
def completes (i : Instr) (s : State) : Prop := ∃ t, exec i s = .next t

end Sys2Proof.Machine
end

