-- ==== Sys2Proof/Certificates/Slice0/Obligations.lean ====
section
/-! DEFINITION. The statements for the provers. -/

open Sys2Proof Sys2Proof.Machine

/-- (R8, Table 00-5; R516) The state after reset: mode BOOT, DEVTIME 0, no command waiting, no host state, no Camp, nothing stored, no event source pending, and every field of every register at its Reset value. The values that the field maps leave to the configuration image are the model's choice (log 10); that memory lists nothing is log 3. -/
def Obligations.ResetState : Prop :=
State.reset.pending = [] ∧ State.reset.mode = .boot ∧ State.reset.devtime = 0 ∧ State.reset.ticks = 0 ∧ State.reset.m.mem = [] ∧
  State.reset.m.poison = [] ∧ State.reset.host = HostState.empty ∧ State.reset.camps = [] ∧ State.reset.execs = [] ∧ State.reset.log = ⟨[], 0⟩ ∧
  State.reset.out = [] ∧ State.reset.ulr.ctxs = [] ∧
  (∀ (r : Reg) (i : Nat), State.reset.regs.raw r i = r.resetVal) ∧ (∀ n, State.reset.rg .EVR_SRC_pending n = 0)

/-- A step takes the command at the front of the queue and runs it on the state with the queue's rest; on an empty queue one AON tick passes (the latter is the model's choice, log 2). -/
def Obligations.StepRunsFrontCommand : Prop :=
(∀ (s : State) (c : Instr) (rest : List Instr), s.pending = c :: rest → step s = exec c { s with pending := rest }) ∧
  (∀ s : State, s.pending = [] → step s = .next (s.advance 1))

/-- (R513, R515) RESET_N low for at least 4 AON ticks, and PWRGD_AON or PWRGD_MAIN low for at least 2, put the device into RESET; a shorter low only lets time pass. PWRGD_AON falling counts as PWRGD_MAIN falling and clears the thermal-trip latch. (R490, R513) What entering RESET leaves: the AON levels, time, the error log and its registers, the fuses, what was already sent and the waiting commands; everything else, device memory, host state, Camps, executions and every register of another unit, is as after reset. (R516, R517) A rising edge of RESET_N, PWRGD_AON or PWRGD_MAIN restarts the countdown: the edge's tick is kept and nothing else changes; PERST_N rising only records its level and whether REFCLK is good. (R516, R518) 200 µs (5,000 AON ticks) after the last rising edge, with all three inputs high and no thermal trip latched, the device is in BOOT with the straps sampled, DEVTIME 0, FAULT_N deasserted and every other part as after reset; before that, or with a thermal trip latched, only time passes. -/
def Obligations.BoardResets : Prop :=
  (
∀ (s : State) (n : Nat),
    (4 ≤ n → exec (.resetNAssert n) s = .next ({ s.advance n with pins := { s.pins with resetHigh := false } }.enterReset)) ∧
    (n < 4 → exec (.resetNAssert n) s = .next (s.advance n)) ∧
    (2 ≤ n → exec (.pwrgdAonDeassert n) s =
      .next ({ s.advance n with pins := { s.pins with aonGood := false, mainGood := false, thermTrip := false } }.enterReset)) ∧
    (n < 2 → exec (.pwrgdAonDeassert n) s = .next (s.advance n)) ∧
    (2 ≤ n → exec (.pwrgdMainDeassert n) s = .next ({ s.advance n with pins := { s.pins with mainGood := false } }.enterReset)) ∧
    (n < 2 → exec (.pwrgdMainDeassert n) s = .next (s.advance n))
  ) ∧
  (
∀ s : State, s.enterReset.mode = .reset ∧ s.enterReset.m = State.reset.m ∧ s.enterReset.host = HostState.empty ∧ s.enterReset.camps = [] ∧
    s.enterReset.execs = [] ∧ s.enterReset.dies = [] ∧ s.enterReset.ulr = State.reset.ulr ∧ s.enterReset.plans = State.reset.plans ∧
    s.enterReset.records = [] ∧ s.enterReset.trust.cairn = [] ∧ s.enterReset.trust.keys = [] ∧
    s.enterReset.trust.fuses = s.trust.fuses ∧ s.enterReset.log = s.log ∧ s.enterReset.pins = s.pins ∧ s.enterReset.ticks = s.ticks ∧
    s.enterReset.pending = s.pending ∧ s.enterReset.out = s.out
  ) ∧
  (
∀ s : State,
    (s.pins.resetHigh = false → exec .resetNDeassert s = .next { s with pins := { s.pins with resetHigh := true, lastEdge := s.ticks } }) ∧
    (s.pins.aonGood = false → exec .pwrgdAonAssert s = .next { s with pins := { s.pins with aonGood := true, lastEdge := s.ticks } }) ∧
    (s.pins.aonGood = true → s.pins.mainGood = false →
      exec .pwrgdMainAssert s = .next { s with pins := { s.pins with mainGood := true, lastEdge := s.ticks } }) ∧
    (∀ ok, exec (.perstDeassert ok) s = .next { s with pins := { s.pins with perstHigh := true, refclkOk := ok } })
  ) ∧
  (
∀ (s : State) (dt strap : Nat) (dbg : Bool),
    (s.mode = .reset → s.pins.allHigh = true → s.pins.thermTrip = false → s.pins.lastEdge + 5000 ≤ s.ticks + dt →
      ∃ t : State, exec (.endOfReset dt strap dbg) s = .next t ∧ t.mode = .boot ∧ t.devtime = 0 ∧ t.pins.strapBoot = strap % 4 ∧ t.pins.strapDbg = dbg ∧
        t.pins.fault = false ∧ t.host = HostState.empty ∧ t.m = State.reset.m ∧ t.camps = [] ∧ t.log = ⟨[], 0⟩ ∧ t.trust.fuses = s.trust.fuses ∧ t.pending = s.pending ∧
        (s.pins.prochot = false → t.regs = [])) ∧
    (s.ticks + dt < s.pins.lastEdge + 5000 ∨ s.pins.thermTrip = true → exec (.endOfReset dt strap dbg) s = .next (s.advance dt))
  )

/-- (R281) PROCHOT_N low for at least 2 AON ticks sets every cluster to step 16 (800 MHz) with its prochot bit set, and high again for 2 ticks clears the bits, with a trace record for each die; a shorter pulse only lets time pass. (R522) A junction at 115 °C with the main rails in band sets the thermal-trip latch in AON and, in a mode with a running engine, halts the device with cause 10; in RESET only the latch is set. (R390) An edge on a GPIO pin held for at least 2 AON ticks is taken: the pin's level is kept, and an edge the configuration selects raises event source 184 + pin; a shorter pulse, or a level the pin already has, only lets time pass. -/
def Obligations.BoardPins : Prop :=
  (
∀ (s : State) (n : Nat), s.alive = true →
    (2 ≤ n → s.pins.prochot = false → exec (.prochotAssert n) s = .next ([0, 1].foldl (fun (t : State) d => t.traceDevice d 0 0x13 1)
      ((List.range 16).foldl (fun (t : State) c => (t.rs .PWR_CLUSTER_f_step c 16).rs .PWR_CLUSTER_prochot c 1)
        { s.advance n with pins := { s.pins with prochot := true } }))) ∧
    (2 ≤ n → s.pins.prochot = true → exec (.prochotDeassert n) s = .next ([0, 1].foldl (fun (t : State) d => t.traceDevice d 0 0x13 0)
      ((List.range 16).foldl (fun (t : State) c => t.rs .PWR_CLUSTER_prochot c 0)
        { s.advance n with pins := { s.pins with prochot := false } }))) ∧
    (n < 2 → exec (.prochotAssert n) s = .next (s.advance n) ∧ exec (.prochotDeassert n) s = .next (s.advance n))
  ) ∧
  (
∀ (s : State) (site : Nat), s.pins.mainGood = true →
    (s.mode = .reset → exec (.thermalTrip site) s = .next { s with pins := { s.pins with thermTrip := true } }) ∧
    (s.alive = true → ∃ t : State, exec (.thermalTrip site) s = .next t ∧ t.mode = .halted ∧ t.pins.thermTrip = true ∧ t.pins.fault = true ∧
      t.camps = s.camps ∧ t.m = s.m ∧ t.pending = s.pending)
  ) ∧
  (
∀ (s : State) (pin n : Nat) (level rise fall : Bool), pin < 8 →
    (2 ≤ n → s.pins.gpio.getLsbD pin ≠ level → s.alive = true →
      exec (.gpioEdge pin n level rise fall) s = .next
        (let t := { s.advance n with pins := { s.pins with gpio := s.pins.gpio ^^^ (BitVec.ofNat 8 (2 ^ pin)) } }
         if (level && rise) || (!level && fall) then t.event (184 + pin) else t)) ∧
    (n < 2 ∨ s.pins.gpio.getLsbD pin = level → exec (.gpioEdge pin n level rise fall) s = .next (s.advance n))
  )

/-- (R3, R319) A configuration request on an up link gets exactly one answer: Unsupported Request from a function that is not there, Request Retry Status until the function is ready, and then the field's value, or the write's completion; vendor and device IDs are fixed. A request stores nothing in memory and posts nothing else. (R317, R319, R390) The link comes up: the negotiated generation and width are readable, the PF is ready within 200 ms in BOOT and within 20 ms in every later mode, no VF is enabled, and event source 131 is pending. (R7, R317, R340, R473, R505) What the link reports: a surprise link-down detaches host-facing state, is counted and raises source 132, as PERST_N does without the count; an access the BARs do not take is counted, and a read of it answered with all ones; a rejected TLP is reported through AER and changes nothing else; a stream that fails its IDE check becomes insecure and is reported and logged; a link that cannot train at x4 is logged and stays down, the mode unchanged. -/
def Obligations.LinkAndConfiguration : Prop :=
  (
∀ (s : State) (f : Nat) (q : CfgReq), s.mode ≠ .reset → s.mode ≠ .halted → s.host.link.up = true →
    (s.fnOk f = false → exec (.configRequest f q) s = .next (s.emit (.cfg f .unsupported))) ∧
    (s.fnOk f = true → s.ticks < (if f = 0 then s.host.link.readyAt else s.host.link.vfReadyAt) →
      exec (.configRequest f q) s = .next (s.emit (.cfg f .retry))) ∧
    (s.fnOk f = true → ¬ s.ticks < (if f = 0 then s.host.link.readyAt else s.host.link.vfReadyAt) → q.write = none →
      ∃ v, exec (.configRequest f q) s = .next (s.emit (.cfg f (.value v))) ∧
        (q.reg = .vendorDevice → v = 0x1BE7 + 65536 * (if f = 0 then 0x9640 else 0x9641)) ∧
        (q.reg = .command ∨ q.reg = .msixControl ∨ q.reg = .sriovControl → v = s.cfgGet f q.reg)) ∧
    (∀ v, s.fnOk f = true → ¬ s.ticks < (if f = 0 then s.host.link.readyAt else s.host.link.vfReadyAt) → q.write = some v →
      ∃ t : State, exec (.configRequest f q) s = .next t ∧ t.out = s.out ++ [.cfg f .written] ∧ t.m = s.m ∧ t.mode = s.mode ∧
        (q.reg = .vendorDevice → t = s.emit (.cfg f .written)) ∧
        (q.reg = .msixControl ∨ q.reg = .command → t.cfgGet f q.reg = v))
  ) ∧
  (
∀ (s : State) (dt gen width : Nat) (flit vc1 tag14 ats : Bool), s.mode ≠ .reset → s.host.link.up = false → s.pins.perstHigh = true →
    s.pins.refclkOk = true → (width = 4 ∨ width = 8 ∨ width = 16) → 1 ≤ gen → gen ≤ 6 →
    ∃ t : State, exec (.linkUp dt gen width flit vc1 tag14 ats) s = .next t ∧ t.host.link.up = true ∧ t.host.link.vfs = 0 ∧
      s.ticks + dt ≤ t.host.link.readyAt ∧ t.host.link.readyAt ≤ s.ticks + dt + (if s.mode = .boot then 5000000 else 500000) ∧
      t.rg .HIF_LINK_gen 0 = gen ∧ t.rg .HIF_LINK_width 0 = width ∧ t.rg .EVR_SRC_pending 131 = 1 ∧
      t.mode = s.mode ∧ t.m = s.m ∧ t.camps = s.camps ∧ t.host.sqs = s.host.sqs
  ) ∧
  (
∀ (s : State) (f : Nat), s.mode ≠ .reset →
    (s.host.link.up = true → exec .linkDown s = .next (((s.detach).ra .HIF_LINK_link_downs 0 1).event 132)) ∧
    (exec .perstAssert s = .next ((State.detach { s with pins := { s.pins with perstHigh := false } }).event 132)) ∧
    (s.host.link.up = true → s.fnOk f = true → ∀ bar off size,
      exec (.unsupportedHostAccess f bar off size false) s = .next ((s.countErr 1).emit (.mmio f (2 ^ 64 - 1))) ∧
      exec (.unsupportedHostAccess f bar off size true) s = .next (s.countErr 1)) ∧
    (s.host.link.up = true → ∀ e, e = .malformedTlp ∨ e = .ecrcFailed ∨ e = .unexpectedCompletion ∨ e = .receiverOverflow ∨ e = .linkError →
      exec (.malformedTlp e) s = .next (s.emit (.aer e))) ∧
    (∀ n, s.host.link.ide.any (fun i => i.id == n && i.secure) = true → ∃ t : State, exec (.ideCheckFailed n) s = .next t ∧
      t.host.link.ide.any (fun i => i.id == n && i.secure) = false ∧ t.out = s.out ++ [.aer .ideCheckFailed] ∧ t.mode = s.mode ∧ t.m = s.m ∧ t.camps = s.camps) ∧
    (s.host.link.up = false → ∀ w < 4, ∃ t : State, exec (.linkTrainingFailure w) s = .next t ∧ t.host = s.host ∧ t.mode = s.mode ∧ t.m = s.m ∧ t.pins = s.pins ∧ t.out = s.out)
  )

/-- (R316, R319 to R321, R324, R340) The functions' lives: HIF_ENABLE starts a function's admin queues and, for the PF in DETACHED, enters SERVICE; HIF_DISABLE and a function-level reset reset the function; VF_ENABLE brings up n VFs that answer within 1 ms; VF_DISABLE ends every VF. (R318) A PTM measurement with PTM enabled: an offset of at most 1 ms slews DEVTIME toward master time by at most 100 ppm of the interval; a larger one steps DEVTIME to master time, sets HIF_PTM.stepped and raises source 135. -/
def Obligations.FunctionLives : Prop :=
  (
∀ (s : State) (f : Nat),
    (s.alive = true → s.host.link.up = true → s.fnOk f = true → s.rg .HIF_CTL_enable f ≠ 1 → ∃ t : State, exec (.hifEnable f) s = .next t ∧
      mget (fq f 0) t.host.sqs = some ⟨0, 0, adminDepth (s.rg .HIF_ASQ_size_m1 f), 4096 * s.rg .HIF_ASQ_base f, 0, 0⟩ ∧
      (∃ x, mget (fq f 0) t.host.cqs = some x ∧ x.depth = adminDepth (s.rg .HIF_ACQ_size_m1 f) ∧ x.base = 4096 * s.rg .HIF_ACQ_base f ∧ x.head = 0 ∧ x.tail = 0 ∧ x.phase = true ∧ x.unacked = []) ∧
      t.mode = (if f = 0 ∧ s.mode = .detached then .service else s.mode) ∧ t.m = s.m ∧ t.camps = s.camps) ∧
    (s.mode ≠ .reset → s.rg .HIF_CTL_enable f ≠ 0 → exec (.hifDisable f) s = .next (s.resetFn f)) ∧
    (s.mode ≠ .reset → s.host.link.up = true → s.fnOk f = true → exec (.functionLevelReset f) s = .next (s.resetFn f)) ∧
    (s.answers 0 → ∀ n, 1 ≤ n → n ≤ 127 → ∃ d ≤ 25000, exec (.vfEnable n) s =
      .next { s.draw.2 with host := { s.host with link := { s.host.link with vfs := n, vfReadyAt := s.ticks + d } } }) ∧
    (s.mode ≠ .reset → s.host.link.vfs ≠ 0 → ∃ t : State, exec .vfDisable s = .next t ∧ t.host.link.vfs = 0)
  ) ∧
  (
∀ (s : State) (dt : Nat) (master : BitVec 64), s.alive = true → s.host.link.up = true → s.rg .HIF_PTM_enable 0 ≠ 0 →
    (let off : Int := (master.toNat : Int) - ((s.advance dt).devtime.toNat : Int)
     let step : Int := ((max 1 (s.rg .HIF_PTM_interval_ms 0) * 100 : Nat) : Int)
     (off ≤ 1000000 → -1000000 ≤ off → ∃ t : State, exec (.ptmMeasure dt master) s = .next t ∧
       t.devtime = BitVec.ofInt 64 (((s.advance dt).devtime.toNat : Int) + max (-step) (min step off)) ∧ t.out = s.out ∧ t.m = s.m ∧ t.mode = s.mode) ∧
     (1000000 < off ∨ off < -1000000 → ∃ t : State, exec (.ptmMeasure dt master) s = .next t ∧ t.devtime = master ∧ t.rg .HIF_PTM_stepped 0 = 1 ∧ t.rg .EVR_SRC_pending 135 = 1 ∧
       t.m = s.m ∧ t.mode = s.mode))
  )

/-- (R331, Table 11-6) A doorbell write on a function that answers: a value of the right size and in range moves the queue's tail or head, or posts the ring's entries, and raises the doorbell's event source; a value out of range is ignored, counted, and its first latched; a wrong size or a queue the function does not have is an unsupported access. (R332, Table 12-1) A fetch takes the entry of the queue the arbitration chose: its head moves on by one around the depth, the fetch number counts up, and the command is admitted. -/
def Obligations.Doorbells : Prop :=
  (
∀ (s : State) (f q size v t : Nat), s.answers f → doorbellValue size v = some t →
    (∀ x, q ≤ ioQueues f → mget (fq f q) s.host.sqs = some x →
      (t < x.depth → exec (.sqTailDoorbell f q size v) s =
        .next (State.event { s with host := { s.host with sqs := mput (fq f q) { x with tail := t } s.host.sqs } } (if q = 0 then 128 else 129))) ∧
      (x.depth ≤ t → exec (.sqTailDoorbell f q size v) s = .next (s.dbErr f q 1))) ∧
    (∀ x, q ≤ ioQueues f → mget (fq f q) s.host.cqs = some x →
      (t < x.depth → slotsFrom x.depth x.head t ≤ slotsFrom x.depth x.head x.tail → exec (.cqHeadDoorbell f q size v) s =
        .next (State.event { s with host := { s.host with cqs := mput (fq f q) { x with head := t, unacked := x.unacked.drop (slotsFrom x.depth x.head t) } s.host.cqs } }
          (if q = 0 then 128 else 129))) ∧
      (x.depth ≤ t → exec (.cqHeadDoorbell f q size v) s = .next (s.dbErr f q 2))) ∧
    (∀ x es, q < ringCount f → mget (fq f q) s.host.rings = some x →
      (t < x.depth → exec (.resultRingPostDoorbell f q size v es) s = .next ((((takePosted f q es (slotsFrom x.depth x.next t) s).event 130).pumpRing f q))) ∧
      (x.depth ≤ t → exec (.resultRingPostDoorbell f q size v es) s = .next (s.dbErr f q 4))) ∧
    (mget (fq f q) s.host.sqs = none → q ≤ ioQueues f → exec (.sqTailDoorbell f q size v) s = .next (s.dbErr f q 3))
  ) ∧
  (
∀ (s : State) (entry : List Nat) (sgl : List (Nat × Nat × Nat)),
    (s.mode = .boot ∨ s.mode = .service ∨ s.mode = .maintenance) → s.host.link.up = true →
    (s.arbitrate = none → exec (.sqFetch entry sgl) s = .next s) ∧
    (∀ f q arb x, s.arbitrate = some (f, q, arb) → mget (fq f q) s.host.sqs = some x →
      ∃ t : State, exec (.sqFetch entry sgl) s = .next t ∧ t.host.uid = s.host.uid + 1 ∧ t.host.arb = arb ∧
        (∃ y, mget (fq f q) t.host.sqs = some y ∧ y.head = (if x.head + 1 = x.depth then 0 else x.head + 1) ∧ y.tail = x.tail) ∧ t.mode = s.mode ∧ t.camps = s.camps)
  )

/-- (R328, R329, R333, R343) The CQ write engine writes the oldest entry handed over to a CQ with space, naming the index the device fetches next, and takes it from the engine; a retained completion of an attached Camp is written with ret = 1 and leaves the store; into a full CQ nothing is written. (R328, R329, Table 11-5) Writing an entry: one 16-byte write at the CQ's tail in its phase; the tail moves on by one and the phase flips as it wraps; the entry stays unread until a head doorbell covers it; every other CQ, every SQ, memory and Camps keep their values. -/
def Obligations.CompletionQueueWrites : Prop :=
  (
∀ (s : State) (f q c : Nat), s.alive = true → s.host.link.up = true →
    (∀ w x y, s.host.engine.find? (fun w => w.fn == f && w.cq == q) = some w → mget (fq f q) s.host.cqs = some x → mget (fq f w.e.sqId) s.host.sqs = some y →
      (x.full = false → exec (.cqWrite f q) s =
        .next (State.cqPut { s with host := { s.host with engine := s.host.engine.erase w } } f q w.camp x { w.e with sqHead := y.head })) ∧
      (x.full = true → exec (.cqWrite f q) s = .next s)) ∧
    (∀ k e rest x, s.rg .HIF_ATTACH_attached c ≠ 0 → mget c s.host.repost = some k → mgetD [] c s.host.retained = e :: rest → mget k s.host.cqs = some x →
      (x.full = false → exec (.retainedCompletionPost c) s =
        .next (State.cqPut { s with host := { s.host with retained := mputD [] c rest s.host.retained } } (k / 65536) (k % 65536) c x { e with ret := true, sqHead := 0 })) ∧
      (x.full = true → exec (.retainedCompletionPost c) s = .next s))
  ) ∧
  (
∀ (s : State) (f q camp : Nat) (x : Cq) (e : Cqe),
    (∃ y, mget (fq f q) (s.cqPut f q camp x e).host.cqs = some y ∧ y.tail = (if x.tail + 1 = x.depth then 0 else x.tail + 1) ∧
      y.phase = (if x.tail + 1 = x.depth then !x.phase else x.phase) ∧ y.unacked = x.unacked ++ [(camp, e)] ∧ y.head = x.head ∧ y.base = x.base ∧ y.depth = x.depth) ∧
    (∃ l, (s.cqPut f q camp x e).out = s.out ++ .hostWrite f (x.base + 16 * x.tail) (cqeBytes e x.phase) :: l ∧ ∀ o ∈ l, o = .msix f x.vector) ∧
    (∀ k, k ≠ fq f q → mget k (s.cqPut f q camp x e).host.cqs = mget k s.host.cqs) ∧
    (s.cqPut f q camp x e).host.sqs = s.host.sqs ∧ (s.cqPut f q camp x e).m = s.m ∧ (s.cqPut f q camp x e).camps = s.camps ∧ (s.cqPut f q camp x e).host.engine = s.host.engine
  )

/-- (R335, R336, R338, R342) The host interface's timers and edges: an entry unsignalled for the coalescing time sends its vector, a vector that became pending while masked is sent on its unmasking, a full buffer or one that holds its stream's end completes, a buffer idle for 50 µs completes, and a challenge or a lockout ends at its time. -/
def Obligations.HostTimers : Prop :=
∀ (s : State) (dt f q c : Nat),
    (∀ g, s.alive = true → s.host.link.up = true → mget (fq f q) s.host.cqs = some g → 0 < g.since → 0 < g.timeUs → g.oldest + g.timeUs * ticksPerUs ≤ s.ticks + dt →
      exec (.coalesceTimeout dt f false q) s = .next (State.msixSend { s.advance dt with host := { s.host with cqs := mput (fq f q) { g with since := 0 } s.host.cqs } } f g.vector)) ∧
    (∀ g, s.alive = true → s.host.link.up = true → mget (fq f q) s.host.cqs = some g → (g.since = 0 ∨ g.timeUs = 0 ∨ s.ticks + dt < g.oldest + g.timeUs * ticksPerUs) →
      exec (.coalesceTimeout dt f false q) s = .next (s.advance dt)) ∧
    (∀ e, s.answers f → q < vectorCount f → mget (f * 2048 + q) s.host.msix = some e → exec (.msixVectorUnmask f q) s =
      .next (let t := { s with host := { s.host with msix := mput (f * 2048 + q) { e with masked := false, pending := false } s.host.msix } }
        if e.pending then State.msixSend t f q else t)) ∧
    (∀ st g o sq cid, s.alive = true → s.streamOf f q sq cid = some st → mget (fq f q) s.host.rings = some g → g.openOf st = some o →
      (o.buf.len ≤ o.bytes → exec (.resultBufferComplete f q sq cid) s = .next (s.completeBuf st o)) ∧
      (0 < o.bytes → st.msgs = [] → o.lastTick + 50 * ticksPerUs ≤ s.ticks + dt → exec (.resultBufferTimeout dt f q sq cid) s = .next ((s.advance dt).completeBuf st o))) ∧
    (∀ ch, mget c s.host.challenges = some ch →
      (ch.expiry ≤ s.ticks + dt → exec (.challengeExpiry dt c) s = .next { s.advance dt with host := { s.host with challenges := mdel c s.host.challenges } }) ∧
      (s.ticks + dt < ch.expiry → exec (.challengeExpiry dt c) s = .next (s.advance dt))) ∧
    (∀ t, mget c s.host.lockout = some t → t ≤ s.ticks + dt →
      exec (.challengeLockoutEnd dt c) s = .next (State.rs { s.advance dt with host := { s.host with lockout := mdel c s.host.lockout } } .HIF_ATTACH_streak c 0))

/-- (R327, R345, R356) A command that completes is handed over once: one completion entry with its function, CQ, Camp, CID, SQ, status and result joins the end of the CQ write engine, the command is no longer outstanding, and neither memory nor another command's entry changes. -/
def Obligations.CompletionHandedOverOnce : Prop :=
∀ (s : State) (c : Cmd) (st res : Nat), s.alive = true → c.gone = false →
    (s.handOver c st res).host.engine = s.host.engine ++ [⟨c.ref.fn, c.cq, c.camp, ⟨res, min c.dropped (2 ^ 32 - 1), 0, c.ref.sq, c.ref.cid, false, st⟩⟩] ∧
    (s.handOver c st res).host.cmds = s.host.cmds.filter (fun d => d.uid != c.uid) ∧
    (∀ d ∈ (s.handOver c st res).host.cmds, d.uid ≠ c.uid) ∧
    (s.handOver c st res).host.cqs = s.host.cqs ∧ (s.handOver c st res).host.sqs = s.host.sqs ∧ (s.handOver c st res).m = s.m ∧
    (s.handOver c st res).regs = s.regs ∧ (s.handOver c st res).out = s.out ∧ (s.handOver c st res).mode = s.mode

/-- (R325, R336, R337, R362) The queue commands, when their operands pass the checks of their table rows: SQ_CREATE makes an empty SQ of the named Camp, CQ, depth and base; CQ_CREATE and RING_CREATE an empty CQ or ring with its vector and coalescing; CQ_DELETE and RING_DELETE remove what nothing names; each then completes. Nothing else of the state changes before the hand-over. (R355, R361, R362, R537) IDENTIFY returns the device's or the function's data, GET_LOG a log from its offset, GET_FEATURE 16 bytes of a feature; SET_FEATURE sets a CQ's or a ring's coalescing, or a Camp's trace ring and starts that ring afresh. Data longer than the buffer is cut and the full length reported. -/
def Obligations.QueueAndReportCommands : Prop :=
  (
∀ (s : State) (r : CmdRef) (c : Cmd),
    (s.runs r 0x05 c → c.dataPtr % 4096 = 0 → bits (c.w 9) 16 16 ≠ 0 → bits (c.w 9) 0 16 ≠ 0 → bits (c.w 9) 0 16 ≤ ioQueues c.ref.fn →
      mhas (fq c.ref.fn (bits (c.w 9) 0 16)) s.host.sqs = false → bits (c.w 10) 16 16 ≠ 0 →
      (∃ q, mget (fq c.ref.fn (bits (c.w 10) 16 16)) s.host.cqs = some q ∧ q.camp = bits (c.w 10) 0 10) →
      exec (.sqCreate r) s = .next (State.completeCmd { s with host := { s.host with
        sqs := mput (fq c.ref.fn (bits (c.w 9) 0 16)) ⟨bits (c.w 10) 0 10, bits (c.w 10) 16 16, bits (c.w 9) 16 16 + 1, c.dataPtr, 0, 0⟩ s.host.sqs } } c c.okStatus 0)) ∧
    (s.runs r 0x07 c → c.dataPtr % 4096 = 0 → bits (c.w 9) 16 16 ≠ 0 → bits (c.w 10) 10 11 < vectorCount c.ref.fn → coalesceOk (c.w 11) = true →
      bits (c.w 9) 0 16 ≠ 0 → bits (c.w 9) 0 16 ≤ ioQueues c.ref.fn → mhas (fq c.ref.fn (bits (c.w 9) 0 16)) s.host.cqs = false →
      exec (.cqCreate r) s = .next (State.completeCmd { s with host := { s.host with
        cqs := mput (fq c.ref.fn (bits (c.w 9) 0 16)) ⟨bits (c.w 10) 0 10, bits (c.w 9) 16 16 + 1, c.dataPtr, 0, true, 0, bits (c.w 10) 10 11, bits (c.w 11) 0 9,
          bits (c.w 11) 16 10, 0, 0, []⟩ s.host.cqs } } c c.okStatus 0)) ∧
    (s.runs r 0x09 c → c.dataPtr % 4096 = 0 → bits (c.w 9) 16 16 ≠ 0 → bits (c.w 10) 10 11 < vectorCount c.ref.fn → coalesceOk (c.w 11) = true →
      bits (c.w 9) 0 16 < ringCount c.ref.fn → mhas (fq c.ref.fn (bits (c.w 9) 0 16)) s.host.rings = false →
      exec (.ringCreate r) s = .next (State.completeCmd { s with host := { s.host with
        rings := mput (fq c.ref.fn (bits (c.w 9) 0 16)) ⟨bits (c.w 10) 0 10, bits (c.w 9) 16 16 + 1, c.dataPtr, 0, true, bits (c.w 10) 10 11, bits (c.w 11) 0 9,
          bits (c.w 11) 16 10, 0, 0, [], []⟩ s.host.rings } } c c.okStatus 0)) ∧
    (s.runs r 0x08 c → bits (c.w 9) 0 16 ≠ 0 → mhas (fq c.ref.fn (bits (c.w 9) 0 16)) s.host.cqs = true →
      s.host.sqs.any (fun p => p.1 / 65536 == c.ref.fn && p.1 % 65536 != 0 && p.2.cq == bits (c.w 9) 0 16) = false →
      exec (.cqDelete r) s = .next (State.completeCmd { s with host := { s.host with
        cqs := mdel (fq c.ref.fn (bits (c.w 9) 0 16)) s.host.cqs } } c c.okStatus 0)) ∧
    (s.runs r 0x0A c → mhas (fq c.ref.fn (bits (c.w 9) 0 16)) s.host.rings = true → s.host.cmds.any (namesRing c.ref.fn (bits (c.w 9) 0 16)) = false →
      exec (.ringDelete r) s = .next (State.completeCmd { s with host := { s.host with
        rings := mdel (fq c.ref.fn (bits (c.w 9) 0 16)) s.host.rings } } c c.okStatus 0)) ∧
    (s.runs r 0x06 c → bits (c.w 9) 0 16 ≠ 0 → mhas (fq c.ref.fn (bits (c.w 9) 0 16)) s.host.sqs = true →
      ∃ t : State, exec (.sqDelete r) s = .next (settle t.host.cmds.length t) ∧
        t = (State.modCmd { s with host := { s.host with sqs := mdel (fq c.ref.fn (bits (c.w 9) 0 16)) s.host.sqs } } c.uid
            (fun d => { d with wait := .sqGone (bits (c.w 9) 0 16) })).cancelAll
          ((State.modCmd s c.uid (fun d => { d with wait := .sqGone (bits (c.w 9) 0 16) })).host.cmds.filter
            (fun d => d.ref.fn == c.ref.fn && d.ref.sq == bits (c.w 9) 0 16 && !d.gone)) stAborted)
  ) ∧
  (
∀ (s : State) (r : CmdRef) (c : Cmd),
    (s.runs r 0x01 c → bits (c.w 1) 0 8 = 0 → exec (.identify r) s = .next (s.varOut c s.identDevice)) ∧
    (s.runs r 0x01 c → bits (c.w 1) 0 8 = 1 → exec (.identify r) s = .next (s.varOut c (s.identFunction c.ref.fn))) ∧
    (∀ b, s.runs r 0x02 c → bits (c.w 1) 0 8 ≠ 5 → bits (c.w 1) 8 1 = 0 → (bits (c.w 1) 0 8 = 1 → c.ref.fn = 0) → c.w 11 = 0 →
      s.logBytes (bits (c.w 1) 0 8) (bits (c.w 9) 0 10) ⟨c.ref.fn, bits (c.w 10) 0 16, 0⟩ = some b →
      exec (.getLog r) s = .next (s.varOut c (b.drop (c.w 10)))) ∧
    (s.runs r 0x03 c → bits (c.w 1) 0 8 = 1 → c.w 9 = 0 → c.w 10 = 0 →
      exec (.getFeature r) s = .next ((s.dataOut c (bslice (leBytes 8 (s.hifStatus c.ref.fn) ++ leBytes 8 s.devtime.toNat) 0 16)).completeCmd c c.okStatus 0)) ∧
    (∀ g, s.runs r 0x04 c → bits (c.w 1) 0 8 = 2 → c.w 9 = bits (c.w 9) 0 16 → c.w 9 ≠ 0 → c.w 10 = 0 → coalesceOk (c.w 11) = true → rz (c.w 11) 9 7 = true →
      rz (c.w 11) 26 6 = true → mget (fq c.ref.fn (c.w 9)) s.host.cqs = some g →
      exec (.setFeature r) s = .next (State.completeCmd { s with host := { s.host with
        cqs := mput (fq c.ref.fn (c.w 9)) { g with count := bits (c.w 11) 0 9, timeUs := bits (c.w 11) 16 10 } s.host.cqs } } c c.okStatus 0)) ∧
    (s.runs r 0x04 c → bits (c.w 1) 0 8 = 4 → c.w 9 < 1024 → rz (c.w 11) 19 13 = true →
      exec (.setFeature r) s = .next (State.completeCmd { s with
        regs := s.regs.setRaw .CPM_TRACE (c.w 9) (BitVec.ofNat 64 (c.w 10 + 2 ^ 32 * c.w 11)), traceSeq := mdel (2 + c.w 9) s.traceSeq } c c.okStatus 0)) ∧
    (∀ b : Bytes, b.length ≤ c.w 8 → s.varOut c b = (s.dataOut c b).completeCmd c c.okStatus b.length) ∧
    (∀ b : Bytes, c.w 8 < b.length → s.varOut c b = (s.dataOut c (b.take (c.w 8))).completeCmd c stOutTruncated b.length)
  )

/-- (R269, R313, R363, R364) The Camp commands: CAMP_CREATE makes a tenant Camp, its descriptor within its ranges, its key unwrapped and its reservation within the free capacity; CAMP_DESTROY puts a tenant Camp into TEARDOWN and waits; TEARDOWN_COMPLETE frees it and completes every CAMP_DESTROY that waits; CAMP_RATION keeps the selected amounts for the next period boundary; KEY_LOAD with its free bit zeroes a slot of its Camp.  The unwrapping is AES-256-GCM's (gcmOpen). -/
def Obligations.CampCommandsComplete : Prop :=
∀ (s : State) (r : CmdRef) (c : Cmd) (d : Bytes),
    (∀ id root units es, s.runs r 0x10 c → c.ref.sq = 0 → c.avail = 224 → d.length = 224 → descFieldsOk d = true → descMoraineOk (s.farBytes != 0) d = true →
      blobOk (bslice d 128 96) = true → 1 ≤ id → id < 1024 → s.campState id = .free → s.fits d = true → units ≤ word32 d 3 →
      exec (.campCreate r d id root units es) s = .next (match s.unwrap (bslice d 128 96) c.ref.fn none [] 1 with
        | some key => ((s.putEntries es).createCamp id 1 d key none root units).completeCmd c c.okStatus id
        | none => s.failCmd c stAuthFailed)) ∧
    (s.runs r 0x11 c → bits (c.w 9) 0 10 ≠ 0 → s.campKind (bits (c.w 9) 0 10) = 1 → s.campState (bits (c.w 9) 0 10) ≠ .teardown →
      exec (.campDestroy r) s = .next ((s.startTeardown (bits (c.w 9) 0 10)).modCmd c.uid (fun x => { x with wait := .teardown (bits (c.w 9) 0 10) }))) ∧
    (∀ camp, s.alive = true → s.campState camp = .teardown → s.campIdle camp = true →
      exec (.teardownComplete camp) s = .next (((s.freeCamp camp).host.cmds.filter (fun x => x.wait == .teardown camp)).foldl
        (fun t x => t.completeCmd x x.okStatus 0) (s.freeCamp camp))) ∧
    (s.runs r 0x12 c → c.ref.sq = 0 → c.avail = 48 → d.length = 48 → bits (c.w 9) 0 10 ≠ 0 → (∀ k < 6, 0 < word64 d (2 * k) ∧ word64 d (2 * k) < 2 ^ 40) →
      exec (.campRation r d) s = .next (State.completeCmd { s with rationNext :=
        ((List.range 6).filter (fun k => bits (c.w 10) k 1 == 1)).foldl (fun m k => mput (8 * bits (c.w 9) 0 10 + k) (word64 d (2 * k)) m) s.rationNext } c c.okStatus 0)) ∧
    (s.runs r 0x15 c → bits (c.w 10) 5 1 = 1 → s.ownsSlot (bits (c.w 9) 0 10) (bits (c.w 10) 0 5) = true →
      exec (.keyLoad r d) s = .next ((s.zeroSlot (bits (c.w 10) 0 5)).completeCmd c c.okStatus (bits (c.w 10) 0 5)))

/-- (R342) ATTACH CHALLENGE of a Camp that is not attached elsewhere and not locked out keeps a fresh 32-byte challenge for 10 s and returns it. ATTACH PROVE consumes the challenge: with the right credential from the challenged function within that time it attaches the Camp to that function, clears the streak and names the CQ for redelivery; with a wrong credential it is denied. (R357, R358) ABORT answers for the named command of its own function: an outstanding one that can be aborted is cancelled with ABORTED, and ABORT waits for it with result CAUGHT (1); one that cannot gives NOT_ABORTABLE (4); one whose completion waits or is unread gives MISSED (2); any other NOT_FOUND (3). FLUSH waits for the earlier commands of its SQ. -/
def Obligations.AttachAbortAndFlush : Prop :=
  (
∀ (s : State) (r : CmdRef) (c : Cmd) (d : Bytes), s.runs r 0x13 c → bits (c.w 9) 0 10 ≠ 0 → s.campKind (bits (c.w 9) 0 10) ≠ 2 →
    s.attachedElsewhere c (bits (c.w 9) 0 10) = false →
    (c.w 1 = 0 → bits (c.w 9) 16 16 = 0 → 32 ≤ c.w 8 → c.w 4 = 0 → mhas (bits (c.w 9) 0 10) s.host.lockout = false →
      exec (.attachChallenge r) s = .next (State.completeCmd (State.dataOut { s.draw.2 with host := { s.host with
        challenges := mput (bits (c.w 9) 0 10) ⟨c.ref.fn, freshBytes s.draws 32, s.ticks + 250000000⟩ s.host.challenges } } c (freshBytes s.draws 32)) c c.okStatus 0)) ∧
    (∀ ch i, c.w 1 = 1 → c.avail = 48 → mhas (fq c.ref.fn (bits (c.w 9) 16 16)) s.host.cqs = true → mget (bits (c.w 9) 0 10) s.host.challenges = some ch →
      mget (bits (c.w 9) 0 10) s.camps = some i → ch.fn = c.ref.fn → s.ticks < ch.expiry →
      (d.take 48 = attachCredential i.key (bits (c.w 9) 0 10) c.ref.fn ch.bytes →
        exec (.attachProve r d) s = .next (State.completeCmd { s with
          regs := ((s.regs.set .HIF_ATTACH_streak (bits (c.w 9) 0 10) 0).set .HIF_ATTACH_function (bits (c.w 9) 0 10) c.ref.fn).set .HIF_ATTACH_attached (bits (c.w 9) 0 10) 1
          host := { s.host with
            challenges := mdel (bits (c.w 9) 0 10) s.host.challenges
            repost := mput (bits (c.w 9) 0 10) (fq c.ref.fn (bits (c.w 9) 16 16)) s.host.repost } } c c.okStatus 0)) ∧
      (d.take 48 ≠ attachCredential i.key (bits (c.w 9) 0 10) c.ref.fn ch.bytes →
        exec (.attachProve r d) s = .next (State.attachDeny { s with host := { s.host with challenges := mdel (bits (c.w 9) 0 10) s.host.challenges } } c (bits (c.w 9) 0 10))))
  ) ∧
  (
∀ (s : State) (r : CmdRef) (c : Cmd),
    (∀ d, s.runs r 0x14 c → s.host.cmds.reverse.find? (fun d => d.ref == ⟨c.ref.fn, bits (c.w 9) 0 16, bits (c.w 9) 16 16⟩ && !d.gone && d.uid != c.uid) = some d →
      (notAbortable d.op = true → exec (.abort r) s = .next (s.completeCmd c 0 4)) ∧
      (notAbortable d.op = false → exec (.abort r) s =
        .next (let t := (s.modCmd c.uid (fun x => { x with wait := .after d.uid, result := 1 })).cancelCmd d stAborted true; settle t.host.cmds.length t))) ∧
    (s.runs r 0x14 c → s.host.cmds.reverse.find? (fun d => d.ref == ⟨c.ref.fn, bits (c.w 9) 0 16, bits (c.w 9) 16 16⟩ && !d.gone && d.uid != c.uid) = none →
      c.ref ≠ ⟨c.ref.fn, bits (c.w 9) 0 16, bits (c.w 9) 16 16⟩ →
      exec (.abort r) s = .next (s.completeCmd c 0 (if s.host.engine.any (fun w => w.fn == c.ref.fn && (w.e.sqId == bits (c.w 9) 0 16 && w.e.cid == bits (c.w 9) 16 16 && !w.e.ret)) ||
        s.host.cqs.any (fun p => p.1 / 65536 == c.ref.fn && p.2.unacked.any (fun u => u.2.sqId == bits (c.w 9) 0 16 && u.2.cid == bits (c.w 9) 16 16 && !u.2.ret)) then 2 else 3))) ∧
    (s.runs r 0x49 c → exec (.flush r) s = .next (settle s.host.cmds.length (s.modCmd c.uid (fun x => { x with wait := .flush }))))
  )

/-- (R360, R369, R467 to R469) ACTIVATE and MAINT_ENTER with a block of the declared length: a block that fails its checks gives AUTH_FAILED; one that passes runs at once where nothing else is outstanding and no drain is asked for, and with the drain bit the command waits and DRAINING begins with its limit. MAINT_EXIT returns to SERVICE. A drain that finds its work done goes on; the block's verdict is the model's P-384 verification (ecdsaVerify). (R360) A drain's limit, once reached, ends the outstanding commands other than the one that drains with ABORTED and cancels the executions and the service invocations. -/
def Obligations.OwnerCommandsComplete : Prop :=
  (
∀ (s : State) (r : CmdRef) (c : Cmd) (b : Bytes),
    (∀ maint : Bool, s.runs r (if maint then 0x1B else 0x1A) c → c.ref.sq = 0 → c.avail = 264 → b.length = 264 → bits (word32 b 1) 0 16 = 264 →
      (maint = true → s.trust.cfg.pol.maintAllowed = true) → s.host.cmds = [c] →
      (bits (c.w 1) 0 1 = 0 → exec (if maint then .maintEnter r b else .activate r b) s = .next (match s.authorize b (if maint then 2 else 1) with
        | none => s.failCmd c stAuthFailed
        | some t => if maint then t.runMaint c else t.runActivate c)) ∧
      (bits (c.w 1) 0 1 = 1 → exec (if maint then .maintEnter r b else .activate r b) s = .next (match s.authorize b (if maint then 2 else 1) with
        | none => s.failCmd c stAuthFailed
        | some t =>
          let u := t.modCmd c.uid (fun x => { x with wait := .drain, long := c.long })
          { u with host := { u.host with drain := some ⟨c.uid, maint, if c.w 9 = 0 then none else some (t.ticks + c.w 9 * 25000)⟩ } }))) ∧
    (s.runs r 0x1C c → s.mode = .maintenance → exec (.maintExit r) s = .next (State.completeCmd { s.resumeCamps with mode := .service } c c.okStatus 0)) ∧
    (∀ d, s.alive = true → s.host.drain = some d → s.cmdByUid d.uid = some c → s.drained d.uid = true →
      exec .drainComplete s = .next (if d.maint then s.runMaint c else s.runActivate c)) ∧
    (∀ d, s.alive = true → s.host.drain = some d → s.drained d.uid = false → exec .drainComplete s = .next s)
  ) ∧
  (
∀ (s : State) (dt : Nat) (d : Drain) (l : Nat), s.alive = true → s.host.drain = some d → d.deadline = some l → l ≤ (s.advance dt).ticks →
    exec (.drainTimeout dt) s = .next (
      let u := (s.advance dt).cancelAll ((s.advance dt).host.cmds.filter (fun c => c.uid != d.uid)) stAborted
      let v : State := { u with execs := mmap (fun _ e => { e with failed := e.failed.or (some stAborted), cancelled := true }) u.execs }
      v.ulr.ctxs.foldl (fun (t : State) c => t.cancelInvocation c.1 stAborted) v)
  )

/-- (R467, R470 to R472, Table 15-13) On a DOE mailbox that answers, with the log sealed, every SPDM request gets exactly one response, and: GET_VERSION restarts the connection and offers 1.2 and 1.3; GET_CAPABILITIES with one of them moves it to capabilities, NEGOTIATE_ALGORITHMS to negotiated; GET_DIGESTS, GET_CERTIFICATE, CHALLENGE, GET_MEASUREMENTS and KEY_EXCHANGE are answered in a negotiated connection; every other code gets ERROR UnsupportedRequest. Message codes and free bodies: log 21, log 22. (R467, R472, R473) Inside an established session of the mailbox a request counts on both directions of the session: FINISH (of a session not yet established) establishes it when its HMAC verifies, HEARTBEAT is answered, KEY_UPDATE restarts the counts, END_SESSION discards the session, SVN_RAISE carries the owner's block and returns its status word, and IDE_KM programs or switches key sets, the count of secure streams following. -/
def Obligations.SpdmRequestsAnswered : Prop :=
  (
∀ (s : State) (m : Bytes), s.doeOk = true → s.rg .BOT_STATUS_sealed 0 = 1 →
    ((m.getD 1 0).toNat = 0x84 → exec (.getVersion none m) s =
      .next ((s.setConn { s.conn .doe with stage := .version, version := 0x10, transcript := m ++ (spdmHead 0x10 0x04 0 0 ++ [0, 2, 0x00, 0x12, 0x00, 0x13]) }).emit
        (.spdm .doe (spdmHead 0x10 0x04 0 0 ++ [0, 2, 0x00, 0x12, 0x00, 0x13])))) ∧
    ((m.getD 1 0).toNat = 0xE1 → (s.conn .doe).stage ≠ .start → (m.getD 0 0).toNat = 0x13 ∨ (m.getD 0 0).toNat = 0x12 →
      ∃ (t : State) (b : Bytes), exec (.getCapabilities none m) s = .next (t.emit (.spdm .doe (spdmHead (m.getD 0 0).toNat 0x61 0 0 ++ b))) ∧
        t = s.draw.2.setConn { s.conn .doe with stage := .capabilities, version := (m.getD 0 0).toNat, transcript := (s.conn .doe).transcript ++ m ++ (spdmHead (m.getD 0 0).toNat 0x61 0 0 ++ b) }) ∧
    ((m.getD 1 0).toNat = 0xE3 → (s.conn .doe).stage = .capabilities →
      ∃ (t : State) (b : Bytes), exec (.negotiateAlgorithms none m) s = .next (t.emit (.spdm .doe (spdmHead (s.conn .doe).version 0x63 0 0 ++ b))) ∧
        t = s.draw.2.setConn { s.conn .doe with stage := .negotiated, transcript := (s.conn .doe).transcript ++ m ++ (spdmHead (s.conn .doe).version 0x63 0 0 ++ b) }) ∧
    ((m.getD 1 0).toNat = 0x81 → (s.conn .doe).stage = .negotiated →
      ∃ b : Bytes, exec (.getDigests none m) s = .next (s.draw.2.emit (.spdm .doe (spdmHead (s.conn .doe).version 0x01 0 (if s.certSlots.length = 2 then 3 else 1) ++ b)))) ∧
    ((m.getD 1 0).toNat = 0x82 → (s.conn .doe).stage = .negotiated → s.certSlots.contains ((m.getD 2 0).toNat % 16) = true →
      ∃ b : Bytes, exec (.getCertificate none m) s = .next (s.draw.2.emit (.spdm .doe (spdmHead (s.conn .doe).version 0x02 ((m.getD 2 0).toNat % 16) 0 ++ b)))) ∧
    ((m.getD 1 0).toNat = 0x83 → (s.conn .doe).stage = .negotiated → s.certSlots.contains ((m.getD 2 0).toNat % 16) = true →
      ∃ b : Bytes, exec (.challenge none m) s = .next (s.draw.2.draw.2.emit (.spdm .doe (spdmHead (s.conn .doe).version 0x03 ((m.getD 2 0).toNat % 16) 0 ++ b)))) ∧
    ((m.getD 1 0).toNat = 0xE0 → (s.conn .doe).stage = .negotiated →
      exec (.getMeasurements none m) s = .next ((s.spdmMeas (s.conn .doe) m).2.emit (.spdm .doe (s.spdmMeas (s.conn .doe) m).1))) ∧
    ((m.getD 1 0).toNat = 0xE4 → (s.conn .doe).stage = .negotiated →
      exec (.keyExchange none m) s = .next ((s.spdmKeyExchange (s.conn .doe) m).2.emit (.spdm .doe (s.spdmKeyExchange (s.conn .doe) m).1))) ∧
    (spdmSupported.contains (m.getD 1 0).toNat = false → exec (.unsupportedSpdmRequest none m) s = .next (s.emit (.spdm .doe (spdmError (s.conn .doe).version eUnsupported)))) ∧
    (∀ i, i < 3 → exec (.doeDiscovery i) s = .next (s.emit (.doe [0x01, 0x00, BitVec.ofNat 8 i, BitVec.ofNat 8 ((i + 1) % 3)])))
  ) ∧
  (
∀ (s : State) (m : Bytes) (id : Nat), s.doeOk = true → s.rg .BOT_STATUS_sealed 0 = 1 → s.sessionOk .doe (some id) (m.getD 1 0).toNat = true →
    (let u := s.modSession id (fun x => { x with received := x.received + 1, sent := x.sent + 1 })
     ((m.getD 1 0).toNat = 0xE5 → ∀ x, u.trust.sessions.find? (fun y => y.id == id) = some x → x.established = false → exec (.finish (some id) m) s =
       (if Config.spdmFinishOk x.secret m = true then .next ((u.modSession x.id (fun y => { y with established := true })).emit (.spdm .doe (spdmHead (u.conn .doe).version 0x65 0 0)))
        else .next (u.emit (.spdm .doe (spdmError (u.conn .doe).version eDecrypt))))) ∧
     ((m.getD 1 0).toNat = 0xE8 → exec (.heartbeat (some id) m) s = .next (u.emit (.spdm .doe (spdmHead (u.conn .doe).version 0x68 0 0)))) ∧
     ((m.getD 1 0).toNat = 0xE9 → exec (.keyUpdate (some id) m) s = .next ((u.modSession id (fun y => { y with received := 0, sent := 0 })).emit
       (.spdm .doe (spdmHead (u.conn .doe).version 0x69 ((m.getD 2 0).toNat % 16) (m.getD 3 0).toNat)))) ∧
     ((m.getD 1 0).toNat = 0xEC → exec (.endSession (some id) m) s = .next ((u.endSession id).emit (.spdm .doe (spdmHead (u.conn .doe).version 0x6C 0 0)))) ∧
     ((m.getD 1 0).toNat = 0xFE → (u.conn .doe).stage = .negotiated → exec (.svnRaise (some id) m) s =
       .next ((u.spdmVendor (u.conn .doe) (some id) m).2.emit (.spdm .doe (u.spdmVendor (u.conn .doe) (some id) m).1)))) ∧
    (s.sessionOk .doe (some id) 0xFE = true → ∀ q : IdeMsg, ∃ (t : State) (b : Bytes), exec (.ideKm id q) s = .next (t.emit (.spdm .doe b)) ∧
      t.host.link.ide = ideApply s.host.link.ide q ∧ t.rg .HIF_LINK_ide_streams 0 = ((ideApply s.host.link.ide q).filter (·.secure)).length % 8 ∧ t.m = s.m ∧ t.mode = s.mode)
  )

/-- (R467) SVN_RAISE outside MAINTENANCE gives STATE_CONFLICT, and a block that fails its checks AUTH_FAILED, with nothing changed. Answered 0, the version asked for lies above the stage's minimum and is at most its running version, the stage's minimum becomes it, and no other stage's bank changes; answered anything else, no fuse changes. A fuse once blown stays blown. -/
def Obligations.SvnRaiseBlowsOnlyUpward : Prop :=
∀ (s : State) (b : Bytes),
    (s.mode ≠ .maintenance → s.svnRaise b = (stStateConflict, s)) ∧
    (s.mode = .maintenance → s.authorize b 3 = none → s.svnRaise b = (stAuthFailed, s)) ∧
    ((s.svnRaise b).1 ≠ 0 → (s.svnRaise b).2.trust.fuses = s.trust.fuses) ∧
    ((s.svnRaise b).1 = 0 → let st := bits (word32 b 1) 16 3
      let n := bits (word32 b 1) 19 7
      s.trust.fuses.minSvn st < n ∧ n ≤ s.rg .BOT_SVN_running_svn st ∧
      (st < s.trust.fuses.svn.length → (s.svnRaise b).2.trust.fuses.minSvn st = n) ∧
      ∀ k, k ≠ st → (s.svnRaise b).2.trust.fuses.svn.getD k 0 = s.trust.fuses.svn.getD k 0) ∧
    ∀ st k, (s.trust.fuses.svn.getD st 0).getLsbD k = true → ((s.svnRaise b).2.trust.fuses.svn.getD st 0).getLsbD k = true

/-- (R470) SECURITY_SEND, allowed by the policy, gives an unsecured message to the responder and keeps its answer; SECURITY_RECV returns the answer that waits, which is gone once returned whole. -/
def Obligations.SecurityCommandsComplete : Prop :=
∀ (s : State) (r : CmdRef) (c : Cmd) (d : Bytes), s.trust.cfg.pol.spdmAdmin = true → bits (c.w 1) 0 8 = 1 →
    (s.runs r 0x18 c → c.ref.sq = 0 → c.avail = c.w 4 → d.length = c.w 4 →
      exec (.securitySend r d) s = .next (let a := s.spdmAnswer .command none d
        (a.2.setConn { a.2.conn .command with response := some a.1 }).completeCmd c c.okStatus 0)) ∧
    (∀ b, s.runs r 0x19 c → (s.conn .command).response = some b → b.length ≤ c.w 8 →
      exec (.securityRecv r) s = .next (((s.setConn { s.conn .command with response := none }).dataOut c b).completeCmd c c.okStatus b.length))

/-- (R455 to R457, R464, R321) BOOT_ROM_START in an unlocked BOOT takes a fresh nonce, tries the images of the strap in turn, and either halts with no image (halt_cause 2 while no owner is provisioned, else 1), or runs to the seal: log sealed, boot lock set, step 11, and MAINTENANCE under STRAP_DBG where the policy allows it, else SERVICE or DETACHED by HIF_CTL.enable. A warm restart trains no memory and cannot halt after its images pass. -/
def Obligations.BootRomStart : Prop :=
∀ (s : State) (b : BootInputs), s.mode = .boot → s.rg .BOT_STATUS_locked 0 = 0 →
    let s0 : State := ({ s with trust := { s.trust with step1 := s.ticks }, draws := s.draws + 1 })
    let s1 := ({ s0 with regs := s0.regs.setRaw .BOT_NONCE 0 (Config.entropy64 s.draws) }).rs .BOT_STATUS_step 0 1
    let s2 := (if s.pins.strapDbg then s1.rs .BOT_EVENTS_strap_dbg 0 1 else s1).bootDelay b 0
    let s3 : State := if s.trust.kind = .cold then s2 else { s2 with pins := { s2.pins with strapBoot := b.strapBoot } }
    let s4 := (List.range 5).foldl (fun (s : State) st => s.rs .BOT_SVN_fuse_min st (s.trust.fuses.minSvn st)) (s3.rs .BOT_STATUS_strap_boot 0 s3.pins.strapBoot)
    let done (t : State) : Prop := t.rg .BOT_STATUS_locked 0 = 1 ∧ t.rg .BOT_STATUS_sealed 0 = 1 ∧ t.rg .BOT_STATUS_step 0 = 11 ∧
      t.mode = (if t.pins.strapDbg && t.trust.cfg.pol.maintAllowed then .maintenance else if t.rg .HIF_CTL_enable 0 = 1 then .service else .detached)
    match bootImages b (imagesTried s4.pins.strapBoot) 0 s4 with
    | (u, none) => exec (.bootRomStart b) s = .next u ∧ u.mode = .halted ∧ u.rg .BOT_STATUS_halt_cause 0 = (if s.trust.fuses.ownerless then 2 else 1)
    | (_, some _) => ∃ t : State, exec (.bootRomStart b) s = .next t ∧ t.trust.fuses = s.trust.fuses ∧ (b.entries = [] → t.m.mem = s.m.mem) ∧
        (s.trust.kind ≠ .cold → done t) ∧ (s.trust.kind = .cold → done t ∨ t.mode = .halted)

/-- (R500 to R504, R280, R489) Outside RESET every sideband request is answered and counted. GET_STATUS releases SB_ALERT_N; GET_ERRLOG and GET_CAIRN return up to 1,024 bytes from an offset; PROVISION_OWNER blows the owner hash in an ownerless halt of cause 2; HALT_RESTART restarts a halted device of another cause under the owner's block; MEM_TEST runs in MAINTENANCE alone. (R280, R502) PLDM: a sensor of the table reads its value where the sensors are available, and otherwise reads unavailable; a number with no sensor is invalid data. The power cap is the policy's range or 0. Discovery and MCTP control are always answered. -/
def Obligations.SidebandCommands : Prop :=
  (
∀ (s : State), s.mode ≠ .reset →
    (∃ b : Bytes, b.length = 56 ∧ exec .getStatus s = .next ((s.sbAnswer 1 0 b).rs .SBI_STAT_alert 0 0)) ∧
    (∀ off, exec (.getErrlog off) s = .next (s.sbAnswer 2 0 (((s.log.entries.flatMap ErrEntry.bytes).drop off).take 1024))) ∧
    (∀ off, exec (.getCairn off) s = .next (s.sbAnswer 3 0 ((s.trust.log.drop off).take 1024))) ∧
    (∀ hash fused : Bytes, s.mode = .halted → s.rg .BOT_STATUS_halt_cause 0 = 2 → s.trust.fuses.ownerless = true → hash.length = 48 →
      exec (.provisionOwner hash (crc32c hash) fused) s = .next (State.sbAnswer { s with trust := { s.trust with
        fuses := { s.trust.fuses with owner := bslice fused 0 48 } } } 4 (if bslice fused 0 48 = hash then 0 else stDataLoss) [])) ∧
    (∀ (hash fused : Bytes) (crc : Nat), s.mode ≠ .halted ∨ s.rg .BOT_STATUS_halt_cause 0 ≠ 2 ∨ s.trust.fuses.ownerless = false ∨ hash.length ≠ 48 ∨ crc32c hash ≠ crc →
      exec (.provisionOwner hash crc fused) s = .next (s.sbAnswer 4 stInvalidField [])) ∧
    (∀ b, s.mode = .halted → s.rg .ERR_HALT_cause 0 ≠ 2 → exec (.haltRestart b) s = .next (match s.authorize b 4 with
      | none => s.sbAnswer 5 stAuthFailed []
      | some u => (u.sbAnswer 5 0 []).warmStart .haltRestart)) ∧
    (∀ b, s.mode ≠ .halted ∨ s.rg .ERR_HALT_cause 0 = 2 → exec (.haltRestart b) s = .next (s.sbAnswer 5 stStateConflict [])) ∧
    (∀ lo hi p e f, s.mode = .maintenance → lo % 2 = 0 → hi % 2 = 0 → lo < hi → p ≤ 3 → s.populated lo = true → s.populated (hi - 2) = true →
      exec (.memTest lo hi p e f []) s = .next (s.sbAnswer 6 0 (leBytes 8 e ++ leBytes 8 f))) ∧
    (∀ lo hi p e f l, s.mode ≠ .maintenance → exec (.memTest lo hi p e f l) s = .next (s.sbAnswer 6 stStateConflict [])) ∧
    (∀ cmd st b, (s.sbAnswer cmd st b).out = s.out ++ [.sideband cmd st b] ∧ (s.sbAnswer cmd st b).m = s.m ∧ (s.sbAnswer cmd st b).mode = s.mode)
  ) ∧
  (
∀ (s : State), s.mode ≠ .reset →
    (∀ i v, s.sensor i = some v → exec (.pldmSensorRead i) s = .next (s.pldmAnswer 0 (if s.bmcReady then 1 :: leBytes 4 v else [0]))) ∧
    (∀ i, i ≤ 24 ↔ ∃ v, s.sensor i = some v) ∧
    (∀ i, 24 < i → exec (.pldmSensorRead i) s = .next (s.pldmAnswer pldmInvalidData [])) ∧
    (∀ w, s.bmcReady = true → w = 0 ∨ (s.trust.cfg.pol.capMin ≤ w ∧ w ≤ s.trust.cfg.pol.capMax) → exec (.pldmSetPowerCap w) s = .next ((s.pldmAnswer 0 []).rs .PWR_LIMIT_bmc_cap 0 w)) ∧
    (∀ w, s.bmcReady = true → w ≠ 0 → w < s.trust.cfg.pol.capMin ∨ s.trust.cfg.pol.capMax < w → exec (.pldmSetPowerCap w) s = .next (s.pldmAnswer pldmInvalidData [])) ∧
    (∀ w, s.bmcReady = false → exec (.pldmSetPowerCap w) s = .next (s.pldmAnswer pldmNotReady [])) ∧
    (∀ cmd, exec (.pldmDiscovery cmd) s = .next (s.pldmAnswer 0 (Config.mctpBody 0 cmd)) ∧ exec (.mctpControl cmd) s = .next (s.pldmAnswer 0 (Config.mctpBody 1 cmd)))
  )

/-- (R221 to R223, R239, R301) PLAN_LOAD of an image of its declared length, which passes the checks of Table 08-11, within the near-memory quota, the plan allotment and the free slots, stores the copy, takes the lowest free slot with the next generation and returns the handle. PLAN_DROP of a plan nothing refers to frees its slot and copy; a busy plan gives PLAN_BUSY and stays; a handle that names no plan of the Camp gives PLAN_NOT_FOUND. -/
def Obligations.PlanCommandsComplete : Prop :=
∀ (s : State) (r : CmdRef) (c : Cmd),
    (∀ (d : Bytes) (da k : Nat) (u : State) (p : Plan), s.runs r 0x40 c → c.avail = d.length → imageLen d = some d.length →
      (s.dataIn c d).2.takeNear c.camp (units64k d.length) = some u → planLoad d = .ok p →
      (List.range 16384).find? (fun k => match mget k u.plans.plans with | some q => q.plan.isNone | none => true) = some k → u.planCount c.camp < u.planAllot c.camp →
      exec (.planLoad r d da) s = .next (let g := nextGen 8 (((mget k u.plans.plans).map (·.gen)).getD 0)
        State.completeCmd { u.memPut da d with plans := { u.plans with
          plans := mput k ⟨g, c.camp, da, units64k d.length, false, some p⟩ u.plans.plans } } c c.okStatus (planHandle c.camp k g))) ∧
    (∀ slot q p, s.runs r 0x41 c → s.planAt c.camp (c.w 9) = some (slot, q, p) →
      exec (.planDrop r) s = .next (if s.planBusy slot then s.failCmd c stPlanBusy else (s.dropPlan slot q).completeCmd c c.okStatus 0)) ∧
    (s.runs r 0x41 c → s.planAt c.camp (c.w 9) = none → exec (.planDrop r) s = .next (s.failCmd c stPlanNotFound))

/-- (R224, R225) EXECUTE whose binding block passes every step of R224 (plan, limits, bindings, tables, types, result ring, sound copies, Match Unit resources) starts the execution and waits for it; each failing step ends the command with that step's status and word. -/
def Obligations.ExecuteStartsAnExecution : Prop :=
∀ (s : State) (r : CmdRef) (c : Cmd) (d : Bytes) (homes : List Nat), s.runs r 0x42 c → c.avail = d.length → word32 d 1 = d.length → blockHeadOk d = true →
    let u := (s.dataIn c d).2
    match u.bindPlan c.camp (c.w 9) d with
    | .error e => exec (.execute r d homes) s = .next (u.failCmd c e.status e.word)
    | .ok (slot, q, p, m) =>
      (p.hasResult = true → mget (fq c.ref.fn (bits (c.w 10) 0 16)) u.host.rings = none →
        exec (.execute r d homes) s = .next (u.failCmd c stQueueInvalid (bindFail stQueueInvalid 6 noIndex).word)) ∧
      (p.hasResult = false → u.planLost slot q = none → u.tablesLost c.camp p m = none →
        exec (.execute r d homes) s = .next (match u.startRun c.camp slot p m (.command c.uid) c.ref.fn 0xFFFF c.strict homes with
          | .error (st, w) => u.failCmd c st w
          | .ok (t, id) => (t.modCmd c.uid (fun x => { x with wait := .exec id, long := c.long })).dispatch))

/-- (R242, R243) STANDING_SET with a legal interval and a block that binds takes the lowest free ID within the allotments and answers it, its first due time the first not before now. STANDING_CLEAR of the Camp's own query ends it: at once, or once the run in progress has ended. (R243, R245, R246) Once due times have come, the latest starts the query's run when it is at most 100 us past and nothing forbids it; every other due time is skipped and counted. A record enters its store with its number and what was lost before it, or is counted lost where it does not fit. -/
def Obligations.StandingQueries : Prop :=
  (
∀ (s : State) (r : CmdRef) (c : Cmd),
    (∀ (d : Bytes) (slot : Nat) (q : PlanSlot) (p : Plan) (m : Map Bound) (id : Nat), s.runs r 0x46 c → c.avail = d.length → word32 d 1 = d.length → blockHeadOk d = true →
      1000000 ≤ c.w 12 + 2 ^ 32 * c.w 13 → c.w 12 + 2 ^ 32 * c.w 13 ≤ 2 ^ 48 → (s.dataIn c d).2.bindPlan c.camp (c.w 9) d = .ok (slot, q, p, m) →
      mfree s.plans.standing 0 1024 = some id → (s.plans.standing.filter (fun q => q.2.camp == c.camp)).length < s.standingAllot c.camp →
      exec (.standingSet r d) s = .next (((s.dataIn c d).2.setStanding id ⟨c.camp, slot, m, c.w 10 + 2 ^ 32 * c.w 11, c.w 12 + 2 ^ 32 * c.w 13,
        if c.w 14 = 0 then none else some (c.w 14), c.strict, firstDue s.devtime.toNat (c.w 10 + 2 ^ 32 * c.w 11) (c.w 12 + 2 ^ 32 * c.w 13), 0, none, false⟩).completeCmd c c.okStatus id)) ∧
    (∀ q, s.runs r 0x47 c → mget (bits (c.w 9) 0 10) s.plans.standing = some q → q.camp = c.camp → q.cleared = false →
      exec (.standingClear r) s = .next (if q.exec = none then (s.delStanding (bits (c.w 9) 0 10)).completeCmd c c.okStatus 0
        else (s.setStanding (bits (c.w 9) 0 10) { q with cleared := true }).completeCmd c c.okStatus 0)) ∧
    (∀ now start interval, 0 < interval → now ≤ start + firstDue now start interval * interval ∧
      (∀ k, k < firstDue now start interval → start + k * interval < now))
  ) ∧
  (
(∀ (s : State) (dt id : Nat) (homes : List Nat) (q : Standing), s.alive = true → mget id s.plans.standing = some q → q.cleared = false → q.count = none → 0 < q.interval →
    q.start + q.next * q.interval ≤ (s.advance dt).devtime.toNat →
    let k := ((s.advance dt).devtime.toNat - q.start) / q.interval
    (((s.advance dt).devtime.toNat ≤ q.start + k * q.interval + 100000 ∧ (s.advance dt).mayRun q = true) →
      exec (.standingDue dt id homes) s = .next ((s.advance dt).startStanding id { q with next := k + 1, skips := q.skips + (k - q.next) } k homes)) ∧
    (¬((s.advance dt).devtime.toNat ≤ q.start + k * q.interval + 100000 ∧ (s.advance dt).mayRun q = true) →
      exec (.standingDue dt id homes) s = .next ((s.advance dt).setStanding id { q with next := k + 1, skips := q.skips + (k + 1 - q.next) }))) ∧
  (∀ (s : State) (camp : Nat) (x : Record), let st := mgetD Store.empty camp s.records
    s.addRecord camp x = (if s.storeFree camp < x.size then { s with records := mput camp { st with lost := st.lost + 1, lostSince := st.lostSince + 1 } s.records }
      else { s with records := mput camp { st with recs := st.recs ++ [{ x with num := st.next, lost := st.lostSince }], next := st.next + 1, lostSince := 0 } s.records }))
  )

/-- (R245, R366) RESULT_FETCH frees the records up to the acknowledged number. With acknowledge-only it answers the oldest one left; otherwise it returns the oldest record's descriptor, its stream too where a ring is named; an empty store answers 0. (R234, R354, R367) INGEST into an existing table of its Camp, its options legal: a stream whose messages end cleanly and whose batches commit returns the report of handle, batches and rows and answers the rows; under STRICT a short or long stream, and in either policy a message fault, fails it with nothing committed and what it dropped counted. -/
def Obligations.ResultFetchAndIngest : Prop :=
  (
∀ (s : State) (r : CmdRef) (c : Cmd), s.runs r 0x43 c →
    let st := mgetD Store.empty c.camp s.records
    let recs := st.recs.filter (fun r => decide (c.w 10 < r.num))
    let u : State := { s with records := mput c.camp { st with recs := recs } s.records }
    (bits (c.w 11) 0 1 = 1 → exec (.resultFetch r) s = .next (u.completeCmd c c.okStatus ((recs.head?).elim 0 (·.num)))) ∧
    (bits (c.w 11) 0 1 = 0 → bits (c.w 9) 0 16 = 0xFFFF → recs = [] → exec (.resultFetch r) s = .next (u.completeCmd c c.okStatus 0)) ∧
    (∀ x l, bits (c.w 11) 0 1 = 0 → bits (c.w 9) 0 16 = 0xFFFF → recs = x :: l → exec (.resultFetch r) s = .next ((u.dataOut c x.descriptor).completeCmd c c.okStatus x.num)) ∧
    (∀ g x l, bits (c.w 11) 0 1 = 0 → bits (c.w 9) 0 16 ≠ 0xFFFF → mget (fq c.ref.fn (bits (c.w 9) 0 16)) s.host.rings = some g → g.camp = c.camp → recs = x :: l → x.stream ≠ [] →
      exec (.resultFetch r) s = .next ((((u.dataOut c x.descriptor).modCmd c.uid (fun d => { d with wait := .stream, result := x.num })).streamMsgs c (bits (c.w 9) 0 16) x.stream).endStream c.uid 0))
  ) ∧
  (
∀ (s : State) (r : CmdRef) (c : Cmd) (d : Bytes) (msgs : List ArrowMsg) (ch : TableChoice) (hl slot : Nat) (opts : List Nat) (t : Table),
    s.runs r 0x44 c → let u := (s.dataIn c d).2
    ingestOptions (s.dataIn c d).1 = some (hl, opts) → c.w 9 ≠ 0 → hl ≤ c.avail → 8 ≤ c.avail → u.tableAt c.camp (c.w 9) = some (slot, t) → u.listLost slot t = none →
    match State.ingestMsgs c.camp c.strict opts (some t) msgs (c.avail - hl) u ⟨none, [], [], 0, 0, 0, ch.blocks, ch.dicts⟩ with
    | (_, g, .error (.status st)) => exec (.ingest r d msgs ch) s = .next (u.failIngest c g st)
    | (v, g, .eos n) => (c.strict = true → 0 < n → exec (.ingest r d msgs ch) s = .next (u.failIngest c g stLengthLong)) ∧
        (c.strict = false ∨ n = 0 → match v.commitIngest c.camp (c.w 9) (bits (c.w 10) 0 1 == 1) g ch.list with
          | .ok (w, h) => exec (.ingest r d msgs ch) s = .next (((w.countDrops c.camp g).dataOut c (ingestReport h g.out.length g.rows)).completeCmd
              { c with dropped := g.badRows } (if 0 < n then warnSt 0x008 else c.okStatus) (min g.rows (2 ^ 32 - 1)))
          | .error (.status st) => exec (.ingest r d msgs ch) s = .next (u.failIngest c g st)
          | .error .choice => True)
    | (_, g, .short) => (c.strict = true → exec (.ingest r d msgs ch) s = .next (u.failIngest c g stLengthShort)) ∧
        (c.strict = false → g.fields = none → exec (.ingest r d msgs ch) s = .next (u.failIngest c g stSchemaFault))
    | (_, _, .error .choice) => True
  )

/-- (R368, R481) DIGEST on the root engine, its context claimed: start appends the message and answers the context's handle; update of the Camp's own context appends more; finish appends the last bytes and waits for the engine. A handle that is not the Camp's gives INVALID_FIELD, no free context BUSY. -/
def Obligations.DigestCommandComplete : Prop :=
∀ (s : State) (r : CmdRef) (c : Cmd) (d : Bytes), s.runs r 0x45 c → c.avail = c.w 4 → d.length = c.w 4 → bits (c.w 9) 0 2 ≠ 3 →
    let u := (s.dataIn c d).2
    let k := 256 + bits (c.w 10) 0 4
    let mine := (u.dctx k).owner = .command c.camp ∧ u.rg .DGE_STAT_state k = 2 ∧ (u.dctx k).gen = bits (c.w 10) 4 4 ∧ (u.dctx k).finish = false
    (bits (c.w 9) 9 2 = 1 → bits (c.w 9) 2 1 = 0 → match u.dgeClaim 16 (.command c.camp) with
      | (none, v) => exec (.digest r d) s = .next (v.failCmd c stBusy)
      | (some n, v) => let w := (v.rs .DGE_CTL_alg (256 + n) (bits (c.w 9) 0 2)).dgeCtl (256 + n) (bits (c.w 9) 0 8 + 2 ^ 10 * c.camp + 2 ^ 21)
          w.rg .DGE_STAT_state (256 + n) = 2 → exec (.digest r d) s = .next ((w.digestData (256 + n) d).completeCmd c c.okStatus (n + 16 * (w.dctx (256 + n)).gen))) ∧
    (bits (c.w 9) 9 2 = 2 → mine → exec (.digest r d) s = .next ((u.digestData k d).completeCmd c c.okStatus 0)) ∧
    (bits (c.w 9) 9 2 = 3 → mine → bits (c.w 9) 8 1 = 0 → (algOf (u.dctx k).alg).size ≤ c.w 8 →
      exec (.digest r d) s = .next (((u.digestData k d).dgeFinish k).modCmd c.uid (fun x => { x with wait := .digest k, long := c.long }))) ∧
    (bits (c.w 9) 9 2 = 2 → ¬ mine → exec (.digest r d) s = .next (u.failCmd c stInvalidField))

/-- (R249 to R252, R439) EXT_CALL to a granted service of an ACTIVE service Camp with room starts an invocation and waits for its thread; a missing extension or grant gives EXT_DENIED, a quarantined one EXT_FAULT, no room BUSY. A service timer at its due time invokes its service, or skips. An invocation beyond its tile-time limit is cancelled with EXT_TIMEOUT. -/
def Obligations.ServicesComplete : Prop :=
(∀ (s : State) (r : CmdRef) (c : Cmd) (d : Bytes) (v : SvcEnv), s.runs r 0x48 c → c.avail = c.w 4 → d.length = c.w 4 → c.w 4 ≤ 4096 →
    let u := (s.dataIn c d).2
    let camp := bits (c.w 9) 0 10
    let service := bits (c.w 9) 10 6
    (u.extOf camp = none → exec (.extCall r d v) s = .next (u.failCmd c stExtDenied)) ∧
    (∀ x, u.extOf camp = some x → u.granted x service c.camp = false → exec (.extCall r d v) s = .next (u.failCmd c stExtDenied)) ∧
    (∀ x e, u.extOf camp = some x → u.granted x service c.camp = true → v.entry = some e → u.campState camp = .quarantined →
      exec (.extCall r d v) s = .next (u.failCmd c stExtFault)) ∧
    (∀ x e, u.extOf camp = some x → u.granted x service c.camp = true → v.entry = some e → u.campState camp ≠ .quarantined → u.svcRoom x camp = false →
      exec (.extCall r d v) s = .next (u.failCmd c stBusy)) ∧
    (∀ x e t, u.extOf camp = some x → u.granted x service c.camp = true → v.entry = some e → u.campState camp ≠ .quarantined → u.svcRoom x camp = true →
      u.startCall ⟨camp, x, c.camp, some c.uid, 0, service, 0, d⟩ v e = some t →
      exec (.extCall r d v) s = .next (t.modCmd c.uid (fun x => { x with wait := .thread v.core v.slot, long := c.long })))) ∧
  (∀ (s : State) (dt n : Nat) (v : SvcEnv) (t : TimerRec) (camp : Nat) (x : ExtRec) (u : State), s.alive = true → s.trust.cfg.timers[n]? = some t →
    s.campOfExt t.ext = some camp → s.extOf camp = some x → t.runs = 0 → 0 < t.interval →
    let w := s.advance dt
    let r := mgetD (⟨0, 0⟩ : TimerRun) n s.ulr.timers
    let start := s.ulr.bootTime.toNat + t.start
    let k := (w.devtime.toNat - start) / t.interval
    start + r.next * t.interval ≤ w.devtime.toNat →
    let ok := decide (w.devtime.toNat ≤ start + k * t.interval + 100000) && w.mayInvoke camp && !w.timerBusy camp n && w.svcRoom x camp
    (ok = true → (w.setTimer n ⟨k + 1, r.skips + (k - r.next)⟩).startTimer n camp x t v = some u → exec (.serviceTimerDue dt n v) s = .next u) ∧
    (ok = false → exec (.serviceTimerDue dt n v) s = .next (w.setTimer n ⟨k + 1, r.skips + (k + 1 - r.next)⟩))) ∧
  (∀ (s : State) (dt core slot : Nat) (j : Invocation), s.alive = true → core < 128 → slot < 32 →
    let w := (s.advance dt).chargeThread (ctxKey core slot)
    (w.uctx (ctxKey core slot)).inv = some j → j.limit < j.used → exec (.extTimeout dt core slot) s = .next (w.cancelInvocation (ctxKey core slot) stExtTimeout))

/-- (R256 to R260, R262) Tokens. A header allocates the entry that firmware names when it is FREE and no limit binds, is queued under a limit, stale for a Camp that takes no tokens, refused for a cancelled execution. A release with the epoch of a WAITING entry arrives and may make it READY; another is stale and counted. The first header of a lane is readmitted once it may. -/
def Obligations.TokenRows : Prop :=
(∀ (s : State) (n tag da : Nat) (k : NetTok) (e : Exec) (p : Plan) (f : Frag), s.alive = true → tag < 65536 → mget n s.run.net = some k → k.entry = none → k.queued = false →
    mget k.exec s.execs = some e →
    (e.cancelled = true → exec (.tokenHeader n tag da) s = .next (((s.takeTok n k).freeToken k.exec k.die k.body k.route k.units).loseTask k.exec k.frag)) ∧
    (e.cancelled = false → s.accepts e.camp = false → exec (.tokenHeader n tag da) s = .next (s.staleTok n k e.camp 0 0)) ∧
    (e.cancelled = false → s.accepts e.camp = true → s.planOf e = some p → p.frags[k.frag]? = some f → s.limited k.die e.camp (e.bound p k.frag) = false →
      (s.entry k.die tag).state = .free → exec (.tokenHeader n tag da) s = .next (s.allocEntry n k e f (e.bound p k.frag) tag da)) ∧
    (∀ u, e.cancelled = false → s.accepts e.camp = true → s.planOf e = some p → p.frags[k.frag]? = some f → s.limited k.die e.camp (e.bound p k.frag) = true →
      s.takeNear e.camp (queueUnits (s.queued e.camp k.die + 1) - queueUnits (s.queued e.camp k.die)) = some u →
      ∃ t, exec (.tokenHeader n tag da) s = .next t ∧ t.run.net = mput n { k with queued := true } u.run.net ∧
        mgetD [] (laneKey e.camp k.die (e.bound p k.frag)) t.run.overflow = mgetD [] (laneKey e.camp k.die (e.bound p k.frag)) u.run.overflow ++ [n])) ∧
  (∀ (s : State) (n tag epoch : Nat) (k : NetTok), s.alive = true → mget n s.run.net = some k → k.entry = some (tag, epoch) →
    let x := s.entry k.die tag
    (∀ e p f, x.epoch = epoch → x.state = .waiting → s.accepts x.camp = true → mget k.exec s.execs = some e → s.planOf e = some p → p.frags[k.frag]? = some f →
      exec (.tokenRelease n) s = .next (((((s.takeTok n k).setEntry k.die tag
        { x with arrived := if bits x.arrived (f.kinds.idxOf 0) 1 = 1 then x.arrived else x.arrived + 2 ^ f.kinds.idxOf 0 }).readyIf k.die tag).settleExec k.exec).dispatch)) ∧
    (x.epoch ≠ epoch ∨ x.state ≠ .waiting ∨ s.accepts x.camp = false → exec (.tokenRelease n) s = .next (((s.staleTok n k x.camp tag epoch).settleExec k.exec).dispatch))) ∧
  (∀ (s : State) (camp die n tag da : Nat) (lane : Bool) (l : List Nat) (k : NetTok) (e : Exec) (p : Plan) (f : Frag), s.alive = true → tag < 65536 →
    mgetD [] (laneKey camp die lane) s.run.overflow = n :: l → mget n s.run.net = some k → mget k.exec s.execs = some e → s.planOf e = some p → p.frags[k.frag]? = some f →
    e.cancelled = false → s.limited die camp (e.bound p k.frag) = false → (s.entry die tag).state = .free →
    exec (.overflowReadmit camp die lane tag da) s = .next ((s.unqueue camp die n).allocEntry n k e f (e.bound p k.frag) tag da)) ∧
  (∀ (s : State) (n key : Nat) (k : EventToken), s.alive = true → s.io.tokens.find? (fun t => t.source == n) = some k →
    let u := State.rs { s with io := { s.io with tokens := s.io.tokens.filter (fun t => t.source != n) } } .EVR_SRC_in_service n 0
    u.takesEvent k.die k.tag k.epoch k.camp = true → u.threadOf k.die k.tag = some key →
    exec (.threadEventToken n) s = .next (let v := (u.setU key ((u.uctx key).setCreg crEvsrc (n + 512))).ra .ULR_STAT_requests (key / 32) 1
      ((v.setEntry k.die k.tag { v.entry k.die k.tag with arrived := 1 }).makeReady k.die k.tag).dispatch))

/-- (R232, R260, R262, R267, R268, R437) Tasks. A done task sends its outputs and ends with reason 3, a failed one with reason 4 and its status, one of a cancelled execution with reason 5. 2 us of DRAINING free an entry and advance its epoch. CANCEL_NET reaps what stopped. A waiting entry past xdie_wait is selected again; a thread past its quantum yields. (R226, R172, R231, R232, R234, R244) The ends of an execution. A COMPLETE fence fires once, on a completed fragment whose batches are all delivered; the end fence of an exchange reaches a destination whose batches are delivered; a failed or cancelled execution whose tasks have stopped ends failed; a finished one drains its results and ends as its starter asks. -/
def Obligations.TasksAndExecutionEnds : Prop :=
  (
(∀ (s : State) (die tag m : Nat) (t : Task), s.alive = true → s.taskAt (die * 65536 + tag) = some t → (s.entry die tag).state = .running →
    (∀ st, t.w.failed = some st → exec (.taskComplete die tag m) s = .next (s.endTask die tag m 0x04 st t.w)) ∧
    (t.w.failed = none → t.w.done = true → t.e.cancelled = false → t.w.route = none →
      exec (.taskComplete die tag m) s = .next ((s.sendOutputs t.p t.w.exec t.w.frag t.w.tile t.w.out).endTask die tag m 0x03 m t.w)) ∧
    (t.e.cancelled = true → t.w.failed = none → exec (.taskStopAtBoundary die tag m) s = .next (s.endTask die tag m 0x05 0 t.w))) ∧
  (∀ (s : State) (dt die tag : Nat), s.alive = true → (s.entry die tag).state = .draining → (s.entry die tag).since + 50 ≤ (s.advance dt).ticks →
    exec (.entryFree dt die tag) s = .next ((s.advance dt).setEntry die tag { Entry.fresh with epoch := ((s.entry die tag).epoch + 1) % 16, since := (s.advance dt).ticks })) ∧
  (∀ (s : State) (k : Nat), s.alive = true → exec (.cancelNet k) s = .next (s.cancelNet k).reapAll) ∧
  (∀ (s : State) (dt die tag : Nat), s.alive = true → (s.entry die tag).state = .ready → (s.entry die tag).since + s.rg .DPT_CTL_xdie_wait die ≤ (s.advance dt).ticks →
    exec (.xdieWaitExpiry dt die tag) s = .next (s.advance dt).dispatch) ∧
  (∀ (s : State) (dt core slot d t : Nat), s.alive = true → core < 128 → slot < 32 → s.runningEntry (ctxKey core slot) = some (d, t) → (s.uctx (ctxKey core slot)).xfer = none →
    s.rg .DPT_CTL_quantum d ≤ (s.advance dt).ticks - (s.entry d t).since →
    exec (.quantumExpiry dt core slot) s = .next (((s.advance dt).yieldThread (ctxKey core slot) (some 0)).reap (ctxKey core slot)))
  ) ∧
  (
∀ (s : State) (id : Nat) (e : Exec) (p : Plan), s.alive = true → mget id s.execs = some e → s.planOf e = some p →
    (∀ (f : Nat) (g : Exec), e.cancelled = false → e.failed = none → (e.frag f).complete = true → (e.frag f).fired = false → mget id (s.flushFrag id f p).execs = some g → g.cancelled = false → g.fragIdle p f = true →
      exec (.fenceFire id f) s = .next (((p.edges.filter (fun x => x.src == f && x.kind == 1 && x.fence == 0)).foldl (fun (u : State) x => u.fireSlot id p x.dst x.slot)
        ((s.flushFrag id f p).modExec id (fun e => e.modFrag f (fun g => { g with fired := true })))).afterFence id p)) ∧
    (∀ (f : Nat), (e.frag f).fired = true → exec (.fenceFire id f) s = .next s) ∧
    (∀ (op dest f : Nat) (ds : List Where) (g : Exec), e.cancelled = false → e.failed = none → p.fragOf op = some f → p.exchAt f = some (op, ds) → dest < ds.length → (e.frag f).complete = true →
      e.ended.contains (destKey op dest) = false → mget id (s.flushFrag id f p).execs = some g → g.cancelled = false → g.destIdle op dest = true →
      exec (.exchEndFire id op dest) s = .next (((s.flushFrag id f p).modExec id (fun e => { e with ended := e.ended ++ [destKey op dest] })).afterFence id p)) ∧
    (∀ chs, (e.failed ≠ none ∨ e.cancelled = true) → s.execStopped id = true → exec (.executionComplete id chs) s = .next (s.finishFailed id e (e.failed.getD stAborted)).dispatch) ∧
    (∀ chs g, e.failed = none → e.cancelled = false → mget id (s.drainResult id p).execs = some g → g.failed = none → (s.drainResult id p).execFinished id g p = true →
      exec (.executionComplete id chs) s = .next (match g.by_ with
        | .command uid => ((s.drainResult id p).finishCommand id uid g p chs).dispatch
        | .standing q run => ((s.drainResult id p).finishStanding id q run g p chs).dispatch
        | .service core slot addr cap => ((s.drainResult id p).finishService id core slot addr cap g p chs).dispatch))
  )

/-- (R270 to R272, R363, R290) A Ration period boundary renews every component of every Camp, drops the amounts that waited, records each Camp on both dies, and dispatches. A renewed component takes its new amount, its remainder the amount plus its debt, and the exhausted bit says whether that is positive; an unlimited one is never exhausted. Tile-time exhaustion stops threads. -/
def Obligations.RationRows : Prop :=
(∀ (s : State) (dt : Nat), s.alive = true → s.mode ≠ .boot → ((s.advance dt).ticks - s.power.bootEnd) % s.periodTicks = 0 →
    exec (.rationPeriod dt) s = .next (
      let u := [0, 1].foldl (fun (s : State) d => s.setDie d { s.die d with heldRation := [], heldEnergy := [] }) (s.advance dt)
      let v := (s.camps.map (·.1)).foldl (fun (s : State) c => (List.range 6).foldl (fun (s : State) k => s.renewRation c k) s) u
      ((s.camps.map (·.1)).foldl (fun (s : State) c => [0, 1].foldl (fun (s : State) d => s.trace d ⟨0, 0, c, 0, 0, 0, 0x0B, 0, s.debt c, 0⟩) s) { v with rationNext := [] }).dispatch)) ∧
  (∀ (s : State) (c k a : Nat), c < 1024 → k < 6 → mget (8 * c + k) s.rationNext = some a → a < unlimited →
    ∃ t : State, s.renewRation c k = t.setExhausted c k (decide ((a : Int) + min (s.remain c k) 0 ≤ 0)) ∧ t.rg .CPM_RATION_amount (8 * c + k) = a ∧
      t.rg .CPM_REMAIN_remain (8 * c + k) = ofInt 42 ((a : Int) + min (s.remain c k) 0) % 2 ^ 42 ∧ t.m = s.m ∧ t.mode = s.mode ∧ t.execs = s.execs) ∧
  (∀ (s : State) (dt camp : Nat), s.alive = true → camp < 1024 →
    let ts := (s.advance dt).campThreads camp
    let u := ts.foldl State.chargeThread (s.advance dt)
    exec (.rationExhausted dt camp 0) s = .next (if u.isExhausted camp 0 then ts.foldl (fun (s : State) key => s.yieldThread key (some 1)) u else u))

/-- (R275 to R279) A governor period takes the samples, refills the buckets, steps the frequencies of both dies, freezes and thaws clusters and dispatches. A cluster's step stays within 800 MHz and 2 GHz, falls to 800 MHz under PROCHOT_N or a hot stop, and rises by one step at most, never at or above the throttle temperature. (R279, R283 to R285, R307, R477) The regulator's report of a voltage is kept and the frequencies that waited for it rise; its silence past the deadline is counted and leaves them. After cold_after in Frozen-retained a cluster writes back what is dirty, loses its cache and its engine's keys and is Frozen-cold. After the wake latency a thawed cluster is Idle. -/
def Obligations.GovernorAndRegulators : Prop :=
  (
(∀ (s : State) (dt : Nat) (m : Samples), s.alive = true → (s.advance dt).ticks % 2500 = 0 → exec (.governorPeriod dt m) s = .next (
    let u := [0, 1].foldl State.dvfs (((s.advance dt).thermal m).refill m)
    let v := [0, 1].foldl State.thaw ((List.range 16).foldl State.freeze u)
    ([0, 1].foldl (fun (s : State) d => s.setDie d { s.die d with workWaited := false }) v).dispatch)) ∧
  (∀ (s : State) (c : Nat), 16 ≤ s.rg .PWR_CLUSTER_f_step c → s.rg .PWR_CLUSTER_f_step c ≤ 40 → 16 ≤ s.nextStep c ∧ s.nextStep c ≤ 40 ∧ s.nextStep c ≤ s.rg .PWR_CLUSTER_f_step c + 1) ∧
  (∀ (s : State) (c : Nat), s.pins.prochot = true ∨ s.rg .THM_CTL_hot_stop 0 = 1 → s.nextStep c = 16) ∧
  (∀ (s : State) (c : Nat), s.rg .THM_CTL_t_throttle 0 ≤ s.rg .THM_CLUSTER_t_max c → s.rg .THM_CLUSTER_valid c ≠ 0 → s.nextStep c ≤ max 16 (s.rg .PWR_CLUSTER_f_step c - 1))
  ) ∧
  (
(∀ (s : State) (port : Nat) (a : AvsWait), s.alive = true → mget port s.power.avsWait = some a →
    exec (.avsComplete port) s = .next (a.raises.foldl (fun (s : State) p => if s.frozen p.1 || s.pins.prochot || s.rg .THM_CTL_hot_stop 0 = 1 then s else s.setStep p.1 p.2)
      { s.rs .PWR_AVS_vread port a.mv with power := { s.power with avsWait := mdel port s.power.avsWait } })) ∧
  (∀ (s : State) (dt port : Nat) (a : AvsWait), s.alive = true → mget port s.power.avsWait = some a → a.deadline ≤ (s.advance dt).ticks →
    exec (.avsTimeout dt port) s = .next (State.ra { s.advance dt with power := { s.power with avsWait := mdel port s.power.avsWait } } .PWR_AVS_timeouts port 1)) ∧
  (∀ (s : State) (dt c : Nat), s.alive = true → c < 16 → s.rg .PWR_CLUSTER_pstate c = 2 → mhas c s.power.thawing = false →
    mgetD (s.advance dt).ticks c s.power.since + s.rg .PWR_CTL_cold_after 0 * 25000 ≤ (s.advance dt).ticks →
    ∃ t : State, exec (.frozenColdEntry dt c) s = .next t ∧ t.rg .PWR_CLUSTER_pstate c = 3 ∧ t.cache c = ClusterCache.empty ∧
      t.trust.keys = s.trust.keys.filter (fun p => p.1 / 32 != c) ∧ mget c t.power.since = some (s.advance dt).ticks) ∧
  (∀ (s : State) (dt c d : Nat), s.alive = true → mget c s.power.thawing = some d → d ≤ (s.advance dt).ticks →
    ∃ t : State, exec (.thawComplete dt c) s = .next t.dispatch ∧ (c < 16 → t.rg .PWR_CLUSTER_pstate c = 1) ∧ mget c t.power.thawing = none ∧ (t.cache c).recorded = [] ∧ (t.cache c).recordAll = false)
  )

/-- (R35, R56, R58, R61, R63) A scan reads the header, the plane check table and the planes it needs, in that order, charged: a piece that is there, sound and in agreement is kept; a poisoned one drops the batch as poisoned, a failed check as CRC or malformed with its condition's number. (R73, R76, R86, R534) The tile core's part of FILTER: a term is reduced once on a dictionary, its reads charged, to code ranges or a bitmap; a heap compare reads and checks the row's record and settles every constant of the term with its bytewise order; a record that fails drops its row. -/
def Obligations.ScansAndFilters : Prop :=
  (
∀ (s : State) (die tag c : Nat) (t : Task), s.task die tag = some t →
    (∀ k, t.scanCol c true = some k → k.da % 256 = 0 →
      let u := s.chargeTask t.w k.da 128
      let b := u.viewGet (some t.w.cluster) k.da 2 128
      (u.memPoisoned k.da 128 = true → exec (.scanHeaderRead die tag c) s = .next (u.dropBatch t t.w .poisoned 0xF k.da)) ∧
      (u.memPoisoned k.da 128 = false → hdrFault b = some 2 → exec (.scanHeaderRead die tag c) s = .next (u.dropBatch t t.w .crc 2 k.da)) ∧
      (u.memPoisoned k.da 128 = false → hdrFault b = none → t.agrees c (hdrRead b) = true →
        exec (.scanHeaderRead die tag c) s = .next ((u.ra .SCN_BLOCKS_scanned t.w.tile 1).goOn t.key { t.w with cols := lset t.w.cols c { k with hdr := some (hdrRead b) } }))) ∧
    (∀ k, t.scanCol c true = some k → k.da % 256 ≠ 0 → exec (.scanHeaderRead die tag c) s = .next (s.dropBatch t t.w .malformed 1 k.da)) ∧
    (∀ k h, t.scanCol c false = some k → k.hdr = some h →
      let u := s.chargeTask t.w (k.da + h.tableOff) (h.tableDigits / 2)
      let b := u.viewGet (some t.w.cluster) (k.da + h.tableOff) 5 (h.tableDigits / 2)
      u.memPoisoned (k.da + h.tableOff) (h.tableDigits / 2) = false →
      exec (.checkTableRead die tag c) s = .next (if crc32c b = h.tableCrc then u.goOn t.key { t.w with cols := lset t.w.cols c { k with table := some b } }
        else u.dropBatch t t.w .crc 7 k.da)) ∧
    (∀ i k h tb b, t.w.cols[c]? = some k → k.hdr = some h → k.table = some tb → (s.needs t).contains (.plane c i) = true →
      let u := s.chargeTask t.w (k.da + h.planeOff i) (h.planeLen i / 2)
      let k' := { k with planes := mput i (bytesDigits b) k.planes }
      u.memPoisoned (k.da + h.planeOff i) (h.planeLen i / 2) = false → u.planeRead (some t.w.cluster) k.da h tb i = some b →
      exec (.planeFetch die tag c i) s = .next (match k'.fault h with
        | some n => (u.ra .SCN_PLANES_fetched t.w.tile 1).dropBatch t { t.w with cols := lset t.w.cols c k' } .malformed n k.da
        | none => (u.ra .SCN_PLANES_fetched t.w.tile 1).goOn t.key { t.w with cols := lset t.w.cols c k' }))
  ) ∧
  (
∀ (s : State) (die tag term : Nat) (t : Task) (i : Nat) (o : PlanOp) (b : Batch) (ts : List FTerm) (steps : List Nat) (ft : FTerm), s.working die tag t i o b → o.body = .filter ts steps →
    ts[term]? = some ft → let x := s.filterCtx t o ts steps
    (∀ c k h u w d bs, (s.needs t).contains (.reduce term 0) = true → (x.sides t.w b ft).1 = .blk c k h → s.loadDict t.w c k h = (u, some (w, d)) → (w.cols.getD c k).fault h = none →
      ft.colcol = false →
      let es := ((w.cols.getD c k).dict).getD []
      let like := ft.op == 10 || ft.op == 11
      let v := (reductionReads like (x.lanesOf ft).2 es).foldl (fun (s : State) r => s.chargeTask w r.1 r.2) u
      es.mapM (v.entryBytes w.cluster like (x.lanesOf ft).2) = .ok bs →
      let set := codeSet d.sorted ft x.lanes h.stored (bs.map (entryTruth t.p ft (x.lanesOf ft).1 (x.lanesOf ft).2))
      exec (.dictTermReduction die tag term 0) s = .next (v.goOn t.key { w with codes := mput (2 * term) set w.codes })) ∧
    (∀ row z vs v, (s.needs t).contains (.heap term row) = true → mget (term * 4096 + row) t.w.search = none → ft.colcol = false → (x.sides t.w b ft).1 = .vals z vs →
      (Planes.ofVals vs).strAt row = some v →
      let u := (s.ra .FLT_HEAP_compares t.w.tile 1).chargeTask t.w v.2.2 (heapBytes v.1)
      match u.strFor t.w.cluster v with
      | .error (e, da) => exec (.heapCompare die tag term row) s = .next ((u.dropRow t t.w row e da).settleWork t.key)
      | .ok a =>
        let l := (x.lanesOf ft).2.map (fun c => cmpBytes a (match c with | .str y => y | .dig _ | .null => []))
        exec (.heapCompare die tag term row) s = .next (u.goOn t.key { t.w with heap := l.zipIdx.foldl (fun (m : Map Ordering) q => mput (heapKey term row q.2) q.1 m) t.w.heap })) ∧
    (∀ row c k h v, (s.needs t).contains (.heap term row) = true → mget (term * 4096 + row) t.w.search = none → ft.colcol = false → (x.sides t.w b ft).1 = .blk c k h →
      (Planes.ofBlock c k h).strAt row = some v →
      let u := (s.ra .FLT_HEAP_compares t.w.tile 1).chargeTask t.w v.2.2 (heapBytes v.1)
      match u.strFor t.w.cluster v with
      | .error (e, da) => exec (.heapCompare die tag term row) s = .next ((u.dropRow t t.w row e da).settleWork t.key)
      | .ok a =>
        let l := (x.lanesOf ft).2.map (fun c => cmpBytes a (match c with | .str y => y | .dig _ | .null => []))
        exec (.heapCompare die tag term row) s = .next (u.goOn t.key { t.w with heap := l.zipIdx.foldl (fun (m : Map Ordering) q => mput (heapKey term row q.2) q.1 m) t.w.heap }))
  )

/-- (R90, R91, R95, R100, R103, R107, R108) With every cast there, the strip runs on the next 256 rows: an operation that fails fails the task with its exception latched and counted; otherwise the results join the group's columns, and after the last group the batch passes on with them. A missing cast is done by the tile core: it reads the string and keeps its parse. (R116, R119, R121) HASH_GROUP hashes up to 128 more rows of the batch in hand by the operator's key columns, in row order; the HASH operator's batch passes on once the last row has its hash. -/
def Obligations.ComputeAndHashRows : Prop :=
  (
∀ (s : State) (die tag : Nat) (t : Task) (i : Nat) (o : PlanOp) (b : Batch) (off len : Nat), s.working die tag t i o b → o.body = .compute off len →
    (∀ (ecc : Ecc) (u : State) (w : Work) (b' : Batch), ecc ≠ .uncorrectable → (s.scratchEcc t ecc).colsReady t o.ins b u w b' →
      let t' := { t with w := w }
      let x := t'.stripRun o b' off len
      let rows := groupRows b' w.pos
      (t'.castsMissing x.strip o b' rows).isEmpty = true →
      let v := u.ra .ARU_STRIPS_row_groups w.tile 1
      match runGroup x.strip x.types rows.length (rows.map b'.live) (fun i r => mgetD none (castKey i (256 * w.pos + r)) w.casts) x.strip.ops.zipIdx
          ⟨t'.sourceLanes x o b' rows, [], rows.map b'.live⟩ 0 with
      | .error (op, r, e) => exec (.stripRowGroup die tag ecc) s =
          .next (((((v.ra .ARU_STRIPS_tasks w.tile 1).countExc w.camp e).latchExc t' op (256 * w.pos + r) e)).failTask t' w e.status)
      | .ok (l, nulled) =>
        let outs := x.strip.outs.zipIdx.map (fun q =>
          let y := mgetD [] (0xD0 + q.2) l.vals
          (⟨q.1, none, ((w.made[q.2]?).map (·.vals)).getD [] ++
            (List.range rows.length).map (fun r => if (rows.map b'.live).getD r false then laneStored q.1 (y.getD r none) else ColVal.null)⟩ : Column))
        let w' := { w with made := outs, pos := w.pos + 1 }
        exec (.stripRowGroup die tag ecc) s = .next (if b'.rows ≤ 256 * (w.pos + 1) then ((v.ra .ARU_NULLED_rows w.camp nulled).ra .ARU_STRIPS_tasks w.tile 1).passOn t' w' o b' outs
          else (v.ra .ARU_NULLED_rows w.camp nulled).setWork t'.key w')) ∧
    (∀ (u : State) (w : Work) (b' : Batch) (op row n da : Nat) (pre y : Bytes) (c : StripOp), s.colsReady t o.ins b u w b' →
      let t' := { t with w := w }
      let x := t'.stripRun o b' off len
      (t'.castsMissing x.strip o b' (groupRows b' w.pos)).contains (op, row) = true → x.strip.ops[op]? = some c → c.a < 0x80 → t'.castSource x.strip o b' c.a row = some (.str n pre da) →
      (u.chargeTask w da (heapBytes n)).strBytes (some w.cluster) n pre da = .ok y →
      exec (.stringCast die tag op row) s = .next ((u.chargeTask w da (heapBytes n)).setWork t'.key
        { w with casts := mput (castKey op row) (parseNumber (stripBase c.code == 0x38) y) w.casts })) ∧
    (∀ (u : State) (w : Work) (b' : Batch) (op row : Nat) (y : Bytes) (c : StripOp), s.colsReady t o.ins b u w b' →
      let t' := { t with w := w }
      let x := t'.stripRun o b' off len
      (t'.castsMissing x.strip o b' (groupRows b' w.pos)).contains (op, row) = true → x.strip.ops[op]? = some c → 0x80 ≤ c.a → t'.stripLit x.strip c.a = .str y →
      exec (.stringCast die tag op row) s = .next (u.setWork t'.key { w with casts := mput (castKey op row) (parseNumber (stripBase c.code == 0x38) y) w.casts }))
  ) ∧
  (
∀ (s : State) (die tag : Nat) (t : Task) (i : Nat) (o : PlanOp) (b : Batch) (u : State) (w : Work) (b' : Batch), s.working die tag t i o b → o.hashCols ≠ [] → t.w.hashed b = false →
    s.colsReady t o.hashCols b u w b' →
    let v := ((List.range (min 128 (b'.rows - w.hashes.length))).map (· + w.hashes.length)).foldl (hashRow t.key o.hashCols) (u.setWork t.key w)
    (∀ t' j b'' l, v.taskAt t.key = some t' → t'.w.failed = none → t'.w.todo = (j, b'') :: l → o.body = .hash → t'.w.hashed b'' = true →
      exec (.hashGroup die tag) s = .next (v.passOn t' t'.w o b'' t'.w.made)) ∧
    (∀ t' j b'' l, v.taskAt t.key = some t' → t'.w.failed = none → t'.w.todo = (j, b'') :: l → o.body = .hash → t'.w.hashed b'' = false → exec (.hashGroup die tag) s = .next v) ∧
    (o.body ≠ .hash → exec (.hashGroup die tag) s = .next v)
  )

/-- (R122 to R127, R129 to R133) Joins. A build row goes to its spilled partition's page, or into its bucket within the budget, charged and counted; a key with a null is noted, and kept only where its kind needs it. A probe row finds its candidates, marks them where the kind keeps marks, and gives the rows of its kind. RIGHT and FULL scan what was never matched. -/
def Obligations.JoinRows : Prop :=
(∀ (s : State) (die tag da : Nat) (t : Task) (i : Nat) (o : PlanOp) (b : Batch) (u : State) (w : Work) (b' : Batch) (id kind : Nat) (bc : Bool) (k est bud r : Nat), s.working die tag t i o b →
    o.body = .joinBuild id kind bc k est bud → t.w.hashed b = true → s.colsReady t o.ins b u w b' → nextLive b' w.pos = some r →
    let cols := o.ins.filterMap (fun i => b'.cols[i]?)
    let null := nullKey (cols.take k) r
    let key := buildKey id (t.buildCopy ⟨id, kind, bc, k, est, bud⟩)
    let tab0 := (mget key t.e.joins).getD (JoinTab.fresh 0 0 (bucketBits est))
    let tab := { tab0 with anyRow := true, nullKey := tab0.nullKey || null }
    let row : Rec := ⟨w.hashOf r, rowKeyForm (cols.take k) r, rowKeyForm (cols.drop k) r, false⟩
    (null = true → kind ≠ 2 → kind ≠ 3 → exec (.bucketInsert die tag da false) s = .next ((u.setTab w.exec key tab).goOn t.key (w.after b' r))) ∧
    (null = false ∨ kind = 2 ∨ kind = 3 → partAt tab.parts 0 0 (spillDigit (w.hashOf r) 0) = none → ∀ v tab', u.fitInsert w.exec bud w.camp tab row = some (v, tab') →
      exec (.bucketInsert die tag da false) s = .next ((((v.ra .JNU_STAT_built w.tile 1).charge w.camp 1
        (insertBytes (mgetD [] (bucketOf tab.b (w.hashOf r)) tab.chains).length row.len)).setTab w.exec key tab').goOn t.key (w.after b' r))) ∧
    (∀ part v q l, null = false ∨ kind = 2 ∨ kind = 3 → partAt tab.parts 0 0 (spillDigit (w.hashOf r) 0) = some part → u.putRec w 0 part.level part.path part.build row [da] = .ok v q l →
      exec (.bucketInsert die tag da false) s = .next ((v.setTab w.exec key { tab with parts := partSet tab.parts { part with build := q } }).goOn t.key (w.after b' r)))) ∧
  (∀ (s : State) (die tag da : Nat) (t : Task) (i : Nat) (o : PlanOp) (b : Batch) (u : State) (w : Work) (b' : Batch) (id kind r : Nat) (x : ProbeSpec), s.working die tag t i o b →
    o.body = .joinProbe id kind → t.probeSpec (t.opIx i) = some x → t.w.hashed b = true → s.colsReady t o.reads b u w b' → nextLive b' w.pos = some r →
    let t' := { t with w := w }
    let keys := o.ins.filterMap (fun i => b'.cols[i]?)
    let tab := (t'.e.tabAt x.op id (t'.probeCopy id)).getD (JoinTab.fresh 0 0 4)
    let done (v : State) (out : List (Option Rec)) : State :=
      v.goOn t'.key ((({ w with pairs := w.pairs ++ out.map (fun q => (r, q)) } : Work).flushPairs x o i b' (nextLive b' (r + 1)).isNone).after b' r)
    (nullKey keys r = true → exec (.probeLookup die tag da false) s = .next (done u (emitNull kind (!t'.e.anyBuildRow id)))) ∧
    (∀ ms, nullKey keys r = false → partAt tab.parts 0 0 (spillDigit (w.hashOf r) 0) = none →
      let cs := candidates x.keys tab (w.hashOf r) (keys.map (fun c => c.at r))
      let v := (u.ra .JNU_STAT_probed w.tile 1).chargeLookup w tab (w.hashOf r) cs
      v.matchRecs w.cluster kind cs = .ok ms →
      exec (.probeLookup die tag da false) s = .next (done (if keepsMatched kind && !ms.isEmpty then
        (v.charge w.camp 1 (128 * ms.length)).setTab w.exec (probeKey x.op (t'.probeCopy id)) (tab.mark (w.hashOf r) ms) else v) (emitFor kind (t'.e.anyNullKey id) ms)))) ∧
  (∀ (s : State) (die tag : Nat) (t : Task) (x : ProbeSpec) (o : PlanOp) (bs : BuildSpec) (copy : Nat) (tab : JoinTab), s.task die tag = some t → t.probeFinal = some (x, o, bs, copy, tab) →
    keepsMatched x.kind = true → tab.chains ≠ [] → t.w.todo = [] →
    exec (.unmatchedScan die tag) s = .next ((s.charge t.w.camp 1 (128 * 2 ^ tab.b + (tab.recs.map Rec.len).sum)).endPass t
      (t.w.emitRows x o t.f.first copy ((tab.recs.filter (fun r => !r.matched)).map (fun r => ⟨none, none, some r⟩))) x copy { tab with chains := [] }))

/-- (R133 to R135, R146, R147) Spilling. A table whose insert or merge finds no room gives its largest partition to pages at the DAs given, and its units back. A final task rebuilds the first partition one level down, joins or merges it, and takes its place in the table with what it spilled again before the rest; at the last level a join goes chunk by chunk. (R139 to R144, R146) Aggregates. The rows of the batch in hand with equal keys are folded; a final aggregate then merges the folded entries one by one into the entry of their key, or creates it within the budget; finalising gives every entry's results in batches of 4,096 rows and empties the table. -/
def Obligations.SpillAndAggregateRows : Prop :=
  (
∀ (s : State) (die tag : Nat) (das : List Nat) (t : Task), s.task die tag = some t →
    (∀ key tab tys u tab' l, s.buildWaits t = some (key, tab, tys) → s.rg .JNU_CTL_spill_en t.w.cluster ≠ 0 → s.spillTab t.w tys tab das = .ok (some (.ok u tab' l)) →
      exec (.spillPartition die tag das) s = .next ((u.execGive t.w.exec (tab.units - units64k tab'.bytes)).setTab t.w.exec key { tab' with units := units64k tab'.bytes })) ∧
    (∀ x tab u tab' l v tab'', s.buildWaits t = none → s.groupWaits t = some (x, tab) → s.spillGroup t.w x tab das = .ok (some (.ok u tab' l)) → u.groupUnits t.w.exec x tab' = some (v, tab'') →
      exec (.spillPartition die tag das) s = .next (v.setGroup t.w.exec (groupKey x.op t.w.cluster) tab'')) ∧
    (∀ x o b copy tab q rest u q' build probe v a v' a', t.probeFinal = some (x, o, b, copy, tab) → tab.parts = q :: rest → t.w.todo = [] → t.w.pos = 0 →
      s.partRecs t q = (u, some (q', build, probe)) →
      let nest := decide (q.level < s.maxLevel t.w.cluster)
      rebuild t.w b x.keys nest build u ⟨JoinTab.fresh (q.level + 1) q.path (bucketBits b.estimate), [], das⟩ = .ok (some (v, a)) →
      reprobe t.w x (t.e.anyNullKey x.id) nest probe v a = .ok (v', a') →
      exec (.spillPass die tag das) s = .next (
        let left := if keepsMatched x.kind then (a'.tab.recs.filter (fun r => !r.matched)).map (fun r => (⟨none, none, some r⟩ : JRow)) else []
        v'.endPass t (t.w.emitRows x o t.f.first copy (a'.rows ++ left)) x copy { tab with parts := a'.tab.parts ++ rest })) ∧
    (∀ x k tab q rest u b v g left l v' g' last, t.probeFinal = none → t.aggFinal = some (x, k, tab) → tab.parts = q :: rest → tab.entries = [] → t.w.todo = [] →
      last = decide (s.maxLevel t.w.cluster ≤ q.level) → s.pageClose t.w 2 q.level q.path q.build (.groups []) = (u, b) → readPages t.w b.full u = (v, none) →
      let gs := b.full.flatMap (fun g => g.body.groupList)
      regroup t.w x (!last) gs v ⟨q.level + 1, q.path, [], [], tab.units⟩ (Part.fresh q.level q.path (.groups [])) das (17 * gs.length + 1) = .ok (v', g, left, l) →
      ∀ v'', v'.groupUnits t.w.exec x { g with parts := g.parts ++ (if left.build.da.isSome then [left] else []) ++ rest } = some (v'', g') →
      exec (if last then .groupPassMerge die tag das else .spillPass die tag das) s =
        .next ((v''.setGroup t.w.exec (groupKey x.op k) g').goOn t.key { t.w with hold := !groupOver x g' t.w.emitted })) ∧
    (∀ x o b copy tab q rest u q' build probe v maps l v' chunk rows marks, t.probeFinal = some (x, o, b, copy, tab) → tab.parts = q :: rest → t.w.todo = [] → s.maxLevel t.w.cluster ≤ q.level →
      s.partRecs t q = (u, some (q', build, probe)) → keepsBitmap x.kind = false →
      let fresh := JoinTab.fresh (q'.level + 1) q'.path (bucketBits b.estimate)
      (t.w.pos ≠ 0 ∨ s.buildBudget t.w.camp b.budget 0 < (build.foldl JoinTab.insert fresh).bytes) → u.openPages t.w.exec 0 t.w.maps das = .ok v maps l →
      let c := chunkOf v t.w.camp b fresh (build.drop t.w.pos)
      chunkProbe t.w x (List.zip probe (if t.w.marks.isEmpty then List.replicate probe.length false else t.w.marks)) v c.1 [] [] = (v', .ok (chunk, rows, marks)) →
      c.2 = [] →
      let left := if keepsMatched x.kind then (chunk.recs.filter (fun r => !r.matched)).map (fun r => (⟨none, none, some r⟩ : JRow)) else []
      x.kind ≠ 1 → x.kind ≠ 3 → x.kind ≠ 5 → x.kind ≠ 6 →
      exec (.chunkJoin die tag das) s = .next (v'.endPass t { t.w.emitRows x o t.f.first copy (rows ++ left) with pos := 0, marks := [], maps := [] } x copy { tab with parts := rest }))
  ) ∧
  (
(∀ (s : State) (die tag : Nat) (t : Task) (i : Nat) (o : PlanOp) (b : Batch) (x : AggSpec) (u : State) (w : Work) (b' : Batch) (t' : Task), s.working die tag t i o b →
    t.aggSpec (t.opIx i) = some x → (x.keys = 0 ∨ t.w.hashed b = true) → t.w.pos = 0 → s.colsReady t o.ins b u w b' →
    let v := b'.liveRows.foldl (foldRow t.key x o) (u.setWork t.key w)
    v.taskAt t.key = some t' → t'.w.failed = none →
    (t'.w.folded = [] → exec (.batchFold die tag) s = .next (v.goOn t'.key t'.w.pop)) ∧
    (t'.w.folded ≠ [] → x.final = true → exec (.batchFold die tag) s = .next (v.setWork t'.key { t'.w with pos := 1 })) ∧
    (∀ g l, t'.w.folded = g :: l → x.final = false → t'.w.partly = none → exec (.batchFold die tag) s = .next (v.goOn t'.key { t'.w.pop with partly := some (b'.seq, g) }))) ∧
  (∀ (s : State) (die tag da : Nat) (t : Task) (i : Nat) (o : PlanOp) (b : Batch) (x : AggSpec) (g : GEntry) (l : List GEntry) (d : Nat), s.working die tag t i o b → t.aggSpec (t.opIx i) = some x →
    t.w.folded = g :: l → t.w.pos = 1 → x.final = true → s.groupDigit t.w.cluster x 0 g = .ok d → partAt (t.groupTab x).parts 0 0 d = none →
    let tab := t.groupTab x
    (∀ es, s.mergeInto t.w.cluster x g tab.entries = .into es → exec (.groupMerge die tag da false) s =
      .next (((s.chargeMerge t.w x tab.entries g false).setGroup t.w.exec (groupKey x.op t.w.cluster) { tab with entries := es }).goOn t.key t.w.merged)) ∧
    (∀ u tab', s.mergeInto t.w.cluster x g tab.entries = .absent → (x.keys = 0 ∨ ({ tab with entries := tab.entries ++ [g] } : GroupTab).bytes x ≤ s.groupBudget t.w.cluster t.w.camp x.budget) →
      s.groupUnits t.w.exec x { tab with entries := tab.entries ++ [g] } = some (u, tab') → exec (.groupMerge die tag da false) s =
      .next (((u.chargeMerge t.w x tab.entries g true).setGroup t.w.exec (groupKey x.op t.w.cluster) tab').goOn t.key t.w.merged))) ∧
  (∀ (s : State) (die tag : Nat) (t : Task) (x : AggSpec) (k : Nat) (tab : GroupTab) (o : PlanOp) (vs : List (List ColVal)), s.task die tag = some t → t.aggFinal = some (x, k, tab) →
    t.p.lastOp t.w.frag = some o → t.w.todo = [] → tab.entries ≠ [] →
    let u := s.charge t.w.camp 1 (tab.entries.map x.size).sum
    tab.entries.mapM (fun g => finalVals x.fns g.accs 0) = .ok vs →
    ∃ (v : State) (bs : List Batch), (let more := !groupOver x { tab with entries := [] } (t.w.emitted + bs.length)
      exec (.aggregateFinalise die tag) s = .next (v.goOn t.key { t.w with out := t.w.out ++ bs, emitted := t.w.emitted + bs.length, hold := more })) ∧ (bs.map (·.rows)).sum = vs.length ∧ (∀ y ∈ bs, y.rows ≤ 4096) ∧ v.m = u.m)
  )

/-- (R154, R155, R157 to R164) Sorts. The live rows of the batch in hand become one sorted run in pages at the DAs given. A final task merges up to 64 runs at a time; when these are all and no pass has made more, their records in order are the result's batches, otherwise they are one run of the next pass. A merge of one destination's runs never loses or invents a record. -/
def Obligations.SortRows : Prop :=
(∀ (s : State) (die tag : Nat) (das : List Nat) (t : Task) (i : Nat) (o : PlanOp) (b : Batch) (x : SortSpec) (u : State) (w : Work) (b' : Batch) (v : State) (q : SortDest) (ps : List Page)
      (l : List Nat), s.working die tag t i o b → t.sortSpec (t.opIx i) = some x → s.colsReady t o.reads b u w b' →
    let q0 := t.e.sortAt x.op t.sortDest
    let all := u.sortRecs w.cluster x (b'.liveRows.map (x.record o.ins b'))
    let rs := x.cut all.recs
    (rs = [] → all.lost = [] → exec (.runFormation die tag das) s = .next (u.goOn t.key w.pop)) ∧
    (rs ≠ [] → all.lost = [] → u.storeRun w x q0 0 q0.runs.length rs das = .ok v (q, ps) l →
      let v' := ((((all.reads.foldl (fun (s : State) (h : Nat × Nat) => s.chargeTask w h.1 h.2) v).setSort w.exec x.op t.sortDest { q with runs := q.runs ++ [ps] }).ra .SRT_STAT_runs w.tile 1).setWork t.key w)
      ∀ t', v'.taskAt t.key = some t' → t'.w.failed = none → exec (.runFormation die tag das) s = .next (v'.goOn t.key w.pop))) ∧
  (∀ (s : State) (die tag : Nat) (das : List Nat) (t : Task) (op d : Nat) (o : PlanOp) (x : SortSpec) (u : State), s.task die tag = some t → t.w.body = .final op d → t.p.lastOp t.w.frag = some o →
    t.sortSpec op = some x →
    let q := t.e.sortAt op d
    let pages := (q.runs.take 64).flatten
    q.finished = false → q.runs ≠ [] → readRuns t.w pages s = (u, none) →
    let all := u.sortRecs t.w.cluster x (pages.flatMap (fun p => p.body.sortList))
    let v := all.reads.foldl (fun (s : State) (h : Nat × Nat) => s.chargeTask t.w h.1 h.2) u
    all.lost = [] → ∀ t', v.taskAt t.key = some t' → t'.w.failed = none →
    let rs := x.cut all.recs
    let p := v.freeRuns t.w pages q
    let w := p.1.ra .SRT_STAT_merged t.w.tile rs.length
    let bs := x.batches o d rs
    (p.2.runs.length ≤ 64 → p.2.next = [] → bs.length ≤ 2 ^ 25 → exec (.mergePass die tag das) s =
      .next ((w.setSort t.w.exec op d { p.2 with runs := [], emitted := bs.length, finished := true }).goOn t.key { t.w with out := t.w.out ++ bs, hold := false })) ∧
    (∀ w' q' ps l, 64 < p.2.runs.length ∨ p.2.next ≠ [] → w.storeRun t.w x p.2 (p.2.pass + 1) p.2.next.length rs das = .ok w' (q', ps) l →
      exec (.mergePass die tag das) s = .next (w'.setSort t.w.exec op d (if (q'.runs.drop 64).isEmpty then { q' with runs := q'.next ++ [ps], next := [], pass := q'.pass + 1 }
        else { q' with runs := q'.runs.drop 64, next := q'.next ++ [ps] })))) ∧
  (∀ (s : State) (cl : Nat) (x : SortSpec) (l : List SortRec), (s.sortRecs cl x l).recs.length + (s.sortRecs cl x l).lost.length = l.length)

/-- (R165, R168 to R172) EXCHANGE_SEND divides the batch in hand by destination: the whole batch to every destination of a BROADCAST, otherwise each live row to the destination of its hash, its range or the only one. Sent, the batch is done with; without room it stays; beyond the quota the task fails. A port past its packing timeout sends what it has packed. (R230, R339, R50) RESULT_BATCH reads the batch in hand, drops rows whose heap records fail, and delivers the rest: at once without ORDERED, and under it in its turn, what comes early being held within the quota. -/
def Obligations.ExchangeAndResultRows : Prop :=
  (
(∀ (s : State) (die tag : Nat) (t : Task) (i : Nat) (o : PlanOp) (b : Batch) (mode win sk flags : Nat) (tiles carry : Bool) (dests : List Nat) (splits : List Digits) (x : Xchg) (u : State) (w : Work) (b' : Batch),
    s.working die tag t i o b → o.body = .exchange mode tiles carry win sk flags dests splits → s.xchgOf t.w.exec (t.opIx i) = some x → (mode ≠ 0 ∨ t.w.hashed b = true) → s.colsReady t o.reads b u w b' →
    let out := { b' with cols := o.outCols [] b' }
    let keys := (o.ins.take sk).filterMap (fun c => b'.cols[c]?)
    let dest (r : Nat) : Nat := if mode = 0 then hashDest (w.hashOf r) x.places.length else if mode = 1 then rangeDest splits (rowForm flags keys r) else 0
    let sent := if x.whole then sendFold (fun (s : State) k => s.offer x w.tile k { out with origin := if x.carry then (List.range b'.rows).map b'.originOf else [] }) (List.range x.places.length) u
      else sendFold (fun (s : State) k => State.packRows x w.tile k out ((b'.liveRows.filter (fun r => dest r == k)).length + 1) s (b'.liveRows.filter (fun r => dest r == k))) (List.range x.places.length) u
    exec (.exchangeSend die tag) s = .next (match sent with
      | .ok v => v.goOn t.key w.pop
      | .wait => s
      | .quota => s.failTask t w stQuotaExhausted)) ∧
  (∀ (s : State) (dt id op tile dest : Nat) (e : Exec) (x : Xchg), s.alive = true → mget id s.execs = some e → e.cancelled = false → (s.advance dt).xchgOf id op = some x →
    let q := s.port id (portKey op tile dest)
    q.packRows ≠ 0 → q.lastTick + s.rg .XCH_CTL_flush_ticks tile ≤ (s.advance dt).ticks →
    exec (.exchangeFlushTimeout dt id op tile dest) s = .next (match (s.advance dt).emitPack x tile dest with
      | .ok v => v
      | .wait => s.advance dt
      | .quota => (s.advance dt).failRun id stQuotaExhausted)) ∧
  (∀ h d : Nat, 0 < d → h < 2 ^ 64 → hashDest h d < d)
  ) ∧
  (
∀ (s : State) (die tag : Nat) (t : Task) (i : Nat) (o : PlanOp) (b : Batch) (k : List (Nat × Bool)) (u : State) (w : Work) (b' : Batch) (t' : Task), s.working die tag t i o b → o.body = .result k →
    (t.e.ring = 0xFFFF ∨ s.stagingFull t.w.camp = false) → s.colsReady t o.ins b u w b' →
    let cols := o.ins.filterMap (fun c => b'.cols[c]?)
    let v := b'.liveRows.foldl (dropIfBad t.key cols) (u.setWork t.key w)
    v.taskAt t.key = some t' → t'.w.failed = none →
    let b'' := match t'.w.todo with | (_, y) :: _ => y | [] => b'
    let rows := rowsCols cols.length (b''.liveRows.filterMap (fun r => match v.litRow (some t'.w.cluster) cols r with | .ok y => some y | .error _ => none))
    (t'.p.ordered = false → exec (.resultBatch die tag) s = .next ((v.deliver t'.w.exec t'.p rows).goOn t'.key t'.w.pop)) ∧
    (∀ op y, t'.p.ordered = true → (t'.p.fragOf (t'.opIx i)).bind (t'.p.sortAbove t'.p.frags.length) = some op →
      let z := drainHeld t'.w.exec t'.p op (t'.e.held.length + 1) v
      b''.seq ≠ ((mget t'.w.exec z.execs).map (·.nextOut)).getD 0 → t'.p.limitOf op = 0 → z.execTake t'.w.exec b''.units = some y →
      exec (.resultBatch die tag) s = .next ((y.modExec t'.w.exec (fun (e : Exec) => { e with held := mput b''.seq (rows, b''.units) e.held })).goOn t'.key t'.w.pop)) ∧
    (∀ op, t'.p.ordered = true → (t'.p.fragOf (t'.opIx i)).bind (t'.p.sortAbove t'.p.frags.length) = some op →
      let z := drainHeld t'.w.exec t'.p op (t'.e.held.length + 1) v
      b''.seq = ((mget t'.w.exec z.execs).map (·.nextOut)).getD 0 →
      exec (.resultBatch die tag) s = .next ((drainHeld t'.w.exec t'.p op (t'.e.held.length + 1) (z.deliverTurn t'.w.exec t'.p op rows)).goOn t'.key t'.w.pop))
  )

/-- (R182, R185 to R190) The ternary array. A search of a row of an IN term gives its first matching entry, or a candidate whose long string is still to be compared; of a core its result word; each is charged one search and counted. A step looks above an entry. Another Camp's segment is a violation. A scrub checks an idle entry's parity. -/
def Obligations.TernaryRows : Prop :=
(∀ (s : State) (cl camp seg len heap : Nat) (key : Digits) (p : TernParity), s.alive = true → seg < 64 → s.rg .MAT_SEG_valid seg ≠ 0 →
    let u := (s.ternParity cl p).chargeSearch camp 1
    (s.rg .MAT_SEG_camp seg ≠ camp → exec (.ternarySearch (.core cl camp seg key len heap) p) s = .next (s.matViolation cl camp none)) ∧
    (s.rg .MAT_SEG_camp seg = camp → p.isLost = false → exec (.ternarySearch (.core cl camp seg key len heap) p) s =
      .next ((u.ra .MAT_STAT_searches cl 1).emit (.matchWords [ternWord ((u.ra .MAT_STAT_searches cl 1).ternMatches seg key 0)]))) ∧
    (∀ above, s.rg .MAT_SEG_camp seg = camp → p.isLost = false → exec (.ternaryStep (.core cl camp seg key len heap) above p) s =
      .next ((u.ra .MAT_STAT_steps cl 1).emit (.matchWords [ternWord ((u.ra .MAT_STAT_steps cl 1).ternMatches seg key (above + 1))])))) ∧
  (∀ (s : State) (die tag term row : Nat) (p : TernParity) (t : Task) (i : Nat) (o : PlanOp) (b : Batch) (ts : List FTerm) (steps : List Nat) (ft : FTerm) (v : ColVal) (seg : Nat),
    s.working die tag t i o b → o.body = .filter ts steps → s.termValue t term row = some (ft, v) → ft.op = 7 → mget (segKey (t.opIx i) term) t.e.segs = some seg → s.rg .MAT_SEG_camp seg = t.w.camp →
    p.isLost = false →
    let u (f : Fld) := ((s.ternParity t.w.cluster p).chargeSearch t.w.camp 1).ra f t.w.cluster 1
    (mget (searchKey term row) t.w.search = none → exec (.ternarySearch (.row die tag term row) p) s = .next (let x := u .MAT_STAT_searches
      let found := x.inSearch seg (x.ternMatches seg (ternKey v) 0)
      x.goOn t.key { t.w with search := mput (searchKey term row) found t.w.search })) ∧
    (∀ word above, mget (searchKey term row) t.w.search = some (.step word) → exec (.ternaryStep (.row die tag term row) above p) s = .next (let x := u .MAT_STAT_steps
      let found := x.inSearch seg (x.ternMatches seg (ternKey v) (bits word 0 14 + 1))
      x.goOn t.key { t.w with search := mput (searchKey term row) found t.w.search }))) ∧
  (∀ (s : State) (cl : Nat) (p : TernParity), s.alive = true → s.rg .MAT_CTL_scrub_en cl ≠ 0 → exec (.ternaryScrub cl p) s = .next (s.ternParity cl p))

/-- (R192 to R196, R204) Gapped dictionaries. A request that is answered is charged a search; LOOKUP answers the payload of an equal key, FLOOR that of the greatest key at or below, INSERT puts a new key and answers how many were inserted before, or answers an equal key's payload; DELETE frees an equal key's slot; SCAN answers a span's entries in key order. -/
def Obligations.DictionaryRows : Prop :=
(∀ (s : State) (q : MatchReq) (u : State) (a : DictAsk),
    let v := u.chargeDict a 64
    (s.asks q 2 u a →
      (∀ y, v.dictFloor a.dict a.value = .ok (some (y, true)) → exec (.dictLookup q false) s = v.dictReply a (some (digsNat y.key, y.payload))) ∧
      (v.dictFloor a.dict a.value = .ok none → exec (.dictLookup q false) s = v.dictReply a none) ∧
      (∀ y, v.dictFloor a.dict a.value = .ok (some (y, false)) → exec (.dictLookup q false) s = v.dictReply a none)) ∧
    (s.asks q 3 u a → ∀ r, v.dictFloor a.dict a.value = .ok r → exec (.dictFloor q false) s = v.dictReply a (r.map (fun y => (digsNat y.1.key, y.1.payload)))) ∧
    (s.asks q 1 u a →
      (∀ p, u.dictInsert a.dict a.value = .ok (.had p) → exec (.dictInsert q false) s = v.dictReply a (some (digsNat (dictKey a.value), p))) ∧
      (∀ d n split w, u.dictInsert a.dict a.value = .ok (.ok d n split) → u.putDict a.num d = some w → exec (.dictInsert q false) s =
        State.dictReply (let x := (w.chargeDict a n).ra .MAT_DICT_inserts d.home 1
          if split then x.ra .MAT_DICT_splits d.home 1 else x) a (some (digsNat (dictKey a.value), a.dict.inserted)))) ∧
    (s.asks q 4 u a → a.back = none → (∃ cl camp n key len heap, q = .core cl camp n key len heap) →
      (∀ d w, v.dictDelete a.dict a.value = .ok (some d) → v.putDict a.num d = some w → exec (.dictDelete q false) s = w.dictReply a (some (digsNat (dictKey a.value), 0))) ∧
      (v.dictDelete a.dict a.value = .ok none → exec (.dictDelete q false) s = v.dictReply a none) ∧
      (∀ span, exec (.dictScan q span false) s = .next ((u.chargeDict a (32 + 32 * (a.dict.spans.getD span []).length)).emit
        (.dictEntries ((a.dict.spans.getD span []).map (fun e => (digsNat e.2.key, e.2.payload)))))))) ∧
  (∀ (s : State) (a : DictAsk) (r : Option (Nat × Nat)), ∃ t : State, s.dictReply a r = .next t)

/-- (R199 to R201) Automata. A row of a LIKE or REGEXP term runs through its automaton to its first match, its long string read and charged, and the term keeps the hit or the miss; a core's own run answers the first match and its pattern, and a step the next match after one. -/
def Obligations.AutomatonRows : Prop :=
(∀ (s : State) (cl camp id off len heap : Nat) (key : Digits) (e : Exec) (a : Automaton), s.alive = true → mget id s.execs = some e → s.autOf id off = some a →
    let m := (autMatches a (hexBytes key)).1
    let used := match m with | (n, _) :: _ => n | [] => (autMatches a (hexBytes key)).2
    (e.camp ≠ camp → exec (.automatonSearch (.core cl camp id key len heap) off false) s = .next (s.matViolation cl camp none)) ∧
    (e.camp = camp → exec (.automatonSearch (.core cl camp id key len heap) off false) s =
      .next ((((s.chargeSearch camp (runCharge used)).ra .MAT_AUT_runs cl 1).ra .MAT_AUT_bytes cl used).emit (.matchWords [(autResult m).1, (autResult m).2]))) ∧
    (∀ stop pattern, e.camp = camp →
      let l := m.filter (fun x => decide (stop < x.1) || (x.1 == stop && decide (pattern < x.2)))
      let n := (match l with | (k, _) :: _ => k | [] => (autMatches a (hexBytes key)).2) - stop
      exec (.automatonStep (.core cl camp id key len heap) off stop pattern false) s =
        .next (((s.chargeSearch camp (runCharge n)).ra .MAT_AUT_bytes cl n).emit (.matchWords [(autResult l).1, (autResult l).2])))) ∧
  (∀ (s : State) (die tag term row off : Nat) (t : Task) (ft : FTerm) (n da : Nat) (pre v : Bytes) (a : Automaton), s.task die tag = some t → s.termValue t term row = some (ft, .str n pre da) →
    ft.op = 10 ∨ ft.op = 11 → mget (searchKey term row) t.w.search = none → s.autOf t.w.exec ft.first = some a →
    let early := autDeadIn a (pre.take (min n 16)) 0
    let u := if 16 < n && !early then s.chargeTask t.w da (heapBytes n) else s
    (early = true → v = pre.take (min n 16)) → (early = false → u.strBytes (some t.w.cluster) n pre da = .ok v) →
    let r := autRun a n v 0 0
    let used := match r.1 with | (e, _) :: _ => e | [] => r.2
    exec (.automatonSearch (.row die tag term row) off false) s = .next ((((u.chargeSearch t.w.camp (runCharge used)).ra .MAT_AUT_runs t.w.cluster 1).ra .MAT_AUT_bytes t.w.cluster used).goOn t.key
      { t.w with search := mput (searchKey term row) (match r.1 with | (_, p) :: _ => .hit p | [] => .miss) t.w.search }))

/-- (R297 to R302) A walk serves a requester from its own cache, from its cluster's shared cache, or by walking the Camp's tables, the entries read being charged; what is found is remembered where the requester looks. An access the page does not permit, and a walk that ends in a fault, latch it. A cache hit is only ever on the Camp's own translation. (R303 to R312) The cluster cache. An access in a warm cluster to populated memory runs; a fill's data joins the cache; an eviction's data reaches memory. FLUSH, INVALIDATE and FLUSH_INVAL start on the clusters they name and are done when none of these still holds them. A patrol scrub corrects or poisons its unit. -/
def Obligations.TranslationAndCacheRows : Prop :=
  (
(∀ (s : State) (q : XReq) (camp v : Nat) (a : Acc) (ex : Option Nat), s.alive = true → v < 2 ^ 46 →
    let inst := match q with | .tile t => t / 8 | .cluster c => c | .dma => 16
    let own := match q with | .tile t => mgetD [] t s.m.tileXlt | .cluster c => mgetD [] c s.m.clusterXlt | .dma => s.m.dmaXlt
    let shared := match q with | .tile t => mgetD [] (t / 8) s.m.clusterXlt | .cluster _ | .dma => []
    (∀ x, xhit own camp v = some x →
      let u := match q with | .cluster c => s.ra .XLT_STAT_hits c 1 | .tile _ | .dma => s
      exec (.translationWalk q camp v a ex) s = .next (if x.allows a then u else u.xltFault inst camp v xPermission ex)) ∧
    (∀ x, xhit own camp v = none → xhit shared camp v = some x → x.allows a = true →
      exec (.translationWalk q camp v a ex) s = .next ((s.ra .XLT_STAT_hits inst 1).xremember q x)) ∧
    (xhit own camp v = none → xhit shared camp v = none →
      let u := (if q = .dma then s else s.ra .XLT_STAT_walks inst 1).charge camp 1 (8 * (s.walk q.cluster? camp v).2)
      exec (.translationWalk q camp v a ex) s = .next (match (s.walk q.cluster? camp v).1 with
        | .ok x => if x.allows a then u.xremember q x else (u.xremember q x).xltFault inst camp v xPermission ex
        | .error k => u.xltFault inst camp v k ex))) ∧
  (∀ (l : List Xlt) (camp v : Nat) (x : Xlt), xhit l camp v = some x → x.camp = camp ∧ x.view ≤ v ∧ v < x.view + x.size) ∧
  (∀ (s : State) (v : BitVec 64), s.alive = true → s.rg .XLT_INVAL_busy 0 = 0 → bits v.toNat 11 1 = 1 →
    ∃ t : State, exec (.xltInval v) s = .next t ∧ t.rg .XLT_INVAL_busy 0 = 1 ∧ t.rg .XLT_INVAL_camp 0 = bits v.toNat 0 10 ∧ t.rg .XLT_INVAL_start 0 = bits v.toNat 13 29 ∧ t.rg .XLT_INVAL_units 0 = bits v.toNat 42 20 ∧
      t.m.mem = s.m.mem) ∧
  (∀ s : State, exec .xltInvalDone s = .next (s.rs .XLT_INVAL_busy 0 0))
  ) ∧
  (
∀ (s : State), s.alive = true →
    (∀ cl camp ex da cls wr p, cl < 16 → cls < 3 → s.populated da = true → s.rg .PWR_CLUSTER_pstate cl < 2 → (∀ b, wr = some b → 0 < b.length ∧ da % 256 / 2 + b.length ≤ 128) →
      exec (.cacheAccess cl camp ex da cls wr p) s = .next (s.cacheAccess cl camp ex da cls wr p)) ∧
    (∀ cl da lines all, cl < 16 → da < 2 ^ 46 → s.rg .CCH_MAINT_busy cl = 0 →
      let v := da + (if all then 2 ^ 48 else 0)
      exec (.cacheFlush cl da lines all) s = .next ((s.rs .CCH_MAINT_LEN_lines cl lines).cchMaint cl v) ∧
      exec (.cacheInvalidate cl da lines all) s = .next ((s.rs .CCH_MAINT_LEN_lines cl lines).cchMaint cl (v + 2 ^ 46)) ∧
      exec (.cacheFlushInval cl da lines all) s = .next ((s.rs .CCH_MAINT_LEN_lines cl lines).cchMaint cl (v + 2 * 2 ^ 46))) ∧
    (∀ cl da lines all, cl < 16 → s.rg .CCH_MAINT_busy cl = 1 → exec (.cacheFlush cl da lines all) s = .next (s.rs .CCH_MAINT_LEN_rejected cl 1)) ∧
    (∀ cl, s.rg .CCH_MAINT_busy cl ≠ 0 → (maintClusters cl (s.rg .CCH_MAINT_all_clusters cl == 1)).all (fun k => (s.cache k).maint.isEmpty) = true →
      exec (.cacheMaintDone cl) s = .next (s.rs .CCH_MAINT_busy cl 0)) ∧
    (∀ cl l f, (s.cache cl).fills.find? (fun f => f.num == l) = some f → f.waitCtl = none → f.merge = [] → s.memPoisoned (256 * l) 128 = false →
      exec (.fillComplete cl l .ok) s = .next (
        let u := (s.setCache cl { s.cache cl with fills := (s.cache cl).fills.erase f }).insertLine cl f.way ⟨l, false, f.cls, f.exec, s.memGet (256 * l) 128, false⟩
        drainMaint cl ((u.cache cl).maint.length) u)) ∧
    (∀ cl l e, (s.cache cl).evb.find? (fun e => e.num == l) = some e → exec (.evictionWritebackDone cl l false) s =
      .next (drainMaint cl ((s.cache cl).maint.length) ((s.setCache cl { s.cache cl with evb := (s.cache cl).evb.erase e }).writeBack l e.data e.poison))) ∧
    (∀ da ecc, (if da < 2 ^ 40 then s.rg .NMC_CTL_scrub_hours 0 else s.rg .FMC_CTL_scrub_hours 0) ≠ 0 → s.populated da = true →
      exec (.patrolScrub da ecc) s = .next (if ecc = .uncorrectable then (s.memEcc da ecc true).poison (da - da % 64) 32 else s.memEcc da ecc true))
  )

/-- (R373 to R382, R388, R389) DMA rings. Enabling a disabled ring of a legal size sets both counts to 0 and the lap to 1; clearing enable resets the channel; a post within the depth moves the posted count, another is ignored and flagged; RESUME clears the halt; a reset goes to the start of the next lap. (R376, R380 to R382, R386, R387) A free, enabled channel with a posted entry of its Camp that is legal for its lap, of the row's type and held by nothing takes it: the count moves on, the entry's 32 bytes are charged, and the descriptor is in progress; a host read is asked of the link. -/
def Obligations.DmaRings : Prop :=
  (
∀ (s : State) (ch : Nat), s.alive = true → ch < 96 →
    (∀ base n camp, base < 2 ^ 46 → 1 ≤ n → n ≤ 16 → camp < 1024 → s.rg .DMA_RING_enable ch = 0 → ∃ t : State, exec (.dmaRingEnable ch base n camp) s = .next t ∧
      t.rg .DMA_RING_enable ch = 1 ∧ t.rg .DMA_RING_base ch = base ∧ t.rg .DMA_RING_size_log2 ch = n ∧ t.rg .DMA_RING_camp ch = (if ch = 0 then 0 else camp) ∧ t.rg .DMA_POST_posted ch = 0 ∧
      t.rg .DMA_CHSTAT_taken ch = 0 ∧ t.rg .DMA_CHSTAT_lap ch = 1 ∧ t.m = s.m ∧ t.io = s.io) ∧
    (s.rg .DMA_RING_enable ch = 1 → ∃ t : State, exec (.dmaRingDisable ch) s = .next t ∧ t.rg .DMA_RING_enable ch = 0 ∧ mget ch t.io.dma = none ∧ mget ch t.io.serves = none ∧
      t.rg .DMA_CHSTAT_active ch = 0 ∧ t.rg .DMA_CHSTAT_halted ch = 0 ∧ t.rg .DMA_RING_base ch = s.rg .DMA_RING_base ch) ∧
    (∀ v l, v < 2 ^ 32 → (v + 2 ^ 32 - s.rg .DMA_CHSTAT_taken ch) % 2 ^ 32 ≤ 2 ^ s.rg .DMA_RING_size_log2 ch → v ≠ s.rg .DMA_POST_posted ch → exec (.dmaPost ch v l) s =
      .next { s.rs .DMA_POST_posted ch v with io := { s.io with serves := mput ch (mgetD [] ch s.io.serves ++ l) s.io.serves } }) ∧
    (∀ v l, 2 ^ s.rg .DMA_RING_size_log2 ch < (v % 2 ^ 32 + 2 ^ 32 - s.rg .DMA_CHSTAT_taken ch) % 2 ^ 32 → exec (.dmaPost ch v l) s = .next (s.rs .DMA_CHSTAT_post_err ch 1)) ∧
    (s.rg .DMA_CHSTAT_halted ch = 1 → exec (.dmaResume ch) s = .next (s.rs .DMA_CHSTAT_halted ch 0)) ∧
    (∃ t : State, exec (.dmaReset ch) s = .next t ∧ mget ch t.io.dma = none ∧ t.rg .DMA_CHSTAT_active ch = 0 ∧ t.rg .DMA_CHSTAT_halted ch = 0 ∧ t.rg .DMA_CHSTAT_taken ch = t.rg .DMA_POST_posted ch ∧
      t.rg .DMA_CHSTAT_taken ch % 2 ^ s.rg .DMA_RING_size_log2 ch = 0)
  ) ∧
  (
∀ (s : State) (ch pa : Nat), s.alive = true → ch < 96 → s.rg .DMA_RING_enable ch = 1 → s.rg .DMA_CHSTAT_halted ch = 0 → mhas ch s.io.dma = false → s.dmaTaken ch ≠ s.dmaPosted ch →
    let n := s.rg .DMA_RING_size_log2 ch
    let slot := s.dmaTaken ch % 2 ^ n
    let e := s.memGet pa 32
    let w := word32 e 0
    s.dmaSlotDa ch slot .read = .ok pa → s.memPoisoned pa 32 = false → dmaMalformed ch (dmaLap (s.dmaTaken ch) n) e = false → s.dmaHeld ch w (word64 e 2) (word64 e 4) = false →
    let u0 := s.setTaken ch (s.dmaTaken ch + 1)
    let u := State.chargeDev { u0 with io := { u0.io with serves := mput ch (mgetD [] ch u0.io.serves).tail u0.io.serves } } (s.rg .DMA_RING_camp ch) pa 32
    let d : DmaActive := ⟨slot, w, word32 e 1, word64 e 2, word64 e 4, word64 e 6, 0, [], 0, 0, false, u.ticks, 0, false, ((mgetD [] ch s.io.serves).head?).join⟩
    (bits w 2 6 = 2 → bits w 8 1 = 0 → bits w 9 1 = 0 → exec (.dmaCopy ch) s = .next (u.setDma ch (some d))) ∧
    (∀ f, bits w 2 6 = 2 → bits w 8 1 = 1 → u.dmaFn (s.rg .DMA_RING_camp ch) = some f → exec (.dmaCopy ch) s = .next ((u.emit (.hostRead f d.src d.len)).setDma ch (some d))) ∧
    (bits w 2 6 = 3 → bits w 8 1 = 0 → bits w 9 1 = 0 → exec (.dmaZero ch) s = .next (u.setDma ch (some d))) ∧
    (bits w 2 6 = 2 → bits w 9 1 = 1 → u.dmaFn (s.rg .DMA_RING_camp ch) = none → exec (.dmaCopy ch) s = .next (u.dmaIssue ch { d with status := stHostDetached }))
  )

/-- (R382 to R385, R388) A descriptor in progress. Bytes that a host read brings are charged and staged; an idle fill drains; the flush read's return acknowledges the host writes and issues the completion; the completion's response ends the descriptor, raises its event where it asks or failed, and fails the command it served. Bus errors and timeouts fail it with their kind. -/
def Obligations.DmaDescriptorProgress : Prop :=
∀ (s : State) (ch : Nat) (d : DmaActive), s.alive = true → mget ch s.io.dma = some d →
    (∀ b, d.completing = false → d.draining = false → d.readOff < d.len → d.status = 0 → d.staged.length < 32768 → bits d.word0 8 1 = 1 →
      let x := b.take (min (32768 - d.staged.length) (d.len - d.readOff))
      x ≠ [] → exec (.dmaReadCompletion ch b false) s = .next ((s.chargeHost (s.rg .DMA_RING_camp ch) x.length).dmaPace ch
        { d with staged := d.staged ++ x, readOff := d.readOff + x.length, lastIn := (s.chargeHost (s.rg .DMA_RING_camp ch) x.length).ticks })) ∧
    (∀ dt, d.completing = false → d.staged ≠ [] → d.staged.length < ((s.advance dt).dmaMarks ch).1 → d.lastIn + s.rg .DMA_MARKS_idle_ticks ch ≤ (s.advance dt).ticks →
      let r := (s.advance dt).dmaDrain ch d d.staged.length
      exec (.dmaIdleDrain dt ch) s = .next (if r.2.completing then r.1.dmaIssue ch r.2 else r.1.setDma ch (some r.2))) ∧
    (d.draining = true → d.completing = false → exec (.dmaFlushReadReturn ch) s = .next (s.dmaIssue ch { d with acked := d.written })) ∧
    (d.completing = true → exec (.dmaCompletionWriteResponse ch) s = .next (
      let u := if bits d.word0 10 1 = 1 || d.status != 0 then (s.setDma ch none).event ch else s.setDma ch none
      if d.status = 0 then u else u.dmaFailCmd d.uid d.status)) ∧
    (∀ kind, kind = 1 ∨ kind = 2 ∨ kind = 4 → d.completing = false → ch < 64 → exec (.dmaBusError ch kind) s = .next (
      if d.draining then s.dmaBus ch d kind (d.dst + d.written) true
      else if bits d.word0 8 1 = 1 then s.dmaBus ch d kind (d.src + d.readOff) false else s.dmaBus ch d kind (d.dst + d.written) false)) ∧
    (∀ dt, d.completing = false → ch < 64 → d.lastIn + 1250000 ≤ (s.advance dt).ticks → d.draining = true ∨ bits d.word0 8 1 = 1 → exec (.dmaCompletionTimeout dt ch) s = .next (
      if d.draining then (s.advance dt).dmaBus ch d 3 (d.dst + d.written) true else (s.advance dt).dmaBus ch d 3 (d.src + d.readOff) false))

/-- (R390 to R398) The Event Router. A write of EVR_PEND raises the assigned sources of its set bits; an event on a pending source merges. A core in vectored mode with no request takes its selected source; a claim read takes it in one step and names it with its priority; a done write of the core's own source in service ends it. A mask window and a hold-off end with theirs. -/
def Obligations.EventRows : Prop :=
(∀ (s : State) (g : Nat) (v : BitVec 16), s.alive = true → g < 32 → exec (.evrPendWrite g v) s =
    .next ((List.range 16).foldl (fun (s : State) k => if bits v.toNat k 1 = 1 then s.event (16 * g + k) else s) s)) ∧
  (∀ (s : State) (n : Nat), n < 512 → eventAssigned n = true → (s.rg .EVR_SRC_pending n = 0 → s.event n = s.rs .EVR_SRC_pending n 1) ∧
    (s.rg .EVR_SRC_pending n = 1 → s.event n = s.ra .EVR_SRC_merged n 1)) ∧
  (∀ (s : State) (core n : Nat) (v : SvcEnv), s.alive = true → core < 4 → s.rg .EVR_CORE_mode core ≠ 1 → s.rg .EVR_CORE_request core ≠ 1 → s.select core = some n →
    ∃ t : State, exec (.eventDeliveryCommit core v) s = .next t ∧ t.rg .EVR_CORE_request core = 1 ∧ t.rg .EVR_SRC_pending n = 0 ∧ t.rg .EVR_SRC_in_service n = 1 ∧
      mget core t.io.reqs = some ⟨n, s.rg .EVR_SRC_priority n, s.rg .EVR_VEC_handler n, s.ticks⟩ ∧ mget n t.io.windows = some s.ticks ∧ t.m = s.m ∧ t.mode = s.mode) ∧
  (∀ (s : State) (core n : Nat), s.alive = true → core < 4 → s.rg .EVR_CORE_mode core ≠ 0 →
    (s.select core = some n → exec (.evrClaimRead core) s = .next ((s.commitSrc n).emit (.window (n + 512 * s.rg .EVR_SRC_priority n + 8192)))) ∧
    (s.select core = none → exec (.evrClaimRead core) s = .next (s.emit (.window 0)))) ∧
  (∀ (s : State) (core : Nat) (v : BitVec 64), s.alive = true → core < 4 → exec (.evrDoneWrite core v) s =
    .next (if s.rg .EVR_SRC_target (v.toNat % 512) = core ∧ s.rg .EVR_SRC_in_service (v.toNat % 512) = 1 then s.rs .EVR_SRC_in_service (v.toNat % 512) 0 else s)) ∧
  (∀ (s : State) (core n : Nat), s.select core = some n → n < 512 ∧ s.rg .EVR_SRC_target n = core ∧ s.srcReady n = true ∧
    ∀ k < 512, s.rg .EVR_SRC_target k = core → s.srcReady k = true → s.rg .EVR_SRC_priority k < s.rg .EVR_SRC_priority n ∨ (s.rg .EVR_SRC_priority k = s.rg .EVR_SRC_priority n ∧ n ≤ k)) ∧
  (∀ (s : State) (n : Nat), exec (.evrMaskWindowClose n) s = .next { s with io := { s.io with windows := mdel n s.io.windows } }) ∧
  (∀ (s : State) (dt g t : Nat), s.alive = true → mget g s.io.holdUntil = some t → t ≤ (s.advance dt).ticks →
    exec (.evrHoldoffExpiry dt g) s = .next { (s.advance dt).rs .EVR_HOLDOFF_active g 0 with io := { s.io with holdUntil := mdel g s.io.holdUntil } })

/-- (R479 to R484) The Digest Engines. An allocation claims the lowest free context or counts busy; START of a claimed context without a key begins a message; FEED queues bytes, at most four feeds; FINISH of an ACTIVE context is noted; RELEASE frees it; a block is processed for the next ready context in turn and charged; a finished digest goes where its owner wants it. -/
def Obligations.DigestEngineRows : Prop :=
(∀ (s : State) (e : Nat), s.alive = true → e < 17 →
    (∀ c, (List.range 16).find? (fun c => s.rg .DGE_STAT_state (16 * e + c) == 0) = some c → ∃ t : State, exec (.dgeAllocRead e) s = .next (t.emit (.window (c + 16))) ∧
      t.rg .DGE_STAT_state (16 * e + c) = 1 ∧ (t.dctx (16 * e + c)).owner = .regs ∧ t.m = s.m) ∧
    ((List.range 16).find? (fun c => s.rg .DGE_STAT_state (16 * e + c) == 0) = none → exec (.dgeAllocRead e) s = .next ((s.ra .DGE_ENGSTAT_busy e 1).emit (.window 0)))) ∧
  (∀ (s : State) (e c : Nat), s.alive = true → e < 17 → c < 16 →
    let k := 16 * e + c
    (∀ v : BitVec 64, bits v.toNat 2 1 = 0 → s.rg .DGE_STAT_state k = 1 → ∃ t : State, exec (.dgeStart e c v) s = .next t ∧ t.rg .DGE_STAT_state k = 2 ∧ (t.dctx k).alg = bits v.toNat 0 2 ∧
      (t.dctx k).chain = (algOf (bits v.toNat 0 2)).init ∧ (t.dctx k).feeds = [] ∧ t.m = s.m) ∧
    (∀ da n b, da < 2 ^ 46 → 0 < n → n < 2 ^ 18 → s.rg .DGE_STAT_state k = 2 → (s.dctx k).feeds.length < 4 →
      s.viewBytes (if e = 16 then none else some e) (s.rg .DGE_CTL_camp k) (pagesOf n) da n = .ok (b, false) →
      exec (.dgeFeed e c da n) s = .next ((s.setDctx k { s.dctx k with feeds := (s.dctx k).feeds ++ [⟨b, false⟩] }).rs .DGE_STAT_feeds_queued k ((s.dctx k).feeds.length + 1))) ∧
    (∀ da n, 0 < n → n < 2 ^ 18 → s.rg .DGE_STAT_state k = 2 → (s.dctx k).feeds.length = 4 → exec (.dgeFeed e c da n) s = .next (s.rs .DGE_STAT_feed_err k 1)) ∧
    (s.rg .DGE_STAT_state k = 2 → exec (.dgeFinish e c) s = .next (s.setDctx k { s.dctx k with finish := true })) ∧
    (∃ t : State, exec (.dgeRelease e c) s = .next t ∧ t.rg .DGE_STAT_state k = 0 ∧ t.m = s.m)) ∧
  (∀ (s : State) (e k : Nat), s.alive = true → e < 17 → s.dgeNext e = some k → ∃ t : State, exec (.dgeBlock e) s = .next t ∧ t.dctx k = (s.dctx k).step ∧ mget e t.trust.rr = some (k % 16) ∧
    t.rg .DGE_STAT_feeds_queued k = (s.dctx k).step.feeds.length % 8 ∧ t.m = s.m) ∧
  (∀ (s : State) (e c : Nat), s.alive = true → e < 17 → c < 16 → s.rg .DGE_STAT_state (16 * e + c) = 2 → (s.dctx (16 * e + c)).result ≠ [] → (s.dctx (16 * e + c)).owner = .regs →
    exec (.dgeDone e c) s = .next (s.dgeDeliver (16 * e + c))) ∧
  (∀ (s : State) (e c camp : Nat) (d : Cmd), s.alive = true → e < 17 → c < 16 → s.rg .DGE_STAT_state (16 * e + c) = 2 → (s.dctx (16 * e + c)).result ≠ [] → (s.dctx (16 * e + c)).owner = .command camp →
    s.host.cmds.find? (fun d => d.wait == .digest (16 * e + c)) = some d → exec (.dgeDone e c) s = .next (s.digestDone (16 * e + c) d))

/-- (R7 to R11, R8, R531) Register access by code, for every field of every register: a full write sets an RW field, and an RWL one only while the boot lock is open, clears or sets exactly the written bits of W1C and W1S fields, and leaves the others; a full read returns 0 of WO and RZ fields and the value of the others; it clears RC fields and leaves the others. -/
def Obligations.RegisterAccessCodes : Prop :=
(∀ r ∈ Reg.all, ∀ f ∈ r.fields, ∀ (locked : Bool) (v old : BitVec 64), let b := f.mask (BitVec.allOnes 64)
    swWriteVal locked r.fields (BitVec.allOnes 64) v old &&& b = (match f.acc with
      | .rw => v
      | .rwl => if locked then old else v
      | .w1c => old &&& ~~~v
      | .w1s => old ||| v
      | .ro | .rc | .wo | .rz => old) &&& b ∧
    swReadVal r.fields (BitVec.allOnes 64) old &&& b = (match f.acc with
      | .wo | .rz => 0
      | .ro | .rw | .rwl | .w1c | .w1s | .rc => old &&& b) ∧
    rcClearVal r.fields (BitVec.allOnes 64) old &&& b = (match f.acc with
      | .rc => 0
      | .ro | .rw | .rwl | .w1c | .w1s | .wo | .rz => old &&& b))

/-- (R527 to R532) REGISTER_WRITE and RC_READ reach a register of the internal region at its place: one that no operation hangs on takes the write by its access codes and answers a read with its readable value, RC fields cleared; a place that holds no register, and a function register, ignore the write. -/
def Obligations.RegisterRows : Prop :=
∀ (s : State) (da k : Nat) (r : Reg) (v : BitVec 64), s.alive = true → 0x3F0000000000 ≤ da → da < 0x3F8000000000 → da % 16 = 0 → regOfKey ((da - 0x3F0000000000) / 16) = some (r, k) →
    (r.isFunction = true → exec (.registerWrite (.window da) v) s = .next s) ∧
    (r = .PWR_LIMIT ∨ r = .CPM_RATION ∨ r = .EVR_VEC ∨ r = .THM_CTL ∨ r = .DMA_MARKS → exec (.registerWrite (.window da) v) s = .next (s.writeReg r k (BitVec.allOnes 64) v)) ∧
    (r.isFunction = false → r ≠ .DGE_ALLOC → r ≠ .EVR_CLAIM → exec (.rcRead (.window da)) s =
      .next (State.emit { s with regs := s.regs.setRaw r k (rcClearVal r.fields (BitVec.allOnes 64) (s.regs.raw r k)) } (.window (swReadVal r.fields (BitVec.allOnes 64) (s.regValue r k)).toNat)))

/-- (R403, Table 14-4) Integer instructions of a context: each writes its destination with its function of the 36-bit sources, or only moves on, and control goes to the next half (a long form: to the next word). DIV and REM by zero raise INT_DIVIDE and write nothing. No memory and no other register changes, because the state and the context otherwise are those after the fetch. -/
def Obligations.UliarIntegers : Prop :=
∀ (s : State) (core slot : Nat) (t : State) (u : UCtx),
    let on (v : UCtx) : Res := .next (t.stepped core slot { v with pos := u.pos.next })
    let onWord (v : UCtx) : Res := .next (t.stepped core slot { v with pos := u.pos.nextWord })
    (s.issues core slot (.uNop core slot) t u → exec (.uNop core slot) s = on u) ∧
    (∀ d a b : BitVec 4,
      let x := u.greg a.toNat
      let y := u.greg b.toNat
      let n := y.toNat % 64
      let wr (v : UWord) : Res := on (u.setG d.toNat v)
      let byZero : Res := .next (t.raise core slot { u with xfer := none } ⟨7, 0, 0, 0⟩ u.pos none)
      (s.issues core slot (.uAdd core slot d a b) t u → exec (.uAdd core slot d a b) s = wr (x + y)) ∧
      (s.issues core slot (.uSub core slot d a b) t u → exec (.uSub core slot d a b) s = wr (x - y)) ∧
      (s.issues core slot (.uAnd core slot d a b) t u → exec (.uAnd core slot d a b) s = wr (x &&& y)) ∧
      (s.issues core slot (.uOr core slot d a b) t u → exec (.uOr core slot d a b) s = wr (x ||| y)) ∧
      (s.issues core slot (.uXor core slot d a b) t u → exec (.uXor core slot d a b) s = wr (x ^^^ y)) ∧
      (s.issues core slot (.uShl core slot d a b) t u → exec (.uShl core slot d a b) s = wr (if 36 ≤ n then 0 else x <<< n)) ∧
      (s.issues core slot (.uShr core slot d a b) t u → exec (.uShr core slot d a b) s = wr (if 36 ≤ n then 0 else x >>> n)) ∧
      (s.issues core slot (.uSar core slot d a b) t u → exec (.uSar core slot d a b) s = wr (x.sshiftRight (min n 35))) ∧
      (s.issues core slot (.uMul core slot d a b) t u → exec (.uMul core slot d a b) s = wr (x * y)) ∧
      (s.issues core slot (.uMulh core slot d a b) t u → exec (.uMulh core slot d a b) s = wr (BitVec.ofInt 36 ((x.toInt * y.toInt) / 2 ^ 36))) ∧
      (s.issues core slot (.uDiv core slot d a b) t u → exec (.uDiv core slot d a b) s = if y = 0 then byZero else wr (BitVec.ofInt 36 (x.toInt.tdiv y.toInt))) ∧
      (s.issues core slot (.uRem core slot d a b) t u → exec (.uRem core slot d a b) s = if y = 0 then byZero else wr (BitVec.ofInt 36 (x.toInt.tmod y.toInt))) ∧
      (s.issues core slot (.uSlt core slot d a b) t u → exec (.uSlt core slot d a b) s = wr (if x.toInt < y.toInt then 1 else 0)) ∧
      (s.issues core slot (.uSltu core slot d a b) t u → exec (.uSltu core slot d a b) s = wr (if x.toNat < y.toNat then 1 else 0)) ∧
      (s.issues core slot (.uMov core slot d a) t u → exec (.uMov core slot d a) s = wr x)) ∧
    (∀ (d : BitVec 4) (imm : BitVec 8),
      (s.issues core slot (.uAddi core slot d imm) t u → exec (.uAddi core slot d imm) s = on (u.setG d.toNat (u.greg d.toNat + imm.signExtend 36))) ∧
      (s.issues core slot (.uLi core slot d imm) t u → exec (.uLi core slot d imm) s = on (u.setG d.toNat (imm.signExtend 36)))) ∧
    (∀ (d : BitVec 4) (n : BitVec 6),
      let x := u.greg d.toNat
      (s.issues core slot (.uShli core slot d n) t u → exec (.uShli core slot d n) s = on (u.setG d.toNat (if 36 ≤ n.toNat then 0 else x <<< n.toNat))) ∧
      (s.issues core slot (.uShri core slot d n) t u → exec (.uShri core slot d n) s = on (u.setG d.toNat (if 36 ≤ n.toNat then 0 else x >>> n.toNat))) ∧
      (s.issues core slot (.uSari core slot d n) t u → exec (.uSari core slot d n) s = on (u.setG d.toNat (x.sshiftRight (min n.toNat 35))))) ∧
    (∀ (d a : BitVec 4) (imm : BitVec 22) (hi : BitVec 14),
      (s.issues core slot (.uLil core slot d imm) t u → exec (.uLil core slot d imm) s = onWord (u.setG d.toNat (imm.signExtend 36))) ∧
      (s.issues core slot (.uLui core slot d hi) t u → exec (.uLui core slot d hi) s = onWord (u.setG d.toNat (hi ++ (u.greg d.toNat).extractLsb' 0 22))) ∧
      (s.issues core slot (.uAddil core slot d a imm) t u → exec (.uAddil core slot d a imm) s = onWord (u.setG d.toNat (u.greg a.toNat + imm.signExtend 36))))

/-- (R404 to R407, R410, R411) Loads and stores of digits, bytes, words and pairs, and the data stack. An address is the register and an unsigned scaled, or a signed digit, offset. What a load or store raises, the instruction raises; a pair needs an even register. -/
def Obligations.UliarMemory : Prop :=
∀ (s : State) (core slot : Nat) (t : State) (u : UCtx),
    let loads (i : Instr) (addr m : Nat) (after : UCtx → Nat → UCtx) : Prop := s.issues core slot i t u →
      (∀ v w n, t.uLoad core u addr m = .ok v w n → exec i s = .next (v.stepped core slot (after w n))) ∧
      (∀ v w x, t.uLoad core u addr m = .exc v w x → exec i s = .next (v.raise core slot { w with xfer := none } x u.pos none))
    let stores (i : Instr) (addr m n : Nat) (after : UCtx → UCtx) : Prop := s.issues core slot i t u →
      (∀ v w, t.uStore core u addr m n = .ok v w () → exec i s = .next (v.stepped core slot (after w))) ∧
      (∀ v w x, t.uStore core u addr m n = .exc v w x → exec i s = .next (v.raise core slot { w with xfer := none } x u.pos none))
    let half (w : UCtx) : UCtx := { w with pos := w.pos.next }
    let word (w : UCtx) : UCtx := { w with pos := w.pos.nextWord }
    let setG (d : BitVec 4) (w : UCtx) (n : Nat) : UCtx := w.setG d.toNat (BitVec.ofNat 36 n)
    let setPair (d : BitVec 4) (w : UCtx) (n : Nat) : UCtx := (w.setG d.toNat (BitVec.ofNat 36 (n / 2 ^ 36))).setG (d.toNat + 1) (BitVec.ofNat 36 n)
    let pair (d : BitVec 4) : Nat := (u.greg d.toNat).toNat * 2 ^ 36 + (u.greg (d.toNat + 1)).toNat
    let illegal : Res := .next (t.raise core slot { u with xfer := none } ⟨1, 0, 0, 0⟩ u.pos none)
    (∀ d a b : BitVec 4,
      let at' (m : Nat) : Nat := ((u.greg a.toNat).toNat + m * b.toNat) % 2 ^ 36
      loads (.uLdg core slot d a b) (at' 1) 1 (fun w n => half (setG d w n)) ∧ loads (.uLdb core slot d a b) (at' 2) 2 (fun w n => half (setG d w n)) ∧
      loads (.uLdw core slot d a b) (at' 9) 9 (fun w n => half (setG d w n)) ∧
      stores (.uStg core slot d a b) (at' 1) 1 (u.greg d.toNat).toNat half ∧ stores (.uStb core slot d a b) (at' 2) 2 (u.greg d.toNat).toNat half ∧
      stores (.uStw core slot d a b) (at' 9) 9 (u.greg d.toNat).toNat half ∧
      (s.issues core slot (.uLdp core slot d a b) t u → (d.toNat % 2 = 1 → exec (.uLdp core slot d a b) s = illegal) ∧
        (∀ v w n, d.toNat % 2 = 0 → t.uLoadPair core u (at' 18) = .ok v w n → exec (.uLdp core slot d a b) s = .next (v.stepped core slot (half (setPair d w n))))) ∧
      (s.issues core slot (.uStp core slot d a b) t u → (d.toNat % 2 = 1 → exec (.uStp core slot d a b) s = illegal) ∧
        (∀ v w, d.toNat % 2 = 0 → t.uStorePair core u (at' 18) (pair d) = .ok v w () → exec (.uStp core slot d a b) s = .next (v.stepped core slot (half w))))) ∧
    (∀ (d a : BitVec 4) (off : BitVec 19),
      let addr := (((u.greg a.toNat).toNat + off.toInt) % 2 ^ 36).toNat
      loads (.uLsl core slot d a 0 0 off) addr 1 (fun w n => word (setG d w n)) ∧ loads (.uLsl core slot d a 1 0 off) addr 2 (fun w n => word (setG d w n)) ∧
      loads (.uLsl core slot d a 2 0 off) addr 9 (fun w n => word (setG d w n)) ∧
      stores (.uLsl core slot d a 0 1 off) addr 1 (u.greg d.toNat).toNat word ∧ stores (.uLsl core slot d a 1 1 off) addr 2 (u.greg d.toNat).toNat word ∧
      stores (.uLsl core slot d a 2 1 off) addr 9 (u.greg d.toNat).toNat word ∧
      (d.toNat % 2 = 0 → loads (.uLsl core slot d a 3 0 off) addr 18 (fun w n => word (setPair d w n)) ∧ stores (.uLsl core slot d a 3 1 off) addr 18 (pair d) word) ∧
      (∀ st : BitVec 1, d.toNat % 2 = 1 → s.issues core slot (.uLsl core slot d a 3 st off) t u → exec (.uLsl core slot d a 3 st off) s = illegal)) ∧
    (∀ (f : BitVec 6) (a : BitVec 4) (off : BitVec 19),
      let addr := (((u.greg a.toNat).toNat + off.toInt) % 2 ^ 36).toNat
      loads (.uFls core slot f a 0 off) addr 18 (fun w n => word (w.setF f.toNat (BitVec.ofNat 72 n))) ∧ stores (.uFls core slot f a 1 off) addr 18 (u.freg f.toNat).toNat word) ∧
    (∀ (d : BitVec 4) (imm : BitVec 8),
      let dsp := u.creg crDsp
      let down : Prop := dsp < 9 ∨ dsp - 9 < u.creg crDslim
      let adj : Int := dsp + 9 * imm.toInt
      let overflow : Res := .next (t.raise core slot { u with xfer := none } ⟨8, 0, 0, 0⟩ u.pos none)
      (s.issues core slot (.uPush core slot d) t u → (down → exec (.uPush core slot d) s = overflow) ∧
        (∀ x, ¬ down → u.aperture ((dsp - 9) % 2 ^ 36) 9 .write false = .error x → exec (.uPush core slot d) s = .next (t.raise core slot { u with xfer := none } x u.pos none)) ∧
        (∀ x v w, ¬ down → u.aperture ((dsp - 9) % 2 ^ 36) 9 .write false = .ok x → t.moveDsp core u ((dsp - 9) % 2 ^ 36) = .ok v w () →
          exec (.uPush core slot d) s = .next (v.stepped core slot (half { w with dcache := mput ((dsp - 9) % 2 ^ 36) (w.greg d.toNat, true) w.dcache })))) ∧
      (s.issues core slot (.uPop core slot d) t u → ∀ v w n v' w', t.uLoad core u dsp 9 = .ok v w n → v.moveDsp core w ((w.creg crDsp + 9) % 2 ^ 36) = .ok v' w' () →
        exec (.uPop core slot d) s = .next (v'.stepped core slot (half (setG d w' n)))) ∧
      (s.issues core slot (.uDspadj core slot imm) t u → (imm.toInt < 0 → adj < 0 ∨ adj < u.creg crDslim → exec (.uDspadj core slot imm) s = overflow) ∧
        (∀ v w, 0 ≤ imm.toInt ∨ (0 ≤ adj ∧ u.creg crDslim ≤ adj) → t.moveDsp core u (adj % 2 ^ 36).toNat = .ok v w () → exec (.uDspadj core slot imm) s = .next (v.stepped core slot (half w)))))

/-- (R412, R417, Table 14-4) A transfer outside a delay slot decides at once where control goes after its slot, and whether; the slot is the next half, and it comes next. CALLR and BRL push the position after the slot, and raise RSTACK_OVERFLOW at the limit; RET goes to the top entry of kind 0, raises RSTACK_UNDERFLOW where there is none and ILLEGAL_INSTRUCTION at another kind. An offset counts halves of words of 9 digits. -/
def Obligations.UliarTransfers : Prop :=
(∀ (p : UPos) (k : Int), p.move (2 * k) = ⟨((p.word + 9 * k) % 2 ^ 36).toNat, p.half⟩ ∧ (p.move k).next = p.move (k + 1)) ∧
  (∀ (s : State) (core slot : Nat) (t : State) (u : UCtx),
    let leaves (target : UPos) (taken : Bool) (a : StackAct) : Res := .next (t.stepped core slot { u with pos := u.pos.next, xfer := some ⟨u.pos, target, taken, a⟩ })
    let leavesWord (target : UPos) (taken : Bool) (a : StackAct) : Res := .next (t.stepped core slot { u with pos := u.pos.nextWord, xfer := some ⟨u.pos, target, taken, a⟩ })
    let raises (cause : Nat) : Res := .next (t.raise core slot { u with xfer := none } ⟨cause, 0, 0, 0⟩ u.pos none)
    (∀ (a : BitVec 4) (off : BitVec 8),
      let x := u.greg a.toNat
      let q := u.pos.move off.toInt
      (s.issues core slot (.uBz core slot a off) t u → exec (.uBz core slot a off) s = leaves q (decide (x = 0)) .keep) ∧
      (s.issues core slot (.uBnz core slot a off) t u → exec (.uBnz core slot a off) s = leaves q (decide (x ≠ 0)) .keep) ∧
      (s.issues core slot (.uBltz core slot a off) t u → exec (.uBltz core slot a off) s = leaves q (decide (x.toInt < 0)) .keep) ∧
      (s.issues core slot (.uBgez core slot a off) t u → exec (.uBgez core slot a off) s = leaves q (decide (0 ≤ x.toInt)) .keep) ∧
      (s.issues core slot (.uBr core slot off) t u → exec (.uBr core slot off) s = leaves q true .keep)) ∧
    (∀ a : BitVec 4,
      let q : UPos := ⟨(u.greg a.toNat).toNat, false⟩
      (s.issues core slot (.uJr core slot a) t u → exec (.uJr core slot a) s = leaves q true .keep) ∧
      (s.issues core slot (.uCallr core slot a) t u → exec (.uCallr core slot a) s =
        if u.creg crRslim ≤ u.creg crCsp then raises 9 else leaves q true (.push u.pos.next.next))) ∧
    (s.issues core slot (.uRet core slot) t u → (t.rsPeek core slot u 0 = none → exec (.uRet core slot) s = raises 10) ∧
      (∀ e, t.rsPeek core slot u 0 = some e → exec (.uRet core slot) s =
        if e.extractLsb' 37 2 = 0 then leaves ⟨(e.extractLsb' 0 36).toNat, e.getLsbD 36⟩ true .pop else raises 1)) ∧
    (∀ (a b : BitVec 4) (cond : BitVec 3) (off : BitVec 19), s.issues core slot (.uBcmp core slot a b cond off) t u →
      let x := u.greg a.toNat
      let y := u.greg b.toNat
      let ends (taken : Bool) : Prop := exec (.uBcmp core slot a b cond off) s = leavesWord (u.pos.move off.toInt) taken .keep
      (cond = 0 → ends (decide (x = y))) ∧ (cond = 1 → ends (decide (x ≠ y))) ∧ (cond = 2 → ends (decide (x.toInt < y.toInt))) ∧ (cond = 3 → ends (decide (y.toInt ≤ x.toInt))) ∧
      (cond = 4 → ends (decide (x.toNat < y.toNat))) ∧ (cond = 5 → ends (decide (y.toNat ≤ x.toNat))) ∧ (6 ≤ cond.toNat → exec (.uBcmp core slot a b cond off) s = raises 1)) ∧
    (∀ (d : BitVec 4) (off : BitVec 22), s.issues core slot (.uBrl core slot d off) t u →
      (d = 0 → exec (.uBrl core slot d off) s = leavesWord (u.pos.move off.toInt) true .keep) ∧
      (d = 1 → exec (.uBrl core slot d off) s = if u.creg crRslim ≤ u.creg crCsp then raises 9 else leavesWord (u.pos.move off.toInt) true (.push u.pos.nextWord.next)) ∧
      (2 ≤ d.toNat → exec (.uBrl core slot d off) s = raises 1)))

/-- (R412, R418, R419) A delay slot. A transfer's push or pop happens before its slot; the instruction in it runs, and control then goes to the target of a taken transfer, or on. In a slot that holds a transfer, a long form, ECALL, BRK, WAIT, YIELD, ERET or IRET, nothing of the transfer happens and ILLEGAL_INSTRUCTION is raised at the transfer. An exception in a slot keeps where control would have gone on. -/
def Obligations.UliarDelaySlots : Prop :=
∀ (s : State) (core slot : Nat) (t : State) (u : UCtx) (x : Xfer),
    let r := t.stackAct core slot u x.act
    let after : UPos := if x.taken then x.target else u.pos.next
    (∀ i c, s.issuesSlot core slot i t u x → uCode i = some (core, slot, c) → c.slotForbids = true → exec i s = .next (t.raise core slot { u with xfer := none } ⟨1, 0, 0, 0⟩ x.pos none)) ∧
    (∀ w, s.uReady core slot = true → s.uFetch core (s.uctx (ctxKey core slot)) = .ok t u w → isIllegal w u.pos.half = true → u.xfer = some x →
      exec (.uIllegal core slot) s = .next (t.raise core slot { u with xfer := none } ⟨1, 0, 0, 0⟩ x.pos none)) ∧
    (s.issuesSlot core slot (.uNop core slot) t u x → exec (.uNop core slot) s = .next (r.1.stepped core slot { r.2 with pos := if x.taken then x.target else r.2.pos.next, xfer := none })) ∧
    (∀ d a b : BitVec 4, s.issuesSlot core slot (.uAdd core slot d a b) t u x → exec (.uAdd core slot d a b) s =
      .next (r.1.stepped core slot { r.2.setG d.toNat (r.2.greg a.toNat + r.2.greg b.toNat) with pos := if x.taken then x.target else r.2.pos.next, xfer := none })) ∧
    (∀ d a b : BitVec 4, s.issuesSlot core slot (.uDiv core slot d a b) t u x → r.2.greg b.toNat = 0 → exec (.uDiv core slot d a b) s =
      .next (r.1.raise core slot { r.2 with xfer := none } ⟨7, 0, 0, 0⟩ u.pos (some after))) ∧
    (x.act = .keep → r = (t, u)) ∧ (x.act = .pop → r = (t, u.rsPop)) ∧ (∀ p, x.act = .push p → r = t.rsPush core slot u (rsEntry p.word p.half 0))

/-- (R419, R422, Tables 14-9 and 14-10) An exception of a context whose exc is 0 and that runs no invocation: ULR_EPC and its half, the cause, the faulting address and its aperture and kind, and, in a delay slot, where control would have gone on, are saved; the level goes to plevel; level F and exc are set; ipl and ie stay; control goes to the exception vector; and G, F and the other control registers stay. An illegal code raises ILLEGAL_INSTRUCTION at its position, or, in a delay slot, at the transfer. -/
def Obligations.UliarExceptions : Prop :=
(∀ (s : State) (core slot : Nat) (u : UCtx) (x : UExc) (p q : UPos), u.creg 0 % 8 < 4 → u.inv = none → x.cause < 64 → x.aperture < 16 → x.xkind < 8 →
    (∃ v : UCtx, s.raise core slot u x p (some q) = (s.ra .ULR_STAT_exceptions core 1).setU (ctxKey core slot) v ∧
      v.creg 1 = p.word % 2 ^ 36 ∧ v.creg 2 = q.word % 2 ^ 36 ∧ v.creg 4 = x.addr % 2 ^ 36 ∧
      v.creg 3 = x.cause + 64 * p.half.toNat + 128 + 256 * q.half.toNat + 512 * x.aperture + 8192 * x.xkind ∧
      v.creg 0 % 2 = 0 ∧ v.creg 0 / 2 % 2 = u.creg 0 % 2 ∧ v.creg 0 / 4 % 2 = 1 ∧ v.creg 0 / 8 = u.creg 0 / 8 ∧
      v.pos = ⟨u.creg 5 % 2 ^ 36, false⟩ ∧ v.xfer = none ∧ v.g = u.g ∧ v.f = u.f ∧ v.rcache = u.rcache ∧ v.dcache = u.dcache ∧ (∀ n, 5 ≤ n → v.creg n = u.creg n)) ∧
    (∃ (t : State) (v : UCtx), s.raise core slot u x p none = t.setU (ctxKey core slot) v ∧ t.m = s.m ∧ v.creg 1 = p.word % 2 ^ 36 ∧ v.creg 3 % 256 = x.cause + 64 * p.half.toNat ∧
      v.creg 0 % 2 = 0 ∧ v.creg 0 / 2 % 2 = u.creg 0 % 2 ∧ v.creg 0 / 4 % 2 = 1 ∧ v.creg 0 / 8 = u.creg 0 / 8 ∧ v.pos = ⟨u.creg 5 % 2 ^ 36, false⟩ ∧ v.g = u.g ∧ v.f = u.f)) ∧
  (∀ (s : State) (core slot : Nat) (t : State) (u : UCtx) (w : BitVec 36), s.uReady core slot = true → s.uFetch core (s.uctx (ctxKey core slot)) = .ok t u w →
    isIllegal w u.pos.half = true →
    (u.xfer = none → exec (.uIllegal core slot) s = .next (t.raise core slot u ⟨1, 0, 0, 0⟩ u.pos none)) ∧
    (∀ x, u.xfer = some x → exec (.uIllegal core slot) s = .next (t.raise core slot { u with xfer := none } ⟨1, 0, 0, 0⟩ x.pos none)))

/-- (R424, Table 14-15) An exception raised while exc is 1 is a double fault: the device enters HALTED, and ULR_FAULTLOG of the core records the event, unless it holds an earlier one. -/
def Obligations.UliarDoubleFault : Prop :=
∀ (s : State) (core slot : Nat) (u : UCtx) (x : UExc) (p : UPos) (q : Option UPos), s.alive = true → core < 132 → u.creg 0 / 4 % 2 = 1 → x.cause < 64 → slot < 32 → p.word < 2 ^ 36 →
    let t := s.raise core slot u x p q
    t.mode = .halted ∧
    (s.rg .ULR_FAULTLOG_valid core = 0 → t.rg .ULR_FAULTLOG_valid core = 1 ∧ t.rg .ULR_FAULTLOG_cause core = x.cause ∧ t.rg .ULR_FAULTLOG_slot core = slot ∧
      t.rg .ULR_FAULTLOG_epc core = p.word ∧ t.rg .ULR_FAULTLOG_epc_half core = p.half.toNat)

/-- (R423, R419, R443) ERET at level F clears exc, restores level from plevel, and continues at ULR_EPC with the half in epc_half; with in_slot 1 the slot is executed again, and control then goes on at ULR_ETGT. At level X it raises PRIVILEGE. -/
def Obligations.UliarEret : Prop :=
∀ (s : State) (core slot : Nat) (t : State) (u : UCtx), s.issues core slot (.uEret core slot) t u →
    let st := u.creg 0
    let cause := u.creg 3
    let epc : UPos := ⟨u.creg 1, decide (cause / 64 % 2 = 1)⟩
    let etgt : UPos := ⟨u.creg 2, decide (cause / 256 % 2 = 1)⟩
    (st % 2 = 0 → ∃ v : UCtx, exec (.uEret core slot) s = .next (t.stepped core slot v) ∧ v.creg 0 % 2 = st / 2 % 2 ∧ v.creg 0 / 2 % 2 = st / 2 % 2 ∧ v.creg 0 / 4 % 2 = 0 ∧ v.creg 0 / 8 = st / 8 ∧
      v.pos = epc ∧ v.xfer = (if cause / 128 % 2 = 1 then some ⟨epc, etgt, true, .keep⟩ else none) ∧ v.g = u.g ∧ v.f = u.f ∧ (∀ n, n ≠ 0 → v.creg n = u.creg n)) ∧
    (st % 2 = 1 → exec (.uEret core slot) s = .next (t.raise core slot { u with xfer := none } ⟨2, 0, 0, 0⟩ u.pos none))

/-- (R408, R411, R421, R431 to R433, R436, R437, R443, Table 14-8) System instructions and control registers. FENCE.W writes the data-stack cache back; the accesses of this model are in order, so FENCE.RW only moves on (log 52). WAIT parks a thread and stops a management core's issue; YIELD gives a thread's entry back, and is ILLEGAL on a management core; BRK raises BREAKPOINT; IRET pops a kind-2 entry over a kind-1 entry; CSRR and CSRW check the number and the level. -/
def Obligations.UliarSystem : Prop :=
∀ (s : State) (core slot : Nat) (t : State) (u : UCtx),
    let key := ctxKey core slot
    let on (v : State) (w : UCtx) : Res := .next (v.stepped core slot { w with pos := w.pos.next })
    let raises (cause : Nat) : Res := .next (t.raise core slot { u with xfer := none } ⟨cause, 0, 0, 0⟩ u.pos none)
    let out : State := t.setU key { u with pos := u.pos.next }
    let levelX : Prop := u.creg 0 % 2 = 1
    (s.issues core slot (.uFenceW core slot) t u → ∀ v w, t.cleanAll core u = .ok v w () → exec (.uFenceW core slot) s = on v w) ∧
    (s.issues core slot (.uFenceRw core slot) t u → exec (.uFenceRw core slot) s = on t u) ∧
    (s.issues core slot (.uWait core slot) t u → exec (.uWait core slot) s =
      if core < 128 then .next (((out.parkThread key).retire core).reap key) else on t { u with waiting := true }) ∧
    (s.issues core slot (.uYield core slot) t u → exec (.uYield core slot) s = if core < 128 then .next (((out.yieldThread key none).retire core).reap key) else raises 1) ∧
    (s.issues core slot (.uBrk core slot) t u → exec (.uBrk core slot) s = raises 11) ∧
    (s.issues core slot (.uIret core slot) t u → (levelX → exec (.uIret core slot) s = raises 2) ∧ (¬ levelX → core < 128 → exec (.uIret core slot) s = raises 1) ∧
      (∀ a b, ¬ levelX → 128 ≤ core → t.rsPeek core slot u 0 = some a → t.rsPeek core slot u 1 = some b →
        (rsKind a ≠ 2 ∨ rsKind b ≠ 1 → exec (.uIret core slot) s = raises 1) ∧
        (rsKind a = 2 → rsKind b = 1 → ∃ v : UCtx, exec (.uIret core slot) s = .next (t.stepped core slot v) ∧ v.creg 0 = u.creg 0 / 512 * 512 + a.toNat % 512 ∧ v.creg 0x0C = a.toNat / 512 % 2 ^ 14 ∧
          v.creg 0x0A = u.creg 0x0A - 2 ∧ v.pos = rsPos b ∧ v.xfer = none ∧ v.g = u.g ∧ v.f = u.f))) ∧
    (∀ (d : BitVec 4) (n : BitVec 8),
      let known : Prop := n.toNat ≤ 0x0E ∨ (0x10 ≤ n.toNat ∧ n.toNat ≤ 0x2F)
      (s.issues core slot (.uCsrr core slot d n) t u →
        (¬ known → exec (.uCsrr core slot d n) s = raises 1) ∧
        (known → levelX → n.toNat ∉ [6, 7, 8, 0x0A, 0x0D, 0x0E] → exec (.uCsrr core slot d n) s = raises 2) ∧
        (known → ¬ levelX ∨ n.toNat ∈ [6, 7, 8, 0x0A, 0x0D, 0x0E] → exec (.uCsrr core slot d n) s =
          on t (u.setG d.toNat (BitVec.ofNat 36 (if n = 0x0E then u.camp + 2 ^ 10 * slot + 2 ^ 15 * core else u.creg n.toNat))))) ∧
      (s.issues core slot (.uCsrw core slot d n) t u →
        let v := (u.greg d.toNat).toNat
        (¬ known → exec (.uCsrw core slot d n) s = raises 1) ∧
        (known → levelX → n ≠ 8 → exec (.uCsrw core slot d n) s = raises 2) ∧
        (∀ x y, ¬ levelX ∨ n = 8 → n = 8 → t.cleanAll core u = .ok x y () → exec (.uCsrw core slot d n) s = on x (({ y with dcache := [] } : UCtx).setCreg 8 v)) ∧
        (¬ levelX → n.toNat ∈ [0x0A, 0x0D, 0x0E] → exec (.uCsrw core slot d n) s = on t u) ∧
        (¬ levelX → n.toNat ∈ [1, 2, 4, 5, 9] → exec (.uCsrw core slot d n) s = on t (u.setCreg n.toNat v)) ∧
        (¬ levelX → n.toNat ∈ [0, 3, 6, 7, 0x0B, 0x0C] → exec (.uCsrw core slot d n) s = on t (u.setCreg n.toNat (crMasked n.toNat v))) ∧
        (¬ levelX → 0x20 ≤ n.toNat → n.toNat ≤ 0x2F → v / 2 ^ 17 % 4 = 3 → exec (.uCsrw core slot d n) s = raises 1) ∧
        (∀ x y, ¬ levelX → 0x10 ≤ n.toNat → n.toNat ≤ 0x2F → n.toNat < 0x20 ∨ v / 2 ^ 17 % 4 ≠ 3 → t.cleanAll core u = .ok x y () →
          exec (.uCsrw core slot d n) s = on x (y.setCreg n.toNat (crMasked n.toNat v)))))

/-- (R425 to R430, Table 14-4) Vector instructions. VSETL sets the element size and the length, at most VLMAX, and answers the length. VINT takes words and doubles, VFP doubles, VDIG digits; each writes the elements from ULR_VXI on below VL and leaves the others. The memory instructions do their elements in order; in BOOT and MAINTENANCE a fault leaves its element's number in ULR_VXI. VGATHER into its own index register is illegal. -/
def Obligations.UliarVectors : Prop :=
(∀ (s : State) (core slot : Nat) (t : State) (u : UCtx),
    let on (v : State) (w : UCtx) : Res := .next (v.stepped core slot { w with pos := w.pos.next })
    let illegal : Res := .next (t.raise core slot { u with xfer := none } ⟨1, 0, 0, 0⟩ u.pos none)
    let mem (i : Instr) (k : Nat) (store : Bool) (l : List VElem) : Prop :=
      (∀ v w, vrun core k store l t u = .ok v w () → exec i s = on v w.vdone) ∧
      (∀ v w x, vrun core k store l t u = .exc v w x → t.mode = .boot ∨ t.mode = .maintenance →
          exec i s = .next (v.raise core slot { w.setCreg 7 ((l[vfault core k store l t u]?.map (fun e => e.i)).getD 0) with xfer := none } x u.pos none))
    (∀ d a b : BitVec 4, s.issues core slot (.uVsetl core slot d a b) t u →
      (2 < b.toNat → exec (.uVsetl core slot d a b) s = illegal) ∧
      (∀ m, (b = 0 ∧ m = 144) ∨ (b = 1 ∧ m = 16) ∨ (b = 2 ∧ m = 8) →
        let n := min (u.greg a.toNat).toNat m
        exec (.uVsetl core slot d a b) s = on t ((u.setCreg 6 (n + 256 * b.toNat)).setG d.toNat (BitVec.ofNat 36 n)))) ∧
    (∀ vd va vb f : BitVec 3,
      let on3 (g : Nat → Nat → Nat → Nat) : Res := on t (u.vmap vd.toNat va.toNat vb.toNat g)
      (s.issues core slot (.uVint core slot vd va vb f) t u →
        (u.sew ≠ 1 → u.sew ≠ 2 → exec (.uVint core slot vd va vb f) s = illegal) ∧
        (u.sew = 1 ∨ u.sew = 2 → exec (.uVint core slot vd va vb f) s = on3 (fun _ x y => vintOp f.toNat (36 * u.sew) x y))) ∧
      (s.issues core slot (.uVfp core slot vd va vb f) t u →
        (u.sew ≠ 2 ∨ f = 7 → exec (.uVfp core slot vd va vb f) s = illegal) ∧
        (u.sew = 2 → f ≠ 7 → exec (.uVfp core slot vd va vb f) s = on3 (fun d x y => (vfpOp f.toNat (BitVec.ofNat 64 d) (BitVec.ofNat 64 x) (BitVec.ofNat 64 y)).toNat))) ∧
      (s.issues core slot (.uVdig core slot vd va vb f) t u →
        (u.sew ≠ 0 ∨ 5 ≤ f.toNat → exec (.uVdig core slot vd va vb f) s = illegal) ∧
        (u.sew = 0 → f.toNat ≤ 4 → exec (.uVdig core slot vd va vb f) s = on3 (fun _ x y => vdigOp f.toNat x y)))) ∧
    ((∀ (vd : BitVec 3) (a b : BitVec 4),
        (s.issues core slot (.uVld core slot vd a b) t u → mem (.uVld core slot vd a b) vd.toNat false (u.strided vd.toNat a.toNat b.toNat)) ∧
        (s.issues core slot (.uVst core slot vd a b) t u → mem (.uVst core slot vd a b) vd.toNat true (u.strided vd.toNat a.toNat b.toNat))) ∧
      (∀ (vd : BitVec 3) (a : BitVec 4) (vb : BitVec 3),
        (s.issues core slot (.uVgather core slot vd a vb) t u →
          (vd = vb ∨ (u.sew ≠ 1 ∧ u.sew ≠ 2) → exec (.uVgather core slot vd a vb) s = illegal) ∧
          (vd ≠ vb → u.sew = 1 ∨ u.sew = 2 → mem (.uVgather core slot vd a vb) vd.toNat false (u.indexed vd.toNat a.toNat vb.toNat))) ∧
        (s.issues core slot (.uVscatter core slot vd a vb) t u →
          (u.sew ≠ 1 → u.sew ≠ 2 → exec (.uVscatter core slot vd a vb) s = illegal) ∧
          (u.sew = 1 ∨ u.sew = 2 → mem (.uVscatter core slot vd a vb) vd.toNat true (u.indexed vd.toNat a.toNat vb.toNat)))))) ∧
  (∀ (u : UCtx) (vd va vb : Nat) (g : Nat → Nat → Nat → Nat), vd < 8 → u.sew = 2 → u.vl ≤ 8 → (∀ i < 8, (u.vmap vd va vb g).freg (8 * vd + i) =
      if u.creg 7 ≤ i ∧ i < u.vl then BitVec.ofNat 72 (g (u.freg (8 * vd + i)).toNat (u.freg (8 * va + i)).toNat (u.freg (8 * vb + i)).toNat) else u.freg (8 * vd + i)) ∧
    (∀ j, j / 8 ≠ vd → (u.vmap vd va vb g).freg j = u.freg j) ∧ (0 < u.vl → (u.vmap vd va vb g).creg 7 = 0))

/-- (R409, Table 14-4) FOP: each function with its fields. A binary64 function takes bits [63:0] of its F registers and clears bits [71:64] of its result; FMOV copies all 72 bits; conversions and moves go between F and G. A field that a function does not use, or a function that does not exist, is illegal. -/
def Obligations.UliarFloats : Prop :=
∀ (s : State) (core slot : Nat) (t : State) (u : UCtx) (fd fa fb func : BitVec 6) (g : BitVec 4) (h : BitVec 2), s.issues core slot (.uFop core slot fd fa fb func g h) t u →
    let ends (w : UCtx) : Prop := exec (.uFop core slot fd fa fb func g h) s = .next (t.stepped core slot { w with pos := u.pos.nextWord })
    let f (i : BitVec 6) : BitVec 64 := (u.freg i.toNat).extractLsb' 0 64
    let setF (x : BitVec 64) : UCtx := u.setF fd.toNat (x.zeroExtend 72)
    let bad (ok : Prop) : Prop := ¬ ok → exec (.uFop core slot fd fa fb func g h) s = .next (t.raise core slot { u with xfer := none } ⟨1, 0, 0, 0⟩ u.pos none)
    let i (x : UWord) : UCtx := u.setG g.toNat x
    (func = 0 → (g = 0 ∧ h = 0 → ends (setF (f64Add (f fa) (f fb)))) ∧ bad (g = 0 ∧ h = 0)) ∧
    (func = 1 → (g = 0 ∧ h = 0 → ends (setF (f64Sub (f fa) (f fb)))) ∧ bad (g = 0 ∧ h = 0)) ∧
    (func = 2 → (g = 0 ∧ h = 0 → ends (setF (f64Mul (f fa) (f fb)))) ∧ bad (g = 0 ∧ h = 0)) ∧
    (func = 3 → (g = 0 ∧ h = 0 → ends (setF (f64Div (f fa) (f fb)))) ∧ bad (g = 0 ∧ h = 0)) ∧
    (func = 4 → (fb = 0 ∧ g = 0 ∧ h = 0 → ends (setF (f64Sqrt (f fa)))) ∧ bad (fb = 0 ∧ g = 0 ∧ h = 0)) ∧
    (func = 5 → (g = 0 ∧ h = 0 → ends (setF (f64MinMax false (f fa) (f fb)))) ∧ bad (g = 0 ∧ h = 0)) ∧
    (func = 6 → (g = 0 ∧ h = 0 → ends (setF (f64MinMax true (f fa) (f fb)))) ∧ bad (g = 0 ∧ h = 0)) ∧
    (func = 7 → (fb = 0 ∧ g = 0 ∧ h = 0 → ends (u.setF fd.toNat (u.freg fa.toNat))) ∧ bad (fb = 0 ∧ g = 0 ∧ h = 0)) ∧
    (func = 8 → (fa = 0 ∧ fb = 0 ∧ h = 0 → ends (setF (f64OfInt (u.greg g.toNat).toInt))) ∧ bad (fa = 0 ∧ fb = 0 ∧ h = 0)) ∧
    (func = 9 → (fd = 0 ∧ fb = 0 ∧ h = 0 → ends (i (BitVec.ofInt 36 (f64ToInt (f fa))))) ∧ bad (fd = 0 ∧ fb = 0 ∧ h = 0)) ∧
    (func = 10 → (fd = 0 ∧ h = 0 → ends (i (if f64Cmp (f fa) (f fb) = some .lt then 1 else 0))) ∧ bad (fd = 0 ∧ h = 0)) ∧
    (func = 11 → (fd = 0 ∧ h = 0 → ends (i (if f64Cmp (f fa) (f fb) = some .eq then 1 else 0))) ∧ bad (fd = 0 ∧ h = 0)) ∧
    (func = 12 → fa = 0 → fb = 0 → (h = 0 → ends (u.setF fd.toNat ((u.freg fd.toNat).extractLsb' 36 36 ++ u.greg g.toNat))) ∧ (h = 1 → ends (u.setF fd.toNat (u.greg g.toNat ++ (u.freg fd.toNat).extractLsb' 0 36)))) ∧
    (func = 13 → fd = 0 → fb = 0 → (h = 0 → ends (i ((u.freg fa.toNat).extractLsb' 0 36))) ∧ (h = 1 → ends (i ((u.freg fa.toNat).extractLsb' 36 36)))) ∧
    (func = 12 → bad (fa = 0 ∧ fb = 0 ∧ h.toNat ≤ 1)) ∧ (func = 13 → bad (fd = 0 ∧ fb = 0 ∧ h.toNat ≤ 1)) ∧ (14 ≤ func.toNat → bad False)

/-- (R250, R441, R442, R480, Table 14-7) Firmware calls. A call answers its status in G1 and its results from G2 on, and leaves the other registers; without an invocation it is not permitted. EXIT ends the invocation with its status and result; a call that waits leaves the thread's entry WAITING. -/
def Obligations.UliarCalls : Prop :=
(∀ (s : State) (u : UCtx) (st : Nat) (r : List Nat), r.length ≤ 5 → let x := s.ecallRet u st r
    x.2.greg 1 = BitVec.ofNat 36 st ∧ (∀ i, (h : i < r.length) → x.2.greg (i + 2) = BitVec.ofNat 36 r[i]) ∧ (∀ n, n = 0 ∨ 7 ≤ n → x.2.greg n = u.greg n) ∧ x.2.f = u.f ∧ x.2.cr = u.cr ∧ x.2.pos = u.pos ∧ x.1 = { s with draws := s.draws + 1 }) ∧
  (∀ (s : State) (core slot : Nat) (t : State) (u : UCtx),
    let key := ctxKey core slot
    let answers (v : State) (w : UCtx) (st : Nat) (r : List Nat) : Res := let x := v.ecallRet w st r; .next (x.1.stepped core slot { x.2 with pos := x.2.pos.next })
    let parks (w : UWait) : Res := let x := t.ecallRet u 0 []; .next ((((x.1.setU key { x.2 with pos := x.2.pos.next, awaits := some w }).parkThread key).retire core).reap key)
    let leaves (v : State) : Res := .next ((v.retire core).reap key)
    (∀ da homes, u.inv = none → ∀ i, i ∈ [Instr.ecallPlanLoad core slot da, .ecallPlanDrop core slot, .ecallExecute core slot homes, .ecallExecWait core slot, .ecallDigest core slot, .ecallRetain core slot, .ecallHandler core slot] →
      s.issues core slot i t u → exec i s = answers t u stNotPermitted []) ∧
    (s.issues core slot (.ecallDevtime core slot) t u → exec (.ecallDevtime core slot) s = answers t u 0 [t.devtime.toNat % 2 ^ 36, t.devtime.toNat / 2 ^ 36 % 2 ^ 28]) ∧
    (∀ v : Invocation, u.inv = some v →
      (s.issues core slot (.ecallExit core slot) t u →
        (65536 < (u.greg 2).toNat → exec (.ecallExit core slot) s = leaves ((t.setU key u).endInvocation key stExtFault [])) ∧
        (∀ b, (u.greg 2).toNat ≤ 65536 → (t.setU key u).ecallRead core u (5 * 2 ^ 32) (u.greg 2).toNat = .ok b →
          exec (.ecallExit core slot) s = leaves ((t.setU key u).endInvocation key ((u.greg 1).toNat % 2 ^ 14) b))) ∧
      (∀ da, s.issues core slot (.ecallPlanLoad core slot da) t u → ∀ hd n w b x p, 8 ≤ (u.greg 2).toNat → t.ecallRead core u (u.greg 1).toNat 8 = .ok hd → imageLen hd = some n → ecallLen (u.greg 2).toNat n = .ok w →
        t.ecallRead core u (u.greg 1).toNat n = .ok b → t.loadPlan v.camp b da = .ok (x, p) → exec (.ecallPlanLoad core slot da) s = answers x u w [p]) ∧
      (s.issues core slot (.ecallPlanDrop core slot) t u → exec (.ecallPlanDrop core slot) s = let r := t.doPlanDrop v.camp (u.greg 1).toNat; answers r.2 u r.1 []) ∧
      (∀ homes, s.issues core slot (.ecallExecute core slot homes) t u → ∀ hd w b ps q p m x id, 8 ≤ (u.greg 3).toNat → t.ecallRead core u (u.greg 2).toNat 8 = .ok hd → ecallLen (u.greg 3).toNat (word32 hd 1) = .ok w →
        blockHeadOk hd = true → u.resultOk (u.greg 4).toNat (u.greg 5).toNat = true → t.ecallRead core u (u.greg 2).toNat (word32 hd 1) = .ok b → t.bindPlan v.camp (u.greg 1).toNat b = .ok (ps, q, p, m) →
        t.planLost ps q = none → t.tablesLost v.camp p m = none → t.startRun v.camp ps p m (.service core slot (u.greg 4).toNat (u.greg 5).toNat) 0 0xFFFF false homes = .ok (x, id) →
        exec (.ecallExecute core slot homes) s = answers x.dispatch { u with inv := some { v with execs := v.execs ++ [id] } } w [id]) ∧
      (s.issues core slot (.ecallExecWait core slot) t u →
        let id := (u.greg 1).toNat
        (id ∉ v.execs → exec (.ecallExecWait core slot) s = answers t u stInvalidField []) ∧
        (∀ r, id ∈ v.execs → mget id t.ulr.results = some r → exec (.ecallExecWait core slot) s =
          answers { t with ulr := { t.ulr with results := mdel id t.ulr.results } } (u.dropExec id) r.status [min r.dropped (2 ^ 36 - 1), r.handle, r.bytes]) ∧
        (id ∈ v.execs → mget id t.ulr.results = none → exec (.ecallExecWait core slot) s = parks (.exec id))) ∧
      (s.issues core slot (.ecallDigest core slot) t u → ∀ b k,
        let w := (u.greg 1).toNat
        let h := (u.greg 2).toNat
        w < 2 ^ 11 → w % 4 ≠ 3 → t.ecallRead core u (u.greg 3).toNat (u.greg 4).toNat = .ok b → k = 16 * engineOf core + h % 16 →
        w / 512 % 4 = 2 → (t.dctx k).owner = .thread core slot → t.rg .DGE_CTL_camp k = v.camp → t.rg .DGE_STAT_state k = 2 → (t.dctx k).gen = h / 16 % 16 → (t.dctx k).finish = false →
        exec (.ecallDigest core slot) s = answers (t.digestData k b) u 0 [0]) ∧
      (s.issues core slot (.ecallRetain core slot) t u → ∀ b, t.ecallRead core u (u.greg 2).toNat (min (u.greg 3).toNat (t.storeCapacity v.camp + 1)) = .ok b →
        let r : Record := ⟨0, v.service, true, v.number, (u.greg 1).toNat % 2 ^ 14, v.start, t.devtime, 0, 0, 0, if b.isEmpty then [] else [⟨b, 0, false⟩]⟩
        exec (.ecallRetain core slot) s = if t.storeFree v.camp < r.size then answers (t.loseRecord v.camp) u stRetainFull [] else answers (t.addRecord v.camp r) u 0 [(mgetD Store.empty v.camp t.records).next]) ∧
      (s.issues core slot (.ecallHandler core slot) t u → let a := (u.greg 1).toNat
        (a = 0 → exec (.ecallHandler core slot) s = answers t { u with inv := some { v with handler := 0 } } 0 []) ∧
        (∀ p, a ≠ 0 → a < 2 ^ 32 → u.aperture a 9 .fetch false = .ok p → exec (.ecallHandler core slot) s = answers t { u with inv := some { v with handler := a } } 0 []) ∧
        (2 ^ 32 ≤ a → exec (.ecallHandler core slot) s = answers t u stInvalidField []))))

/-- (R431, R432, Table 13-9) A management core that may take its committed request takes it: two entries are pushed, the source and the priority go to ULR_ISRC, ipl becomes p + 1, control goes to the handler, and the request is gone. While ie is 0, exc is 1, the boundary lies before a slot or the priority is no higher than ipl, the request waits. Entries past the limit are device-fatal. -/
def Obligations.UliarEventRequests : Prop :=
∀ (s : State) (i : Nat) (q : CoreReq), i < 4 → s.coreRuns (128 + i) = true → mhas (ctxKey (128 + i) 0) s.ulr.ctxs = true → mget i s.io.reqs = some q →
    let u := s.uctx (ctxKey (128 + i) 0)
    let st := u.creg 0
    let may : Prop := st / 8 % 2 = 1 ∧ st / 4 % 2 = 0 ∧ u.xfer = none ∧ st / 16 % 32 < q.priority + 1
    (¬ may → exec (.eventRequestTake i) s = .next s) ∧
    (may → u.creg 0x0B < u.creg 0x0A + 2 → exec (.eventRequestTake i) s = .next (s.halt 9 0x0E (128 + i) 0 0)) ∧
    (may → u.creg 0x0A + 2 ≤ u.creg 0x0B → q.priority < 16 → q.source < 512 → ∃ (t : State) (v : UCtx), exec (.eventRequestTake i) s = .next t ∧ t.uctx (ctxKey (128 + i) 0) = v ∧ mget i t.io.reqs = none ∧
      v.pos = ⟨q.handler % 2 ^ 36, false⟩ ∧ v.waiting = false ∧ v.creg 0x0A = u.creg 0x0A + 2 ∧ v.creg 0x0C = q.source + 512 * q.priority + 8192 ∧
      v.creg 0 / 16 % 32 = q.priority + 1 ∧ v.creg 0 % 16 = st % 16 ∧ v.g = u.g ∧ v.f = u.f ∧
      v.rcache.take 2 = [rsEntry (st % 512 + 512 * (u.creg 0x0C % 2 ^ 14)) false 2, rsEntry u.pos.word u.pos.half 1])

/-- (R415, R416, Tables 14-3, 14-4 and 14-7) Decoding and the codes of the Uliar commands agree. Where a command's code stands, the word decodes to that command, every operand as it was; and a word that is no illegal code decodes to a command whose code stands there, but for a call of a number that Table 14-7 does not list; an illegal one decodes to ILLEGAL. What firmware chooses for a call (log 53) is no bit of the word. -/
def Obligations.UliarDecode : Prop :=
(∀ (core slot : Nat) (i : Instr) (c : Code) (w : BitVec 36) (second : Bool), uCode i = some (core, slot, c) → c.stands w second = true →
    uDecode core slot (uChosen i).1 (uChosen i).2 w second = i) ∧
  (∀ (core slot da : Nat) (homes : List Nat) (w : BitVec 36) (second : Bool),
    (isIllegal w second = true → uDecode core slot da homes w second = .uIllegal core slot) ∧
    (isIllegal w second = false → let h := (halfOf w second).toNat
      (h / 4096 = 0x2D → h % 256 ∈ [1, 2, 3, 4, 5, 6, 7, 8, 9]) → ∃ c, uCode (uDecode core slot da homes w second) = some (core, slot, c) ∧ c.stands w second = true))

/-- (R500, Table 16-2) The modes with no running engine are left only as the rules say: HALTED ends only at a RESET_N or power-good low that is long enough, or at HALT_RESTART, and RESET only at its end. -/
def Obligations.ModesWithoutEngines : Prop :=
∀ (s t : State) (c : Instr) (rest : List Instr), s.pending = c :: rest → step s = .next t →
    (s.mode = .halted → t.mode = .halted ∨ (t.mode = .boot ∧ ∃ b, c = .haltRestart b) ∨
      (t.mode = .reset ∧ ∃ n, (4 ≤ n ∧ c = .resetNAssert n) ∨ (2 ≤ n ∧ (c = .pwrgdAonDeassert n ∨ c = .pwrgdMainDeassert n)))) ∧
    (s.mode = .reset → t.mode = .reset ∨ (t.mode = .boot ∧ ∃ n k d, c = .endOfReset n k d))

/-- (R5) Device memory, read and written by bytes at an even DA and, by a management core, by digits: what is written reads back, everything else stays, and each write keeps the one form of memory, which the memory after reset has. -/
def Obligations.DeviceMemory : Prop :=
(∀ (s : State) (da : Nat) (b : Bytes), (s.memPut da b).memGet da b.length = b ∧
    (∀ da' n, da' / 2 + n ≤ da / 2 ∨ da / 2 + b.length ≤ da' / 2 → (s.memPut da b).memGet da' n = s.memGet da' n)) ∧
  (∀ (s : State) (core pa : Nat) (d : Digit), 128 ≤ core → (s.digitPut core pa d).digitAt core pa = d ∧ (∀ pb, pb ≠ pa → (s.digitPut core pa d).digitAt core pb = s.digitAt core pb)) ∧
  (∀ (s : State) (da : Nat) (b : Bytes) (core : Nat) (d : Digit), Memory.wf s.m.mem = true → Memory.wf (s.memPut da b).m.mem = true ∧ Memory.wf (s.digitPut core da d).m.mem = true ∧ Memory.wf (s.wipe da b.length).m.mem = true) ∧
  Memory.wf State.reset.m.mem = true
end

