-- ==== Sys2Proof/Laws/Map.lean ====
section
/-! SUPPORT. Sparse maps: what a put, a removal and a get do, and that the canonical form is kept. -/

namespace Sys2Proof.Machine

variable {α : Type}

theorem mwfFrom_mono {lo hi : Nat} (h : lo ≤ hi) : ∀ {m : Map α}, mwfFrom hi m = true → mwfFrom lo m = true
  | [], _ => rfl
  | (j, v) :: m, hw => by
    simp only [mwfFrom, Bool.and_eq_true, decide_eq_true_eq] at hw ⊢
    exact ⟨by omega, hw.2⟩

/-- A get below every key finds nothing. -/
theorem mget_lt {k : Nat} : ∀ {lo : Nat} {m : Map α}, mwfFrom lo m = true → k < lo → mget k m = none
  | _, [], _, _ => rfl
  | lo, (j, v) :: m, hw, hk => by
    simp only [mwfFrom, Bool.and_eq_true, decide_eq_true_eq] at hw
    have hj : j ≠ k := by omega
    simp only [mget, hj, if_false]
    exact mget_lt hw.2 (by omega)

theorem mwfFrom_mput {k lo : Nat} (v : α) (h : lo ≤ k) : ∀ {m : Map α}, mwfFrom lo m = true → mwfFrom lo (mput k v m) = true
  | [], _ => by simp [mput, mwfFrom, h]
  | (j, w) :: m, hw => by
    simp only [mwfFrom, Bool.and_eq_true, decide_eq_true_eq] at hw
    unfold mput
    split
    · simp only [mwfFrom, Bool.and_eq_true, decide_eq_true_eq]; exact ⟨h, by omega, hw.2⟩
    · split
      · subst_vars; simp only [mwfFrom, Bool.and_eq_true, decide_eq_true_eq]; exact ⟨h, hw.2⟩
      · simp only [mwfFrom, Bool.and_eq_true, decide_eq_true_eq]
        exact ⟨hw.1, mwfFrom_mput v (by omega) hw.2⟩

theorem mwfFrom_mdel {k : Nat} : ∀ {lo : Nat} {m : Map α}, mwfFrom lo m = true → mwfFrom lo (mdel k m) = true
  | _, [], _ => rfl
  | lo, (j, w) :: m, hw => by
    simp only [mwfFrom, Bool.and_eq_true, decide_eq_true_eq] at hw
    unfold mdel
    split
    · exact mwfFrom_mono (by omega) (mwfFrom_mdel hw.2)
    · simp only [mwfFrom, Bool.and_eq_true, decide_eq_true_eq]; exact ⟨hw.1, mwfFrom_mdel hw.2⟩

theorem mwf_mput {k : Nat} (v : α) {m : Map α} (h : mwf m = true) : mwf (mput k v m) = true := mwfFrom_mput v (Nat.zero_le k) h

theorem mwf_mputD [DecidableEq α] {k : Nat} (d v : α) {m : Map α} (h : mwf m = true) : mwf (mputD d k v m) = true := by
  unfold mputD
  split
  · exact mwfFrom_mdel h
  · exact mwf_mput v h

@[simp] theorem mget_mput_self (k : Nat) (v : α) : ∀ m : Map α, mget k (mput k v m) = some v
  | [] => by simp [mput, mget]
  | (j, w) :: m => by
    unfold mput
    split
    · simp [mget]
    · split
      · simp [mget]
      · have hj : j ≠ k := by omega
        simp [mget, hj, mget_mput_self k v m]

theorem mget_mput_ne {k j : Nat} (v : α) (h : j ≠ k) : ∀ m : Map α, mget j (mput k v m) = mget j m
  | [] => by simp [mput, mget, Ne.symm h]
  | (i, w) :: m => by
    unfold mput
    split
    · simp [mget, Ne.symm h]
    · split
      · subst_vars; simp [mget, Ne.symm h]
      · simp only [mget]; split
        · rfl
        · exact mget_mput_ne v h m

@[simp] theorem mget_mdel_self (k : Nat) : ∀ m : Map α, mget k (mdel k m) = none
  | [] => rfl
  | (j, w) :: m => by
    unfold mdel
    split
    · exact mget_mdel_self k m
    · simp only [mget]; rename_i h; simp [h, mget_mdel_self k m]

theorem mget_mdel_ne {k j : Nat} (h : j ≠ k) : ∀ m : Map α, mget j (mdel k m) = mget j m
  | [] => rfl
  | (i, w) :: m => by
    unfold mdel
    split
    · subst_vars; rw [mget_mdel_ne h m]; simp [mget, Ne.symm h]
    · simp only [mget]; split
      · rfl
      · exact mget_mdel_ne h m

/-- A put under a default reads back as what was put. -/
theorem mgetD_mputD_self [DecidableEq α] (d v : α) (k : Nat) (m : Map α) : mgetD d k (mputD d k v m) = v := by
  unfold mgetD mputD
  split
  · subst_vars; simp
  · simp

theorem mgetD_mputD_ne [DecidableEq α] {k j : Nat} (d v : α) (h : j ≠ k) (m : Map α) : mgetD d j (mputD d k v m) = mgetD d j m := by
  unfold mgetD mputD
  split
  · rw [mget_mdel_ne h]
  · rw [mget_mput_ne v h]

end Sys2Proof.Machine
end

