-- ==== Sys2Proof/Laws/State.lean ====
section
/-! SUPPORT. What each basic update of the state leaves in each field. -/

namespace Sys2Proof.Machine

/-- What each update of a fold leaves unchanged, the fold leaves unchanged. -/
theorem foldl_keep {β γ : Type} (f : State → γ) (g : State → β → State) (h : ∀ s b, f (g s b) = f s) :
    ∀ (l : List β) (s : State), f (l.foldl g s) = f s
  | [], _ => rfl
  | b :: l, s => (foldl_keep f g h l (g s b)).trans (h s b)

variable (s : State)

@[simp] theorem State.rs_pending (f : Fld) (i v : Nat) : (s.rs f i v).pending = s.pending := rfl
@[simp] theorem State.rs_h256 (f : Fld) (i v : Nat) : (s.rs f i v).h256 = s.h256 := rfl
@[simp] theorem State.rs_mode (f : Fld) (i v : Nat) : (s.rs f i v).mode = s.mode := rfl
@[simp] theorem State.rs_ticks (f : Fld) (i v : Nat) : (s.rs f i v).ticks = s.ticks := rfl
@[simp] theorem State.rs_devtime (f : Fld) (i v : Nat) : (s.rs f i v).devtime = s.devtime := rfl
@[simp] theorem State.rs_pins (f : Fld) (i v : Nat) : (s.rs f i v).pins = s.pins := rfl
@[simp] theorem State.rs_regs (f : Fld) (i v : Nat) : (s.rs f i v).regs = s.regs.set f i v := rfl
@[simp] theorem State.rs_host (f : Fld) (i v : Nat) : (s.rs f i v).host = s.host := rfl
@[simp] theorem State.rs_m (f : Fld) (i v : Nat) : (s.rs f i v).m = s.m := rfl
@[simp] theorem State.rs_io (f : Fld) (i v : Nat) : (s.rs f i v).io = s.io := rfl
@[simp] theorem State.rs_log (f : Fld) (i v : Nat) : (s.rs f i v).log = s.log := rfl
@[simp] theorem State.rs_camps (f : Fld) (i v : Nat) : (s.rs f i v).camps = s.camps := rfl
@[simp] theorem State.rs_dies (f : Fld) (i v : Nat) : (s.rs f i v).dies = s.dies := rfl
@[simp] theorem State.rs_power (f : Fld) (i v : Nat) : (s.rs f i v).power = s.power := rfl
@[simp] theorem State.rs_execs (f : Fld) (i v : Nat) : (s.rs f i v).execs = s.execs := rfl
@[simp] theorem State.rs_rationNext (f : Fld) (i v : Nat) : (s.rs f i v).rationNext = s.rationNext := rfl
@[simp] theorem State.rs_records (f : Fld) (i v : Nat) : (s.rs f i v).records = s.records := rfl
@[simp] theorem State.rs_traceSeq (f : Fld) (i v : Nat) : (s.rs f i v).traceSeq = s.traceSeq := rfl
@[simp] theorem State.rs_out (f : Fld) (i v : Nat) : (s.rs f i v).out = s.out := rfl
@[simp] theorem State.rs_draws (f : Fld) (i v : Nat) : (s.rs f i v).draws = s.draws := rfl
@[simp] theorem State.rs_trust (f : Fld) (i v : Nat) : (s.rs f i v).trust = s.trust := rfl
@[simp] theorem State.rs_plans (f : Fld) (i v : Nat) : (s.rs f i v).plans = s.plans := rfl
@[simp] theorem State.rs_run (f : Fld) (i v : Nat) : (s.rs f i v).run = s.run := rfl
@[simp] theorem State.rs_ulr (f : Fld) (i v : Nat) : (s.rs f i v).ulr = s.ulr := rfl
@[simp] theorem State.ra_pending (f : Fld) (i n : Nat) : (s.ra f i n).pending = s.pending := rfl
@[simp] theorem State.ra_h256 (f : Fld) (i n : Nat) : (s.ra f i n).h256 = s.h256 := rfl
@[simp] theorem State.ra_mode (f : Fld) (i n : Nat) : (s.ra f i n).mode = s.mode := rfl
@[simp] theorem State.ra_ticks (f : Fld) (i n : Nat) : (s.ra f i n).ticks = s.ticks := rfl
@[simp] theorem State.ra_devtime (f : Fld) (i n : Nat) : (s.ra f i n).devtime = s.devtime := rfl
@[simp] theorem State.ra_pins (f : Fld) (i n : Nat) : (s.ra f i n).pins = s.pins := rfl
@[simp] theorem State.ra_regs (f : Fld) (i n : Nat) : (s.ra f i n).regs = s.regs.add f i n := rfl
@[simp] theorem State.ra_host (f : Fld) (i n : Nat) : (s.ra f i n).host = s.host := rfl
@[simp] theorem State.ra_m (f : Fld) (i n : Nat) : (s.ra f i n).m = s.m := rfl
@[simp] theorem State.ra_io (f : Fld) (i n : Nat) : (s.ra f i n).io = s.io := rfl
@[simp] theorem State.ra_log (f : Fld) (i n : Nat) : (s.ra f i n).log = s.log := rfl
@[simp] theorem State.ra_camps (f : Fld) (i n : Nat) : (s.ra f i n).camps = s.camps := rfl
@[simp] theorem State.ra_dies (f : Fld) (i n : Nat) : (s.ra f i n).dies = s.dies := rfl
@[simp] theorem State.ra_power (f : Fld) (i n : Nat) : (s.ra f i n).power = s.power := rfl
@[simp] theorem State.ra_execs (f : Fld) (i n : Nat) : (s.ra f i n).execs = s.execs := rfl
@[simp] theorem State.ra_rationNext (f : Fld) (i n : Nat) : (s.ra f i n).rationNext = s.rationNext := rfl
@[simp] theorem State.ra_records (f : Fld) (i n : Nat) : (s.ra f i n).records = s.records := rfl
@[simp] theorem State.ra_traceSeq (f : Fld) (i n : Nat) : (s.ra f i n).traceSeq = s.traceSeq := rfl
@[simp] theorem State.ra_out (f : Fld) (i n : Nat) : (s.ra f i n).out = s.out := rfl
@[simp] theorem State.ra_draws (f : Fld) (i n : Nat) : (s.ra f i n).draws = s.draws := rfl
@[simp] theorem State.ra_trust (f : Fld) (i n : Nat) : (s.ra f i n).trust = s.trust := rfl
@[simp] theorem State.ra_plans (f : Fld) (i n : Nat) : (s.ra f i n).plans = s.plans := rfl
@[simp] theorem State.ra_run (f : Fld) (i n : Nat) : (s.ra f i n).run = s.run := rfl
@[simp] theorem State.ra_ulr (f : Fld) (i n : Nat) : (s.ra f i n).ulr = s.ulr := rfl
@[simp] theorem State.emit_pending (o : Out) : (s.emit o).pending = s.pending := rfl
@[simp] theorem State.emit_h256 (o : Out) : (s.emit o).h256 = s.h256 := rfl
@[simp] theorem State.emit_mode (o : Out) : (s.emit o).mode = s.mode := rfl
@[simp] theorem State.emit_ticks (o : Out) : (s.emit o).ticks = s.ticks := rfl
@[simp] theorem State.emit_devtime (o : Out) : (s.emit o).devtime = s.devtime := rfl
@[simp] theorem State.emit_pins (o : Out) : (s.emit o).pins = s.pins := rfl
@[simp] theorem State.emit_regs (o : Out) : (s.emit o).regs = s.regs := rfl
@[simp] theorem State.emit_host (o : Out) : (s.emit o).host = s.host := rfl
@[simp] theorem State.emit_m (o : Out) : (s.emit o).m = s.m := rfl
@[simp] theorem State.emit_io (o : Out) : (s.emit o).io = s.io := rfl
@[simp] theorem State.emit_log (o : Out) : (s.emit o).log = s.log := rfl
@[simp] theorem State.emit_camps (o : Out) : (s.emit o).camps = s.camps := rfl
@[simp] theorem State.emit_dies (o : Out) : (s.emit o).dies = s.dies := rfl
@[simp] theorem State.emit_power (o : Out) : (s.emit o).power = s.power := rfl
@[simp] theorem State.emit_execs (o : Out) : (s.emit o).execs = s.execs := rfl
@[simp] theorem State.emit_rationNext (o : Out) : (s.emit o).rationNext = s.rationNext := rfl
@[simp] theorem State.emit_records (o : Out) : (s.emit o).records = s.records := rfl
@[simp] theorem State.emit_traceSeq (o : Out) : (s.emit o).traceSeq = s.traceSeq := rfl
@[simp] theorem State.emit_out (o : Out) : (s.emit o).out = s.out ++ [o] := rfl
@[simp] theorem State.emit_draws (o : Out) : (s.emit o).draws = s.draws := rfl
@[simp] theorem State.emit_trust (o : Out) : (s.emit o).trust = s.trust := rfl
@[simp] theorem State.emit_plans (o : Out) : (s.emit o).plans = s.plans := rfl
@[simp] theorem State.emit_run (o : Out) : (s.emit o).run = s.run := rfl
@[simp] theorem State.emit_ulr (o : Out) : (s.emit o).ulr = s.ulr := rfl
@[simp] theorem State.emits_pending (o : List Out) : (s.emits o).pending = s.pending := rfl
@[simp] theorem State.emits_h256 (o : List Out) : (s.emits o).h256 = s.h256 := rfl
@[simp] theorem State.emits_mode (o : List Out) : (s.emits o).mode = s.mode := rfl
@[simp] theorem State.emits_ticks (o : List Out) : (s.emits o).ticks = s.ticks := rfl
@[simp] theorem State.emits_devtime (o : List Out) : (s.emits o).devtime = s.devtime := rfl
@[simp] theorem State.emits_pins (o : List Out) : (s.emits o).pins = s.pins := rfl
@[simp] theorem State.emits_regs (o : List Out) : (s.emits o).regs = s.regs := rfl
@[simp] theorem State.emits_host (o : List Out) : (s.emits o).host = s.host := rfl
@[simp] theorem State.emits_m (o : List Out) : (s.emits o).m = s.m := rfl
@[simp] theorem State.emits_io (o : List Out) : (s.emits o).io = s.io := rfl
@[simp] theorem State.emits_log (o : List Out) : (s.emits o).log = s.log := rfl
@[simp] theorem State.emits_camps (o : List Out) : (s.emits o).camps = s.camps := rfl
@[simp] theorem State.emits_dies (o : List Out) : (s.emits o).dies = s.dies := rfl
@[simp] theorem State.emits_power (o : List Out) : (s.emits o).power = s.power := rfl
@[simp] theorem State.emits_execs (o : List Out) : (s.emits o).execs = s.execs := rfl
@[simp] theorem State.emits_rationNext (o : List Out) : (s.emits o).rationNext = s.rationNext := rfl
@[simp] theorem State.emits_records (o : List Out) : (s.emits o).records = s.records := rfl
@[simp] theorem State.emits_traceSeq (o : List Out) : (s.emits o).traceSeq = s.traceSeq := rfl
@[simp] theorem State.emits_out (o : List Out) : (s.emits o).out = s.out ++ o := rfl
@[simp] theorem State.emits_draws (o : List Out) : (s.emits o).draws = s.draws := rfl
@[simp] theorem State.emits_trust (o : List Out) : (s.emits o).trust = s.trust := rfl
@[simp] theorem State.emits_plans (o : List Out) : (s.emits o).plans = s.plans := rfl
@[simp] theorem State.emits_run (o : List Out) : (s.emits o).run = s.run := rfl
@[simp] theorem State.emits_ulr (o : List Out) : (s.emits o).ulr = s.ulr := rfl
@[simp] theorem State.advance_pending (dt : Nat) : (s.advance dt).pending = s.pending := rfl
@[simp] theorem State.advance_h256 (dt : Nat) : (s.advance dt).h256 = s.h256 := rfl
@[simp] theorem State.advance_mode (dt : Nat) : (s.advance dt).mode = s.mode := rfl
@[simp] theorem State.advance_pins (dt : Nat) : (s.advance dt).pins = s.pins := rfl
@[simp] theorem State.advance_regs (dt : Nat) : (s.advance dt).regs = s.regs := rfl
@[simp] theorem State.advance_host (dt : Nat) : (s.advance dt).host = s.host := rfl
@[simp] theorem State.advance_m (dt : Nat) : (s.advance dt).m = s.m := rfl
@[simp] theorem State.advance_io (dt : Nat) : (s.advance dt).io = s.io := rfl
@[simp] theorem State.advance_log (dt : Nat) : (s.advance dt).log = s.log := rfl
@[simp] theorem State.advance_camps (dt : Nat) : (s.advance dt).camps = s.camps := rfl
@[simp] theorem State.advance_dies (dt : Nat) : (s.advance dt).dies = s.dies := rfl
@[simp] theorem State.advance_power (dt : Nat) : (s.advance dt).power = s.power := rfl
@[simp] theorem State.advance_execs (dt : Nat) : (s.advance dt).execs = s.execs := rfl
@[simp] theorem State.advance_rationNext (dt : Nat) : (s.advance dt).rationNext = s.rationNext := rfl
@[simp] theorem State.advance_records (dt : Nat) : (s.advance dt).records = s.records := rfl
@[simp] theorem State.advance_traceSeq (dt : Nat) : (s.advance dt).traceSeq = s.traceSeq := rfl
@[simp] theorem State.advance_out (dt : Nat) : (s.advance dt).out = s.out := rfl
@[simp] theorem State.advance_draws (dt : Nat) : (s.advance dt).draws = s.draws := rfl
@[simp] theorem State.advance_trust (dt : Nat) : (s.advance dt).trust = s.trust := rfl
@[simp] theorem State.advance_plans (dt : Nat) : (s.advance dt).plans = s.plans := rfl
@[simp] theorem State.advance_run (dt : Nat) : (s.advance dt).run = s.run := rfl
@[simp] theorem State.advance_ulr (dt : Nat) : (s.advance dt).ulr = s.ulr := rfl
@[simp] theorem State.draw_snd_pending  : (s.draw.2).pending = s.pending := rfl
@[simp] theorem State.draw_snd_h256  : (s.draw.2).h256 = s.h256 := rfl
@[simp] theorem State.draw_snd_mode  : (s.draw.2).mode = s.mode := rfl
@[simp] theorem State.draw_snd_ticks  : (s.draw.2).ticks = s.ticks := rfl
@[simp] theorem State.draw_snd_devtime  : (s.draw.2).devtime = s.devtime := rfl
@[simp] theorem State.draw_snd_pins  : (s.draw.2).pins = s.pins := rfl
@[simp] theorem State.draw_snd_regs  : (s.draw.2).regs = s.regs := rfl
@[simp] theorem State.draw_snd_host  : (s.draw.2).host = s.host := rfl
@[simp] theorem State.draw_snd_m  : (s.draw.2).m = s.m := rfl
@[simp] theorem State.draw_snd_io  : (s.draw.2).io = s.io := rfl
@[simp] theorem State.draw_snd_log  : (s.draw.2).log = s.log := rfl
@[simp] theorem State.draw_snd_camps  : (s.draw.2).camps = s.camps := rfl
@[simp] theorem State.draw_snd_dies  : (s.draw.2).dies = s.dies := rfl
@[simp] theorem State.draw_snd_power  : (s.draw.2).power = s.power := rfl
@[simp] theorem State.draw_snd_execs  : (s.draw.2).execs = s.execs := rfl
@[simp] theorem State.draw_snd_rationNext  : (s.draw.2).rationNext = s.rationNext := rfl
@[simp] theorem State.draw_snd_records  : (s.draw.2).records = s.records := rfl
@[simp] theorem State.draw_snd_traceSeq  : (s.draw.2).traceSeq = s.traceSeq := rfl
@[simp] theorem State.draw_snd_out  : (s.draw.2).out = s.out := rfl
@[simp] theorem State.draw_snd_draws  : (s.draw.2).draws = s.draws + 1 := rfl
@[simp] theorem State.draw_snd_trust  : (s.draw.2).trust = s.trust := rfl
@[simp] theorem State.draw_snd_plans  : (s.draw.2).plans = s.plans := rfl
@[simp] theorem State.draw_snd_run  : (s.draw.2).run = s.run := rfl
@[simp] theorem State.draw_snd_ulr  : (s.draw.2).ulr = s.ulr := rfl
@[simp] theorem State.memPut_pending (da : Nat) (b : List Byte) : (s.memPut da b).pending = s.pending := rfl
@[simp] theorem State.memPut_h256 (da : Nat) (b : List Byte) : (s.memPut da b).h256 = s.h256 := rfl
@[simp] theorem State.memPut_mode (da : Nat) (b : List Byte) : (s.memPut da b).mode = s.mode := rfl
@[simp] theorem State.memPut_ticks (da : Nat) (b : List Byte) : (s.memPut da b).ticks = s.ticks := rfl
@[simp] theorem State.memPut_devtime (da : Nat) (b : List Byte) : (s.memPut da b).devtime = s.devtime := rfl
@[simp] theorem State.memPut_pins (da : Nat) (b : List Byte) : (s.memPut da b).pins = s.pins := rfl
@[simp] theorem State.memPut_regs (da : Nat) (b : List Byte) : (s.memPut da b).regs = s.regs := rfl
@[simp] theorem State.memPut_host (da : Nat) (b : List Byte) : (s.memPut da b).host = s.host := rfl
@[simp] theorem State.memPut_io (da : Nat) (b : List Byte) : (s.memPut da b).io = s.io := rfl
@[simp] theorem State.memPut_log (da : Nat) (b : List Byte) : (s.memPut da b).log = s.log := rfl
@[simp] theorem State.memPut_camps (da : Nat) (b : List Byte) : (s.memPut da b).camps = s.camps := rfl
@[simp] theorem State.memPut_dies (da : Nat) (b : List Byte) : (s.memPut da b).dies = s.dies := rfl
@[simp] theorem State.memPut_power (da : Nat) (b : List Byte) : (s.memPut da b).power = s.power := rfl
@[simp] theorem State.memPut_execs (da : Nat) (b : List Byte) : (s.memPut da b).execs = s.execs := rfl
@[simp] theorem State.memPut_rationNext (da : Nat) (b : List Byte) : (s.memPut da b).rationNext = s.rationNext := rfl
@[simp] theorem State.memPut_records (da : Nat) (b : List Byte) : (s.memPut da b).records = s.records := rfl
@[simp] theorem State.memPut_traceSeq (da : Nat) (b : List Byte) : (s.memPut da b).traceSeq = s.traceSeq := rfl
@[simp] theorem State.memPut_out (da : Nat) (b : List Byte) : (s.memPut da b).out = s.out := rfl
@[simp] theorem State.memPut_draws (da : Nat) (b : List Byte) : (s.memPut da b).draws = s.draws := rfl
@[simp] theorem State.memPut_trust (da : Nat) (b : List Byte) : (s.memPut da b).trust = s.trust := rfl
@[simp] theorem State.memPut_plans (da : Nat) (b : List Byte) : (s.memPut da b).plans = s.plans := rfl
@[simp] theorem State.memPut_run (da : Nat) (b : List Byte) : (s.memPut da b).run = s.run := rfl
@[simp] theorem State.memPut_ulr (da : Nat) (b : List Byte) : (s.memPut da b).ulr = s.ulr := rfl
@[simp] theorem State.advance_ticks (dt : Nat) : (s.advance dt).ticks = s.ticks + dt := rfl
@[simp] theorem State.advance_devtime (dt : Nat) : (s.advance dt).devtime = s.devtime + BitVec.ofNat 64 (40 * dt) := rfl
@[simp] theorem State.draw_fst : s.draw.1 = s.draws := rfl
@[simp] theorem State.memPut_mem (da : Nat) (b : List Byte) : (s.memPut da b).m.mem = memWrite s.m.mem (da / 2) b := rfl

end Sys2Proof.Machine
end

