-- ==== Sys2Proof/Laws/Registers.lean ====
section
/-! SUPPORT. The register file: keys do not collide, and a field written reads back while every other field keeps its value. -/

namespace Sys2Proof.Machine

/-- Block and number of a register as one number. -/
def Reg.code (r : Reg) : Nat := r.block * 64 + r.num

theorem Reg.find_code (r : Reg) : Reg.all.find? (fun q => q.code == r.code) = some r := by
  cases r <;> rfl

theorem Reg.code_inj {r q : Reg} (h : r.code = q.code) : r = q := by
  have h1 := Reg.find_code r
  rw [h, Reg.find_code q] at h1
  exact (Option.some.inj h1).symm

theorem Reg.key_eq (r : Reg) (i : Nat) : r.key i = r.code * 0x4000 + i := by unfold Reg.key Reg.code; omega

/-- Two registers' indices have different keys, and so have two indices of one register. -/
theorem Reg.key_ne {r q : Reg} {i j : Nat} (hi : i < 0x4000) (hj : j < 0x4000) (h : r ≠ q ∨ i ≠ j) : r.key i ≠ q.key j := by
  intro e
  rw [Reg.key_eq, Reg.key_eq] at e
  rcases h with h | h
  · exact h (Reg.code_inj (by omega))
  · omega

@[simp] theorem RegFile.raw_setRaw (m : RegFile) (r : Reg) (i : Nat) (v : BitVec 64) : (m.setRaw r i v).raw r i = v :=
  mgetD_mputD_self _ _ _ _

theorem RegFile.raw_setRaw_ne (m : RegFile) {r q : Reg} {i j : Nat} (v : BitVec 64) (h : q.key j ≠ r.key i) :
    (m.setRaw r i v).raw q j = m.raw q j := by
  unfold RegFile.raw RegFile.setRaw mgetD mputD
  split
  · rw [mget_mdel_ne h]
  · rw [mget_mput_ne _ h]

theorem split_field (a L W : Nat) : a = a / (L * W) * (L * W) + a / L % W * L + a % L := by
  have h1 := Nat.div_add_mod a L
  have h2 := Nat.div_add_mod (a / L) W
  rw [Nat.div_div_eq_div_mul] at h2
  generalize a / (L * W) = q at *
  generalize a / L % W = m at *
  generalize a % L = t at *
  rw [← h2] at h1
  rw [← h1]
  simp only [Nat.mul_add]
  rw [Nat.mul_comm L m, ← Nat.mul_assoc L W q, Nat.mul_comm (L * W) q]

/-- A field's new value in its place, the bits above and below kept. -/
theorem Fld.place_toNat (f : Fld) (h : f.lo + f.w ≤ 64) (old : BitVec 64) (v : Nat) :
    (f.place old v).toNat = old.toNat / (2 ^ f.lo * 2 ^ f.w) * (2 ^ f.lo * 2 ^ f.w) + v % 2 ^ f.w * 2 ^ f.lo + old.toNat % 2 ^ f.lo := by
  have hs := split_field old.toNat (2 ^ f.lo) (2 ^ f.w)
  have hL : 0 < 2 ^ f.lo := Nat.two_pow_pos _
  have hv : v % 2 ^ f.w < 2 ^ f.w := Nat.mod_lt _ (Nat.two_pow_pos _)
  have hb : old.toNat < 2 ^ 64 := old.isLt
  have ht : old.toNat % 2 ^ f.lo < 2 ^ f.lo := Nat.mod_lt _ hL
  have hq : old.toNat / (2 ^ f.lo * 2 ^ f.w) < 2 ^ (64 - f.lo - f.w) := by
    rw [Nat.div_lt_iff_lt_mul (by positivity), ← Nat.pow_add, ← Nat.pow_add]
    rwa [show 64 - f.lo - f.w + (f.lo + f.w) = 64 by omega]
  have hp : 2 ^ (64 - f.lo - f.w) * (2 ^ f.lo * 2 ^ f.w) = 2 ^ 64 := by
    rw [← Nat.pow_add, ← Nat.pow_add, show 64 - f.lo - f.w + (f.lo + f.w) = 64 by omega]
  unfold Fld.place
  rw [BitVec.toNat_ofNat]
  generalize old.toNat / (2 ^ f.lo * 2 ^ f.w) = q at *
  generalize old.toNat / 2 ^ f.lo % 2 ^ f.w = m at *
  generalize old.toNat % 2 ^ f.lo = t at *
  generalize v % 2 ^ f.w = v' at *
  generalize hWL : 2 ^ f.lo = L at *
  generalize 2 ^ f.w = W at *
  generalize 2 ^ (64 - f.lo - f.w) = Q at *
  have e : old.toNat - m * L + v' * L = q * (L * W) + v' * L + t := by omega
  rw [e]
  apply Nat.mod_eq_of_lt
  have h1 : (q + 1) * (L * W) ≤ Q * (L * W) := Nat.mul_le_mul_right _ hq
  have h2 : (v' + 1) * L ≤ W * L := Nat.mul_le_mul_right _ hv
  rw [Nat.add_mul] at h1 h2
  rw [Nat.mul_comm W L] at h2
  omega

/-- A field reads back what was written, modulo its width. -/
theorem RegFile.get_set (m : RegFile) (f : Fld) (i v : Nat) (h : f.lo + f.w ≤ 64) : (m.set f i v).get f i = v % 2 ^ f.w := by
  unfold RegFile.get RegFile.set
  rw [RegFile.raw_setRaw, Fld.place_toNat f h]
  have hL : 0 < 2 ^ f.lo := Nat.two_pow_pos _
  have hv : v % 2 ^ f.w < 2 ^ f.w := Nat.mod_lt _ (Nat.two_pow_pos _)
  generalize (m.raw f.reg i).toNat / (2 ^ f.lo * 2 ^ f.w) = q
  have ht : (m.raw f.reg i).toNat % 2 ^ f.lo < 2 ^ f.lo := Nat.mod_lt _ hL
  generalize (m.raw f.reg i).toNat % 2 ^ f.lo = t at *
  generalize v % 2 ^ f.w = v' at *
  have e : q * (2 ^ f.lo * 2 ^ f.w) + v' * 2 ^ f.lo + t = 2 ^ f.lo * (2 ^ f.w * q + v') + t := by ring
  rw [e, Nat.mul_add_div hL, Nat.div_eq_of_lt ht, Nat.add_zero, Nat.mul_add_mod, Nat.mod_eq_of_lt hv]

/-- A field of the same register and index that shares no bit with the written one keeps its value. -/
theorem RegFile.get_set_field (m : RegFile) (f g : Fld) (i v : Nat) (h : f.lo + f.w ≤ 64) (hr : g.reg = f.reg)
    (hd : g.lo + g.w ≤ f.lo ∨ f.lo + f.w ≤ g.lo) : (m.set f i v).get g i = m.get g i := by
  unfold RegFile.get RegFile.set
  rw [hr, RegFile.raw_setRaw, Fld.place_toNat f h]
  have hs := split_field (m.raw f.reg i).toNat (2 ^ f.lo) (2 ^ f.w)
  have hL : 0 < 2 ^ f.lo := Nat.two_pow_pos _
  have hv : v % 2 ^ f.w < 2 ^ f.w := Nat.mod_lt _ (Nat.two_pow_pos _)
  have ht : (m.raw f.reg i).toNat % 2 ^ f.lo < 2 ^ f.lo := Nat.mod_lt _ hL
  have hm : (m.raw f.reg i).toNat / 2 ^ f.lo % 2 ^ f.w < 2 ^ f.w := Nat.mod_lt _ (Nat.two_pow_pos _)
  generalize (m.raw f.reg i).toNat = a at *
  rcases hd with hd | hd
  · have key : ∀ x : Nat, x / 2 ^ g.lo % 2 ^ g.w = x % 2 ^ f.lo / 2 ^ g.lo % 2 ^ g.w := by
      intro x
      rw [← Nat.mod_mul_right_div_self, ← Nat.mod_mul_right_div_self, ← Nat.pow_add,
        Nat.mod_mod_of_dvd _ (Nat.pow_dvd_pow 2 hd)]
    rw [key, key a]
    congr 2
    have e : a / (2 ^ f.lo * 2 ^ f.w) * (2 ^ f.lo * 2 ^ f.w) + v % 2 ^ f.w * 2 ^ f.lo + a % 2 ^ f.lo =
        a % 2 ^ f.lo + 2 ^ f.lo * (a / (2 ^ f.lo * 2 ^ f.w) * 2 ^ f.w + v % 2 ^ f.w) := by ring
    rw [e, Nat.add_mul_mod_self_left, Nat.mod_mod]
  · have hg : 2 ^ g.lo = (2 ^ f.lo * 2 ^ f.w) * 2 ^ (g.lo - f.lo - f.w) := by
      rw [← Nat.pow_add, ← Nat.pow_add, show f.lo + f.w + (g.lo - f.lo - f.w) = g.lo by omega]
    have hp : 0 < 2 ^ f.lo * 2 ^ f.w := by positivity
    have small : v % 2 ^ f.w * 2 ^ f.lo + a % 2 ^ f.lo < 2 ^ f.lo * 2 ^ f.w := by
      have h2 : (v % 2 ^ f.w + 1) * 2 ^ f.lo ≤ 2 ^ f.w * 2 ^ f.lo := Nat.mul_le_mul_right _ hv
      rw [Nat.add_mul, Nat.mul_comm (2 ^ f.w)] at h2
      omega
    generalize 2 ^ f.lo * 2 ^ f.w = P at *
    rw [hg, ← Nat.div_div_eq_div_mul, ← Nat.div_div_eq_div_mul a P]
    congr 2
    rw [Nat.add_assoc, Nat.mul_comm (a / P), Nat.mul_add_div hp, Nat.div_eq_of_lt small, Nat.add_zero]

/-- A field of another register, or of another index, keeps its value. -/
theorem RegFile.get_set_ne (m : RegFile) (f g : Fld) {i j : Nat} (v : Nat) (hi : i < 0x4000) (hj : j < 0x4000) (h : g.reg ≠ f.reg ∨ j ≠ i) :
    (m.set f i v).get g j = m.get g j := by
  unfold RegFile.get RegFile.set
  rw [RegFile.raw_setRaw_ne _ _ (Reg.key_ne hj hi h)]

/-! The same of the state's accessors. -/

theorem State.rg_rs (s : State) (f : Fld) (i v : Nat) (h : f.lo + f.w ≤ 64) : (s.rs f i v).rg f i = v % 2 ^ f.w := s.regs.get_set f i v h

theorem State.rg_rs_field (s : State) (f g : Fld) (i v : Nat) (h : f.lo + f.w ≤ 64) (hr : g.reg = f.reg)
    (hd : g.lo + g.w ≤ f.lo ∨ f.lo + f.w ≤ g.lo) : (s.rs f i v).rg g i = s.rg g i := s.regs.get_set_field f g i v h hr hd

theorem State.rg_rs_ne (s : State) (f g : Fld) {i j : Nat} (v : Nat) (hi : i < 0x4000) (hj : j < 0x4000) (h : g.reg ≠ f.reg ∨ j ≠ i) :
    (s.rs f i v).rg g j = s.rg g j := s.regs.get_set_ne f g v hi hj h

/-- A counter adds, saturating at all ones. -/
theorem State.rg_ra (s : State) (f : Fld) (i n : Nat) (h : f.lo + f.w ≤ 64) : (s.ra f i n).rg f i = min (s.rg f i + n) (2 ^ f.w - 1) := by
  have h1 : (s.ra f i n).rg f i = satAdd f.w (s.rg f i) n % 2 ^ f.w := s.rg_rs f i _ h
  rw [h1, satAdd, Nat.mod_eq_of_lt]
  have := Nat.two_pow_pos f.w
  omega

theorem State.rg_ra_ne (s : State) (f g : Fld) {i j : Nat} (n : Nat) (hi : i < 0x4000) (hj : j < 0x4000) (h : g.reg ≠ f.reg ∨ j ≠ i) :
    (s.ra f i n).rg g j = s.rg g j := s.rg_rs_ne f g _ hi hj h

end Sys2Proof.Machine
end

