-- ==== Sys2Proof/Laws/Ops.lean ====
section
/-! SUPPORT. Everything that each shared operation over the state can change. -/

namespace Sys2Proof.Machine

/-- `t` differs from `s` in registers only. -/
def State.regsOnly (s t : State) : Prop := ∃ r, t = { s with regs := r }

theorem regsOnly_refl (s : State) : s.regsOnly s := ⟨s.regs, rfl⟩

theorem regsOnly_rs (s : State) (f : Fld) (i v : Nat) : s.regsOnly (s.rs f i v) := ⟨_, rfl⟩

theorem regsOnly_ra (s : State) (f : Fld) (i v : Nat) : s.regsOnly (s.ra f i v) := ⟨_, rfl⟩

theorem regsOnly_trans {s t u : State} (h : s.regsOnly t) (k : t.regsOnly u) : s.regsOnly u := by
  obtain ⟨r, rfl⟩ := h
  obtain ⟨q, rfl⟩ := k
  exact ⟨q, rfl⟩

theorem regsOnly_ite {s t u : State} {c : Prop} [Decidable c] (h : s.regsOnly t) (k : s.regsOnly u) : s.regsOnly (if c then t else u) := by
  split
  · exact h
  · exact k

/-- An event changes registers only. -/
theorem event_regs (s : State) (n : Nat) : s.regsOnly (s.event n) :=
  regsOnly_ite (regsOnly_refl s) (regsOnly_ite (regsOnly_ra ..) (regsOnly_rs ..))

/-- Counting an error changes registers only. -/
theorem countErr_regs (s : State) (c : Nat) : s.regsOnly (s.countErr c) := by
  unfold State.countErr
  split <;> first | exact regsOnly_trans (regsOnly_ra ..) (event_regs ..) | exact regsOnly_ra ..

/-- Logging changes the log and registers only. -/
theorem logErr_eq (s : State) (a b c d e f g : Nat) : ∃ r l, s.logErr a b c d e f g = { s with regs := r, log := l } := by
  unfold State.logErr
  dsimp only
  split
  · exact ⟨_, _, rfl⟩
  · split <;> exact ⟨_, _, rfl⟩

theorem setExhausted_regs (s : State) (c k : Nat) (b : Bool) : s.regsOnly (s.setExhausted c k b) := regsOnly_rs ..

/-- A charge changes registers only. -/
theorem charge_regs (s : State) (c k n : Nat) : s.regsOnly (s.charge c k n) :=
  regsOnly_ite (regsOnly_refl s)
    (regsOnly_ite (regsOnly_trans (regsOnly_rs ..) (setExhausted_regs ..)) (regsOnly_rs ..))

/-- A halt in a mode with a running engine: HALTED, FAULT_N asserted; registers, the log and what is sent change with it, and nothing else. -/
theorem halt_eq (s : State) (a b c d e : Nat) (h : s.alive = true) :
    ∃ r l o, s.halt a b c d e = { s with mode := .halted, pins := { s.pins with fault := true }, regs := r, log := l, out := o } := by
  obtain ⟨r1, h1⟩ := countErr_regs s 5
  obtain ⟨r2, l2, h2⟩ := logErr_eq (s.countErr 5) 5 b 0x2044 a d e c
  have step : ∀ t : State, t.mode = s.mode → s.regsOnly { t with log := s.log } → True := fun _ _ _ => trivial
  unfold State.halt
  simp only [h, Bool.not_true, Bool.false_eq_true, if_false]
  rw [h2, h1]
  generalize hx : (if ({ s with regs := r2, log := l2 } : State).rg .ERR_HALT_valid 0 = 1 then ({ s with regs := r2, log := l2 } : State) else _) = x
  have hx' : ({ s with regs := r2, log := l2 } : State).regsOnly x := by
    rw [← hx]
    refine regsOnly_ite (regsOnly_refl _) ?_
    repeat refine regsOnly_trans ?_ (regsOnly_rs ..)
    exact regsOnly_refl _
  obtain ⟨r3, rfl⟩ := hx'
  dsimp only
  generalize hy : (if State.rg _ Fld.SBI_CTL_alert_fatal 0 = 1 then _ else _ : State) = y
  have hy' : ({ s with regs := r3, log := l2, mode := .halted, pins := { s.pins with fault := true } } : State).regsOnly y := by
    rw [← hy]
    exact regsOnly_ite (regsOnly_rs ..) (regsOnly_refl _)
  obtain ⟨r4, rfl⟩ := hy'
  split <;> exact ⟨_, _, _, rfl⟩

/-- An MSI-X message is sent, or stays pending. -/
theorem msixSend_eq (s : State) (f v : Nat) :
    s.msixSend f v = s.emit (.msix f v) ∨ ∃ m, s.msixSend f v = { s with host := { s.host with msix := m } } := by
  unfold State.msixSend
  dsimp only
  split
  · exact .inl rfl
  · exact .inr ⟨_, rfl⟩

end Sys2Proof.Machine
end

