-- ==== Sys2Proof/Laws/Frame.lean ====
section
/-! SUPPORT. Field by field, what the shared operations leave unchanged. -/

namespace Sys2Proof.Machine

variable (s : State)

theorem chargeHost_regs (c n : Nat) : s.regsOnly (s.chargeHost c n) := charge_regs ..

theorem chargeDev_regs (c d n : Nat) : s.regsOnly (s.chargeDev c d n) := charge_regs ..

theorem dbErr_regs (f q k : Nat) : s.regsOnly (s.dbErr f q k) := by
  unfold State.dbErr
  refine regsOnly_trans ?_ (event_regs ..)
  refine regsOnly_trans (regsOnly_ra s .QUE_DBERR_count f 1) (regsOnly_ite (regsOnly_refl _) ?_)
  exact regsOnly_trans (regsOnly_trans (regsOnly_rs ..) (regsOnly_rs ..)) (regsOnly_rs ..)

/-- A trace record changes memory and the ring's count only. -/
theorem traceRoot_eq (d : Nat) (t : Trace) : ∃ m q, s.traceRoot d t = { s with m := m, traceSeq := q } := by
  unfold State.traceRoot
  dsimp only
  split
  · exact ⟨_, _, rfl⟩
  · exact ⟨_, _, rfl⟩

theorem traceDevice_eq (d c r a : Nat) : ∃ m q, s.traceDevice d c r a = { s with m := m, traceSeq := q } := traceRoot_eq ..

@[simp] theorem State.event_pending (n : Nat) : (s.event n).pending = s.pending := by obtain ⟨r, h⟩ := event_regs s n; rw [h]
@[simp] theorem State.event_h256 (n : Nat) : (s.event n).h256 = s.h256 := by obtain ⟨r, h⟩ := event_regs s n; rw [h]
@[simp] theorem State.event_mode (n : Nat) : (s.event n).mode = s.mode := by obtain ⟨r, h⟩ := event_regs s n; rw [h]
@[simp] theorem State.event_ticks (n : Nat) : (s.event n).ticks = s.ticks := by obtain ⟨r, h⟩ := event_regs s n; rw [h]
@[simp] theorem State.event_devtime (n : Nat) : (s.event n).devtime = s.devtime := by obtain ⟨r, h⟩ := event_regs s n; rw [h]
@[simp] theorem State.event_pins (n : Nat) : (s.event n).pins = s.pins := by obtain ⟨r, h⟩ := event_regs s n; rw [h]
@[simp] theorem State.event_host (n : Nat) : (s.event n).host = s.host := by obtain ⟨r, h⟩ := event_regs s n; rw [h]
@[simp] theorem State.event_m (n : Nat) : (s.event n).m = s.m := by obtain ⟨r, h⟩ := event_regs s n; rw [h]
@[simp] theorem State.event_io (n : Nat) : (s.event n).io = s.io := by obtain ⟨r, h⟩ := event_regs s n; rw [h]
@[simp] theorem State.event_log (n : Nat) : (s.event n).log = s.log := by obtain ⟨r, h⟩ := event_regs s n; rw [h]
@[simp] theorem State.event_camps (n : Nat) : (s.event n).camps = s.camps := by obtain ⟨r, h⟩ := event_regs s n; rw [h]
@[simp] theorem State.event_dies (n : Nat) : (s.event n).dies = s.dies := by obtain ⟨r, h⟩ := event_regs s n; rw [h]
@[simp] theorem State.event_power (n : Nat) : (s.event n).power = s.power := by obtain ⟨r, h⟩ := event_regs s n; rw [h]
@[simp] theorem State.event_execs (n : Nat) : (s.event n).execs = s.execs := by obtain ⟨r, h⟩ := event_regs s n; rw [h]
@[simp] theorem State.event_rationNext (n : Nat) : (s.event n).rationNext = s.rationNext := by obtain ⟨r, h⟩ := event_regs s n; rw [h]
@[simp] theorem State.event_records (n : Nat) : (s.event n).records = s.records := by obtain ⟨r, h⟩ := event_regs s n; rw [h]
@[simp] theorem State.event_traceSeq (n : Nat) : (s.event n).traceSeq = s.traceSeq := by obtain ⟨r, h⟩ := event_regs s n; rw [h]
@[simp] theorem State.event_out (n : Nat) : (s.event n).out = s.out := by obtain ⟨r, h⟩ := event_regs s n; rw [h]
@[simp] theorem State.event_draws (n : Nat) : (s.event n).draws = s.draws := by obtain ⟨r, h⟩ := event_regs s n; rw [h]
@[simp] theorem State.event_trust (n : Nat) : (s.event n).trust = s.trust := by obtain ⟨r, h⟩ := event_regs s n; rw [h]
@[simp] theorem State.event_plans (n : Nat) : (s.event n).plans = s.plans := by obtain ⟨r, h⟩ := event_regs s n; rw [h]
@[simp] theorem State.event_run (n : Nat) : (s.event n).run = s.run := by obtain ⟨r, h⟩ := event_regs s n; rw [h]
@[simp] theorem State.event_ulr (n : Nat) : (s.event n).ulr = s.ulr := by obtain ⟨r, h⟩ := event_regs s n; rw [h]
@[simp] theorem State.countErr_pending (c : Nat) : (s.countErr c).pending = s.pending := by obtain ⟨r, h⟩ := countErr_regs s c; rw [h]
@[simp] theorem State.countErr_h256 (c : Nat) : (s.countErr c).h256 = s.h256 := by obtain ⟨r, h⟩ := countErr_regs s c; rw [h]
@[simp] theorem State.countErr_mode (c : Nat) : (s.countErr c).mode = s.mode := by obtain ⟨r, h⟩ := countErr_regs s c; rw [h]
@[simp] theorem State.countErr_ticks (c : Nat) : (s.countErr c).ticks = s.ticks := by obtain ⟨r, h⟩ := countErr_regs s c; rw [h]
@[simp] theorem State.countErr_devtime (c : Nat) : (s.countErr c).devtime = s.devtime := by obtain ⟨r, h⟩ := countErr_regs s c; rw [h]
@[simp] theorem State.countErr_pins (c : Nat) : (s.countErr c).pins = s.pins := by obtain ⟨r, h⟩ := countErr_regs s c; rw [h]
@[simp] theorem State.countErr_host (c : Nat) : (s.countErr c).host = s.host := by obtain ⟨r, h⟩ := countErr_regs s c; rw [h]
@[simp] theorem State.countErr_m (c : Nat) : (s.countErr c).m = s.m := by obtain ⟨r, h⟩ := countErr_regs s c; rw [h]
@[simp] theorem State.countErr_io (c : Nat) : (s.countErr c).io = s.io := by obtain ⟨r, h⟩ := countErr_regs s c; rw [h]
@[simp] theorem State.countErr_log (c : Nat) : (s.countErr c).log = s.log := by obtain ⟨r, h⟩ := countErr_regs s c; rw [h]
@[simp] theorem State.countErr_camps (c : Nat) : (s.countErr c).camps = s.camps := by obtain ⟨r, h⟩ := countErr_regs s c; rw [h]
@[simp] theorem State.countErr_dies (c : Nat) : (s.countErr c).dies = s.dies := by obtain ⟨r, h⟩ := countErr_regs s c; rw [h]
@[simp] theorem State.countErr_power (c : Nat) : (s.countErr c).power = s.power := by obtain ⟨r, h⟩ := countErr_regs s c; rw [h]
@[simp] theorem State.countErr_execs (c : Nat) : (s.countErr c).execs = s.execs := by obtain ⟨r, h⟩ := countErr_regs s c; rw [h]
@[simp] theorem State.countErr_rationNext (c : Nat) : (s.countErr c).rationNext = s.rationNext := by obtain ⟨r, h⟩ := countErr_regs s c; rw [h]
@[simp] theorem State.countErr_records (c : Nat) : (s.countErr c).records = s.records := by obtain ⟨r, h⟩ := countErr_regs s c; rw [h]
@[simp] theorem State.countErr_traceSeq (c : Nat) : (s.countErr c).traceSeq = s.traceSeq := by obtain ⟨r, h⟩ := countErr_regs s c; rw [h]
@[simp] theorem State.countErr_out (c : Nat) : (s.countErr c).out = s.out := by obtain ⟨r, h⟩ := countErr_regs s c; rw [h]
@[simp] theorem State.countErr_draws (c : Nat) : (s.countErr c).draws = s.draws := by obtain ⟨r, h⟩ := countErr_regs s c; rw [h]
@[simp] theorem State.countErr_trust (c : Nat) : (s.countErr c).trust = s.trust := by obtain ⟨r, h⟩ := countErr_regs s c; rw [h]
@[simp] theorem State.countErr_plans (c : Nat) : (s.countErr c).plans = s.plans := by obtain ⟨r, h⟩ := countErr_regs s c; rw [h]
@[simp] theorem State.countErr_run (c : Nat) : (s.countErr c).run = s.run := by obtain ⟨r, h⟩ := countErr_regs s c; rw [h]
@[simp] theorem State.countErr_ulr (c : Nat) : (s.countErr c).ulr = s.ulr := by obtain ⟨r, h⟩ := countErr_regs s c; rw [h]
@[simp] theorem State.charge_pending (c k n : Nat) : (s.charge c k n).pending = s.pending := by obtain ⟨r, h⟩ := charge_regs s c k n; rw [h]
@[simp] theorem State.charge_h256 (c k n : Nat) : (s.charge c k n).h256 = s.h256 := by obtain ⟨r, h⟩ := charge_regs s c k n; rw [h]
@[simp] theorem State.charge_mode (c k n : Nat) : (s.charge c k n).mode = s.mode := by obtain ⟨r, h⟩ := charge_regs s c k n; rw [h]
@[simp] theorem State.charge_ticks (c k n : Nat) : (s.charge c k n).ticks = s.ticks := by obtain ⟨r, h⟩ := charge_regs s c k n; rw [h]
@[simp] theorem State.charge_devtime (c k n : Nat) : (s.charge c k n).devtime = s.devtime := by obtain ⟨r, h⟩ := charge_regs s c k n; rw [h]
@[simp] theorem State.charge_pins (c k n : Nat) : (s.charge c k n).pins = s.pins := by obtain ⟨r, h⟩ := charge_regs s c k n; rw [h]
@[simp] theorem State.charge_host (c k n : Nat) : (s.charge c k n).host = s.host := by obtain ⟨r, h⟩ := charge_regs s c k n; rw [h]
@[simp] theorem State.charge_m (c k n : Nat) : (s.charge c k n).m = s.m := by obtain ⟨r, h⟩ := charge_regs s c k n; rw [h]
@[simp] theorem State.charge_io (c k n : Nat) : (s.charge c k n).io = s.io := by obtain ⟨r, h⟩ := charge_regs s c k n; rw [h]
@[simp] theorem State.charge_log (c k n : Nat) : (s.charge c k n).log = s.log := by obtain ⟨r, h⟩ := charge_regs s c k n; rw [h]
@[simp] theorem State.charge_camps (c k n : Nat) : (s.charge c k n).camps = s.camps := by obtain ⟨r, h⟩ := charge_regs s c k n; rw [h]
@[simp] theorem State.charge_dies (c k n : Nat) : (s.charge c k n).dies = s.dies := by obtain ⟨r, h⟩ := charge_regs s c k n; rw [h]
@[simp] theorem State.charge_power (c k n : Nat) : (s.charge c k n).power = s.power := by obtain ⟨r, h⟩ := charge_regs s c k n; rw [h]
@[simp] theorem State.charge_execs (c k n : Nat) : (s.charge c k n).execs = s.execs := by obtain ⟨r, h⟩ := charge_regs s c k n; rw [h]
@[simp] theorem State.charge_rationNext (c k n : Nat) : (s.charge c k n).rationNext = s.rationNext := by obtain ⟨r, h⟩ := charge_regs s c k n; rw [h]
@[simp] theorem State.charge_records (c k n : Nat) : (s.charge c k n).records = s.records := by obtain ⟨r, h⟩ := charge_regs s c k n; rw [h]
@[simp] theorem State.charge_traceSeq (c k n : Nat) : (s.charge c k n).traceSeq = s.traceSeq := by obtain ⟨r, h⟩ := charge_regs s c k n; rw [h]
@[simp] theorem State.charge_out (c k n : Nat) : (s.charge c k n).out = s.out := by obtain ⟨r, h⟩ := charge_regs s c k n; rw [h]
@[simp] theorem State.charge_draws (c k n : Nat) : (s.charge c k n).draws = s.draws := by obtain ⟨r, h⟩ := charge_regs s c k n; rw [h]
@[simp] theorem State.charge_trust (c k n : Nat) : (s.charge c k n).trust = s.trust := by obtain ⟨r, h⟩ := charge_regs s c k n; rw [h]
@[simp] theorem State.charge_plans (c k n : Nat) : (s.charge c k n).plans = s.plans := by obtain ⟨r, h⟩ := charge_regs s c k n; rw [h]
@[simp] theorem State.charge_run (c k n : Nat) : (s.charge c k n).run = s.run := by obtain ⟨r, h⟩ := charge_regs s c k n; rw [h]
@[simp] theorem State.charge_ulr (c k n : Nat) : (s.charge c k n).ulr = s.ulr := by obtain ⟨r, h⟩ := charge_regs s c k n; rw [h]
@[simp] theorem State.chargeHost_pending (c n : Nat) : (s.chargeHost c n).pending = s.pending := by obtain ⟨r, h⟩ := chargeHost_regs s c n; rw [h]
@[simp] theorem State.chargeHost_h256 (c n : Nat) : (s.chargeHost c n).h256 = s.h256 := by obtain ⟨r, h⟩ := chargeHost_regs s c n; rw [h]
@[simp] theorem State.chargeHost_mode (c n : Nat) : (s.chargeHost c n).mode = s.mode := by obtain ⟨r, h⟩ := chargeHost_regs s c n; rw [h]
@[simp] theorem State.chargeHost_ticks (c n : Nat) : (s.chargeHost c n).ticks = s.ticks := by obtain ⟨r, h⟩ := chargeHost_regs s c n; rw [h]
@[simp] theorem State.chargeHost_devtime (c n : Nat) : (s.chargeHost c n).devtime = s.devtime := by obtain ⟨r, h⟩ := chargeHost_regs s c n; rw [h]
@[simp] theorem State.chargeHost_pins (c n : Nat) : (s.chargeHost c n).pins = s.pins := by obtain ⟨r, h⟩ := chargeHost_regs s c n; rw [h]
@[simp] theorem State.chargeHost_host (c n : Nat) : (s.chargeHost c n).host = s.host := by obtain ⟨r, h⟩ := chargeHost_regs s c n; rw [h]
@[simp] theorem State.chargeHost_m (c n : Nat) : (s.chargeHost c n).m = s.m := by obtain ⟨r, h⟩ := chargeHost_regs s c n; rw [h]
@[simp] theorem State.chargeHost_io (c n : Nat) : (s.chargeHost c n).io = s.io := by obtain ⟨r, h⟩ := chargeHost_regs s c n; rw [h]
@[simp] theorem State.chargeHost_log (c n : Nat) : (s.chargeHost c n).log = s.log := by obtain ⟨r, h⟩ := chargeHost_regs s c n; rw [h]
@[simp] theorem State.chargeHost_camps (c n : Nat) : (s.chargeHost c n).camps = s.camps := by obtain ⟨r, h⟩ := chargeHost_regs s c n; rw [h]
@[simp] theorem State.chargeHost_dies (c n : Nat) : (s.chargeHost c n).dies = s.dies := by obtain ⟨r, h⟩ := chargeHost_regs s c n; rw [h]
@[simp] theorem State.chargeHost_power (c n : Nat) : (s.chargeHost c n).power = s.power := by obtain ⟨r, h⟩ := chargeHost_regs s c n; rw [h]
@[simp] theorem State.chargeHost_execs (c n : Nat) : (s.chargeHost c n).execs = s.execs := by obtain ⟨r, h⟩ := chargeHost_regs s c n; rw [h]
@[simp] theorem State.chargeHost_rationNext (c n : Nat) : (s.chargeHost c n).rationNext = s.rationNext := by obtain ⟨r, h⟩ := chargeHost_regs s c n; rw [h]
@[simp] theorem State.chargeHost_records (c n : Nat) : (s.chargeHost c n).records = s.records := by obtain ⟨r, h⟩ := chargeHost_regs s c n; rw [h]
@[simp] theorem State.chargeHost_traceSeq (c n : Nat) : (s.chargeHost c n).traceSeq = s.traceSeq := by obtain ⟨r, h⟩ := chargeHost_regs s c n; rw [h]
@[simp] theorem State.chargeHost_out (c n : Nat) : (s.chargeHost c n).out = s.out := by obtain ⟨r, h⟩ := chargeHost_regs s c n; rw [h]
@[simp] theorem State.chargeHost_draws (c n : Nat) : (s.chargeHost c n).draws = s.draws := by obtain ⟨r, h⟩ := chargeHost_regs s c n; rw [h]
@[simp] theorem State.chargeHost_trust (c n : Nat) : (s.chargeHost c n).trust = s.trust := by obtain ⟨r, h⟩ := chargeHost_regs s c n; rw [h]
@[simp] theorem State.chargeHost_plans (c n : Nat) : (s.chargeHost c n).plans = s.plans := by obtain ⟨r, h⟩ := chargeHost_regs s c n; rw [h]
@[simp] theorem State.chargeHost_run (c n : Nat) : (s.chargeHost c n).run = s.run := by obtain ⟨r, h⟩ := chargeHost_regs s c n; rw [h]
@[simp] theorem State.chargeHost_ulr (c n : Nat) : (s.chargeHost c n).ulr = s.ulr := by obtain ⟨r, h⟩ := chargeHost_regs s c n; rw [h]
@[simp] theorem State.chargeDev_pending (c d n : Nat) : (s.chargeDev c d n).pending = s.pending := by obtain ⟨r, h⟩ := chargeDev_regs s c d n; rw [h]
@[simp] theorem State.chargeDev_h256 (c d n : Nat) : (s.chargeDev c d n).h256 = s.h256 := by obtain ⟨r, h⟩ := chargeDev_regs s c d n; rw [h]
@[simp] theorem State.chargeDev_mode (c d n : Nat) : (s.chargeDev c d n).mode = s.mode := by obtain ⟨r, h⟩ := chargeDev_regs s c d n; rw [h]
@[simp] theorem State.chargeDev_ticks (c d n : Nat) : (s.chargeDev c d n).ticks = s.ticks := by obtain ⟨r, h⟩ := chargeDev_regs s c d n; rw [h]
@[simp] theorem State.chargeDev_devtime (c d n : Nat) : (s.chargeDev c d n).devtime = s.devtime := by obtain ⟨r, h⟩ := chargeDev_regs s c d n; rw [h]
@[simp] theorem State.chargeDev_pins (c d n : Nat) : (s.chargeDev c d n).pins = s.pins := by obtain ⟨r, h⟩ := chargeDev_regs s c d n; rw [h]
@[simp] theorem State.chargeDev_host (c d n : Nat) : (s.chargeDev c d n).host = s.host := by obtain ⟨r, h⟩ := chargeDev_regs s c d n; rw [h]
@[simp] theorem State.chargeDev_m (c d n : Nat) : (s.chargeDev c d n).m = s.m := by obtain ⟨r, h⟩ := chargeDev_regs s c d n; rw [h]
@[simp] theorem State.chargeDev_io (c d n : Nat) : (s.chargeDev c d n).io = s.io := by obtain ⟨r, h⟩ := chargeDev_regs s c d n; rw [h]
@[simp] theorem State.chargeDev_log (c d n : Nat) : (s.chargeDev c d n).log = s.log := by obtain ⟨r, h⟩ := chargeDev_regs s c d n; rw [h]
@[simp] theorem State.chargeDev_camps (c d n : Nat) : (s.chargeDev c d n).camps = s.camps := by obtain ⟨r, h⟩ := chargeDev_regs s c d n; rw [h]
@[simp] theorem State.chargeDev_dies (c d n : Nat) : (s.chargeDev c d n).dies = s.dies := by obtain ⟨r, h⟩ := chargeDev_regs s c d n; rw [h]
@[simp] theorem State.chargeDev_power (c d n : Nat) : (s.chargeDev c d n).power = s.power := by obtain ⟨r, h⟩ := chargeDev_regs s c d n; rw [h]
@[simp] theorem State.chargeDev_execs (c d n : Nat) : (s.chargeDev c d n).execs = s.execs := by obtain ⟨r, h⟩ := chargeDev_regs s c d n; rw [h]
@[simp] theorem State.chargeDev_rationNext (c d n : Nat) : (s.chargeDev c d n).rationNext = s.rationNext := by obtain ⟨r, h⟩ := chargeDev_regs s c d n; rw [h]
@[simp] theorem State.chargeDev_records (c d n : Nat) : (s.chargeDev c d n).records = s.records := by obtain ⟨r, h⟩ := chargeDev_regs s c d n; rw [h]
@[simp] theorem State.chargeDev_traceSeq (c d n : Nat) : (s.chargeDev c d n).traceSeq = s.traceSeq := by obtain ⟨r, h⟩ := chargeDev_regs s c d n; rw [h]
@[simp] theorem State.chargeDev_out (c d n : Nat) : (s.chargeDev c d n).out = s.out := by obtain ⟨r, h⟩ := chargeDev_regs s c d n; rw [h]
@[simp] theorem State.chargeDev_draws (c d n : Nat) : (s.chargeDev c d n).draws = s.draws := by obtain ⟨r, h⟩ := chargeDev_regs s c d n; rw [h]
@[simp] theorem State.chargeDev_trust (c d n : Nat) : (s.chargeDev c d n).trust = s.trust := by obtain ⟨r, h⟩ := chargeDev_regs s c d n; rw [h]
@[simp] theorem State.chargeDev_plans (c d n : Nat) : (s.chargeDev c d n).plans = s.plans := by obtain ⟨r, h⟩ := chargeDev_regs s c d n; rw [h]
@[simp] theorem State.chargeDev_run (c d n : Nat) : (s.chargeDev c d n).run = s.run := by obtain ⟨r, h⟩ := chargeDev_regs s c d n; rw [h]
@[simp] theorem State.chargeDev_ulr (c d n : Nat) : (s.chargeDev c d n).ulr = s.ulr := by obtain ⟨r, h⟩ := chargeDev_regs s c d n; rw [h]
@[simp] theorem State.dbErr_pending (f q k : Nat) : (s.dbErr f q k).pending = s.pending := by obtain ⟨r, h⟩ := dbErr_regs s f q k; rw [h]
@[simp] theorem State.dbErr_h256 (f q k : Nat) : (s.dbErr f q k).h256 = s.h256 := by obtain ⟨r, h⟩ := dbErr_regs s f q k; rw [h]
@[simp] theorem State.dbErr_mode (f q k : Nat) : (s.dbErr f q k).mode = s.mode := by obtain ⟨r, h⟩ := dbErr_regs s f q k; rw [h]
@[simp] theorem State.dbErr_ticks (f q k : Nat) : (s.dbErr f q k).ticks = s.ticks := by obtain ⟨r, h⟩ := dbErr_regs s f q k; rw [h]
@[simp] theorem State.dbErr_devtime (f q k : Nat) : (s.dbErr f q k).devtime = s.devtime := by obtain ⟨r, h⟩ := dbErr_regs s f q k; rw [h]
@[simp] theorem State.dbErr_pins (f q k : Nat) : (s.dbErr f q k).pins = s.pins := by obtain ⟨r, h⟩ := dbErr_regs s f q k; rw [h]
@[simp] theorem State.dbErr_host (f q k : Nat) : (s.dbErr f q k).host = s.host := by obtain ⟨r, h⟩ := dbErr_regs s f q k; rw [h]
@[simp] theorem State.dbErr_m (f q k : Nat) : (s.dbErr f q k).m = s.m := by obtain ⟨r, h⟩ := dbErr_regs s f q k; rw [h]
@[simp] theorem State.dbErr_io (f q k : Nat) : (s.dbErr f q k).io = s.io := by obtain ⟨r, h⟩ := dbErr_regs s f q k; rw [h]
@[simp] theorem State.dbErr_log (f q k : Nat) : (s.dbErr f q k).log = s.log := by obtain ⟨r, h⟩ := dbErr_regs s f q k; rw [h]
@[simp] theorem State.dbErr_camps (f q k : Nat) : (s.dbErr f q k).camps = s.camps := by obtain ⟨r, h⟩ := dbErr_regs s f q k; rw [h]
@[simp] theorem State.dbErr_dies (f q k : Nat) : (s.dbErr f q k).dies = s.dies := by obtain ⟨r, h⟩ := dbErr_regs s f q k; rw [h]
@[simp] theorem State.dbErr_power (f q k : Nat) : (s.dbErr f q k).power = s.power := by obtain ⟨r, h⟩ := dbErr_regs s f q k; rw [h]
@[simp] theorem State.dbErr_execs (f q k : Nat) : (s.dbErr f q k).execs = s.execs := by obtain ⟨r, h⟩ := dbErr_regs s f q k; rw [h]
@[simp] theorem State.dbErr_rationNext (f q k : Nat) : (s.dbErr f q k).rationNext = s.rationNext := by obtain ⟨r, h⟩ := dbErr_regs s f q k; rw [h]
@[simp] theorem State.dbErr_records (f q k : Nat) : (s.dbErr f q k).records = s.records := by obtain ⟨r, h⟩ := dbErr_regs s f q k; rw [h]
@[simp] theorem State.dbErr_traceSeq (f q k : Nat) : (s.dbErr f q k).traceSeq = s.traceSeq := by obtain ⟨r, h⟩ := dbErr_regs s f q k; rw [h]
@[simp] theorem State.dbErr_out (f q k : Nat) : (s.dbErr f q k).out = s.out := by obtain ⟨r, h⟩ := dbErr_regs s f q k; rw [h]
@[simp] theorem State.dbErr_draws (f q k : Nat) : (s.dbErr f q k).draws = s.draws := by obtain ⟨r, h⟩ := dbErr_regs s f q k; rw [h]
@[simp] theorem State.dbErr_trust (f q k : Nat) : (s.dbErr f q k).trust = s.trust := by obtain ⟨r, h⟩ := dbErr_regs s f q k; rw [h]
@[simp] theorem State.dbErr_plans (f q k : Nat) : (s.dbErr f q k).plans = s.plans := by obtain ⟨r, h⟩ := dbErr_regs s f q k; rw [h]
@[simp] theorem State.dbErr_run (f q k : Nat) : (s.dbErr f q k).run = s.run := by obtain ⟨r, h⟩ := dbErr_regs s f q k; rw [h]
@[simp] theorem State.dbErr_ulr (f q k : Nat) : (s.dbErr f q k).ulr = s.ulr := by obtain ⟨r, h⟩ := dbErr_regs s f q k; rw [h]
@[simp] theorem State.logErr_pending (a b c d e g i : Nat) : (s.logErr a b c d e g i).pending = s.pending := by obtain ⟨r, l, h⟩ := logErr_eq s a b c d e g i; rw [h]
@[simp] theorem State.logErr_h256 (a b c d e g i : Nat) : (s.logErr a b c d e g i).h256 = s.h256 := by obtain ⟨r, l, h⟩ := logErr_eq s a b c d e g i; rw [h]
@[simp] theorem State.logErr_mode (a b c d e g i : Nat) : (s.logErr a b c d e g i).mode = s.mode := by obtain ⟨r, l, h⟩ := logErr_eq s a b c d e g i; rw [h]
@[simp] theorem State.logErr_ticks (a b c d e g i : Nat) : (s.logErr a b c d e g i).ticks = s.ticks := by obtain ⟨r, l, h⟩ := logErr_eq s a b c d e g i; rw [h]
@[simp] theorem State.logErr_devtime (a b c d e g i : Nat) : (s.logErr a b c d e g i).devtime = s.devtime := by obtain ⟨r, l, h⟩ := logErr_eq s a b c d e g i; rw [h]
@[simp] theorem State.logErr_pins (a b c d e g i : Nat) : (s.logErr a b c d e g i).pins = s.pins := by obtain ⟨r, l, h⟩ := logErr_eq s a b c d e g i; rw [h]
@[simp] theorem State.logErr_host (a b c d e g i : Nat) : (s.logErr a b c d e g i).host = s.host := by obtain ⟨r, l, h⟩ := logErr_eq s a b c d e g i; rw [h]
@[simp] theorem State.logErr_m (a b c d e g i : Nat) : (s.logErr a b c d e g i).m = s.m := by obtain ⟨r, l, h⟩ := logErr_eq s a b c d e g i; rw [h]
@[simp] theorem State.logErr_io (a b c d e g i : Nat) : (s.logErr a b c d e g i).io = s.io := by obtain ⟨r, l, h⟩ := logErr_eq s a b c d e g i; rw [h]
@[simp] theorem State.logErr_camps (a b c d e g i : Nat) : (s.logErr a b c d e g i).camps = s.camps := by obtain ⟨r, l, h⟩ := logErr_eq s a b c d e g i; rw [h]
@[simp] theorem State.logErr_dies (a b c d e g i : Nat) : (s.logErr a b c d e g i).dies = s.dies := by obtain ⟨r, l, h⟩ := logErr_eq s a b c d e g i; rw [h]
@[simp] theorem State.logErr_power (a b c d e g i : Nat) : (s.logErr a b c d e g i).power = s.power := by obtain ⟨r, l, h⟩ := logErr_eq s a b c d e g i; rw [h]
@[simp] theorem State.logErr_execs (a b c d e g i : Nat) : (s.logErr a b c d e g i).execs = s.execs := by obtain ⟨r, l, h⟩ := logErr_eq s a b c d e g i; rw [h]
@[simp] theorem State.logErr_rationNext (a b c d e g i : Nat) : (s.logErr a b c d e g i).rationNext = s.rationNext := by obtain ⟨r, l, h⟩ := logErr_eq s a b c d e g i; rw [h]
@[simp] theorem State.logErr_records (a b c d e g i : Nat) : (s.logErr a b c d e g i).records = s.records := by obtain ⟨r, l, h⟩ := logErr_eq s a b c d e g i; rw [h]
@[simp] theorem State.logErr_traceSeq (a b c d e g i : Nat) : (s.logErr a b c d e g i).traceSeq = s.traceSeq := by obtain ⟨r, l, h⟩ := logErr_eq s a b c d e g i; rw [h]
@[simp] theorem State.logErr_out (a b c d e g i : Nat) : (s.logErr a b c d e g i).out = s.out := by obtain ⟨r, l, h⟩ := logErr_eq s a b c d e g i; rw [h]
@[simp] theorem State.logErr_draws (a b c d e g i : Nat) : (s.logErr a b c d e g i).draws = s.draws := by obtain ⟨r, l, h⟩ := logErr_eq s a b c d e g i; rw [h]
@[simp] theorem State.logErr_trust (a b c d e g i : Nat) : (s.logErr a b c d e g i).trust = s.trust := by obtain ⟨r, l, h⟩ := logErr_eq s a b c d e g i; rw [h]
@[simp] theorem State.logErr_plans (a b c d e g i : Nat) : (s.logErr a b c d e g i).plans = s.plans := by obtain ⟨r, l, h⟩ := logErr_eq s a b c d e g i; rw [h]
@[simp] theorem State.logErr_run (a b c d e g i : Nat) : (s.logErr a b c d e g i).run = s.run := by obtain ⟨r, l, h⟩ := logErr_eq s a b c d e g i; rw [h]
@[simp] theorem State.logErr_ulr (a b c d e g i : Nat) : (s.logErr a b c d e g i).ulr = s.ulr := by obtain ⟨r, l, h⟩ := logErr_eq s a b c d e g i; rw [h]
@[simp] theorem State.traceDevice_pending (a b c d : Nat) : (s.traceDevice a b c d).pending = s.pending := by obtain ⟨r, l, h⟩ := traceDevice_eq s a b c d; rw [h]
@[simp] theorem State.traceDevice_h256 (a b c d : Nat) : (s.traceDevice a b c d).h256 = s.h256 := by obtain ⟨r, l, h⟩ := traceDevice_eq s a b c d; rw [h]
@[simp] theorem State.traceDevice_mode (a b c d : Nat) : (s.traceDevice a b c d).mode = s.mode := by obtain ⟨r, l, h⟩ := traceDevice_eq s a b c d; rw [h]
@[simp] theorem State.traceDevice_ticks (a b c d : Nat) : (s.traceDevice a b c d).ticks = s.ticks := by obtain ⟨r, l, h⟩ := traceDevice_eq s a b c d; rw [h]
@[simp] theorem State.traceDevice_devtime (a b c d : Nat) : (s.traceDevice a b c d).devtime = s.devtime := by obtain ⟨r, l, h⟩ := traceDevice_eq s a b c d; rw [h]
@[simp] theorem State.traceDevice_pins (a b c d : Nat) : (s.traceDevice a b c d).pins = s.pins := by obtain ⟨r, l, h⟩ := traceDevice_eq s a b c d; rw [h]
@[simp] theorem State.traceDevice_regs (a b c d : Nat) : (s.traceDevice a b c d).regs = s.regs := by obtain ⟨r, l, h⟩ := traceDevice_eq s a b c d; rw [h]
@[simp] theorem State.traceDevice_host (a b c d : Nat) : (s.traceDevice a b c d).host = s.host := by obtain ⟨r, l, h⟩ := traceDevice_eq s a b c d; rw [h]
@[simp] theorem State.traceDevice_io (a b c d : Nat) : (s.traceDevice a b c d).io = s.io := by obtain ⟨r, l, h⟩ := traceDevice_eq s a b c d; rw [h]
@[simp] theorem State.traceDevice_log (a b c d : Nat) : (s.traceDevice a b c d).log = s.log := by obtain ⟨r, l, h⟩ := traceDevice_eq s a b c d; rw [h]
@[simp] theorem State.traceDevice_camps (a b c d : Nat) : (s.traceDevice a b c d).camps = s.camps := by obtain ⟨r, l, h⟩ := traceDevice_eq s a b c d; rw [h]
@[simp] theorem State.traceDevice_dies (a b c d : Nat) : (s.traceDevice a b c d).dies = s.dies := by obtain ⟨r, l, h⟩ := traceDevice_eq s a b c d; rw [h]
@[simp] theorem State.traceDevice_power (a b c d : Nat) : (s.traceDevice a b c d).power = s.power := by obtain ⟨r, l, h⟩ := traceDevice_eq s a b c d; rw [h]
@[simp] theorem State.traceDevice_execs (a b c d : Nat) : (s.traceDevice a b c d).execs = s.execs := by obtain ⟨r, l, h⟩ := traceDevice_eq s a b c d; rw [h]
@[simp] theorem State.traceDevice_rationNext (a b c d : Nat) : (s.traceDevice a b c d).rationNext = s.rationNext := by obtain ⟨r, l, h⟩ := traceDevice_eq s a b c d; rw [h]
@[simp] theorem State.traceDevice_records (a b c d : Nat) : (s.traceDevice a b c d).records = s.records := by obtain ⟨r, l, h⟩ := traceDevice_eq s a b c d; rw [h]
@[simp] theorem State.traceDevice_out (a b c d : Nat) : (s.traceDevice a b c d).out = s.out := by obtain ⟨r, l, h⟩ := traceDevice_eq s a b c d; rw [h]
@[simp] theorem State.traceDevice_draws (a b c d : Nat) : (s.traceDevice a b c d).draws = s.draws := by obtain ⟨r, l, h⟩ := traceDevice_eq s a b c d; rw [h]
@[simp] theorem State.traceDevice_trust (a b c d : Nat) : (s.traceDevice a b c d).trust = s.trust := by obtain ⟨r, l, h⟩ := traceDevice_eq s a b c d; rw [h]
@[simp] theorem State.traceDevice_plans (a b c d : Nat) : (s.traceDevice a b c d).plans = s.plans := by obtain ⟨r, l, h⟩ := traceDevice_eq s a b c d; rw [h]
@[simp] theorem State.traceDevice_run (a b c d : Nat) : (s.traceDevice a b c d).run = s.run := by obtain ⟨r, l, h⟩ := traceDevice_eq s a b c d; rw [h]
@[simp] theorem State.traceDevice_ulr (a b c d : Nat) : (s.traceDevice a b c d).ulr = s.ulr := by obtain ⟨r, l, h⟩ := traceDevice_eq s a b c d; rw [h]
@[simp] theorem State.msixSend_pending (a b : Nat) : (s.msixSend a b).pending = s.pending := by rcases msixSend_eq s a b with h | ⟨m, h⟩ <;> rw [h] <;> rfl
@[simp] theorem State.msixSend_h256 (a b : Nat) : (s.msixSend a b).h256 = s.h256 := by rcases msixSend_eq s a b with h | ⟨m, h⟩ <;> rw [h] <;> rfl
@[simp] theorem State.msixSend_mode (a b : Nat) : (s.msixSend a b).mode = s.mode := by rcases msixSend_eq s a b with h | ⟨m, h⟩ <;> rw [h] <;> rfl
@[simp] theorem State.msixSend_ticks (a b : Nat) : (s.msixSend a b).ticks = s.ticks := by rcases msixSend_eq s a b with h | ⟨m, h⟩ <;> rw [h] <;> rfl
@[simp] theorem State.msixSend_devtime (a b : Nat) : (s.msixSend a b).devtime = s.devtime := by rcases msixSend_eq s a b with h | ⟨m, h⟩ <;> rw [h] <;> rfl
@[simp] theorem State.msixSend_pins (a b : Nat) : (s.msixSend a b).pins = s.pins := by rcases msixSend_eq s a b with h | ⟨m, h⟩ <;> rw [h] <;> rfl
@[simp] theorem State.msixSend_regs (a b : Nat) : (s.msixSend a b).regs = s.regs := by rcases msixSend_eq s a b with h | ⟨m, h⟩ <;> rw [h] <;> rfl
@[simp] theorem State.msixSend_m (a b : Nat) : (s.msixSend a b).m = s.m := by rcases msixSend_eq s a b with h | ⟨m, h⟩ <;> rw [h] <;> rfl
@[simp] theorem State.msixSend_io (a b : Nat) : (s.msixSend a b).io = s.io := by rcases msixSend_eq s a b with h | ⟨m, h⟩ <;> rw [h] <;> rfl
@[simp] theorem State.msixSend_log (a b : Nat) : (s.msixSend a b).log = s.log := by rcases msixSend_eq s a b with h | ⟨m, h⟩ <;> rw [h] <;> rfl
@[simp] theorem State.msixSend_camps (a b : Nat) : (s.msixSend a b).camps = s.camps := by rcases msixSend_eq s a b with h | ⟨m, h⟩ <;> rw [h] <;> rfl
@[simp] theorem State.msixSend_dies (a b : Nat) : (s.msixSend a b).dies = s.dies := by rcases msixSend_eq s a b with h | ⟨m, h⟩ <;> rw [h] <;> rfl
@[simp] theorem State.msixSend_power (a b : Nat) : (s.msixSend a b).power = s.power := by rcases msixSend_eq s a b with h | ⟨m, h⟩ <;> rw [h] <;> rfl
@[simp] theorem State.msixSend_execs (a b : Nat) : (s.msixSend a b).execs = s.execs := by rcases msixSend_eq s a b with h | ⟨m, h⟩ <;> rw [h] <;> rfl
@[simp] theorem State.msixSend_rationNext (a b : Nat) : (s.msixSend a b).rationNext = s.rationNext := by rcases msixSend_eq s a b with h | ⟨m, h⟩ <;> rw [h] <;> rfl
@[simp] theorem State.msixSend_records (a b : Nat) : (s.msixSend a b).records = s.records := by rcases msixSend_eq s a b with h | ⟨m, h⟩ <;> rw [h] <;> rfl
@[simp] theorem State.msixSend_traceSeq (a b : Nat) : (s.msixSend a b).traceSeq = s.traceSeq := by rcases msixSend_eq s a b with h | ⟨m, h⟩ <;> rw [h] <;> rfl
@[simp] theorem State.msixSend_draws (a b : Nat) : (s.msixSend a b).draws = s.draws := by rcases msixSend_eq s a b with h | ⟨m, h⟩ <;> rw [h] <;> rfl
@[simp] theorem State.msixSend_trust (a b : Nat) : (s.msixSend a b).trust = s.trust := by rcases msixSend_eq s a b with h | ⟨m, h⟩ <;> rw [h] <;> rfl
@[simp] theorem State.msixSend_plans (a b : Nat) : (s.msixSend a b).plans = s.plans := by rcases msixSend_eq s a b with h | ⟨m, h⟩ <;> rw [h] <;> rfl
@[simp] theorem State.msixSend_run (a b : Nat) : (s.msixSend a b).run = s.run := by rcases msixSend_eq s a b with h | ⟨m, h⟩ <;> rw [h] <;> rfl
@[simp] theorem State.msixSend_ulr (a b : Nat) : (s.msixSend a b).ulr = s.ulr := by rcases msixSend_eq s a b with h | ⟨m, h⟩ <;> rw [h] <;> rfl

/-- An event on an assigned source leaves it pending. -/
theorem event_pending (n : Nat) (h : eventAssigned n = true) : (s.event n).rg .EVR_SRC_pending n = 1 := by
  unfold State.event
  simp only [h, Bool.not_true, Bool.false_eq_true, if_false]
  split
  · rename_i hp
    have : (s.ra .EVR_SRC_merged n 1).rg .EVR_SRC_pending n = s.rg .EVR_SRC_pending n := State.rg_rs_field _ _ _ _ _ (by decide) rfl (by decide)
    rw [this, hp]
  · rw [State.rg_rs _ _ _ _ (by decide)]; rfl

/-- An event leaves the fields of every register but EVR_SRC. -/
theorem event_rg (n : Nat) (g : Fld) (j : Nat) (hn : n < 0x4000) (hj : j < 0x4000) (h : g.reg ≠ .EVR_SRC) : (s.event n).rg g j = s.rg g j := by
  unfold State.event
  split
  · rfl
  · split
    · exact State.rg_ra_ne _ _ _ _ hn hj (.inl h)
    · exact State.rg_rs_ne _ _ _ _ hn hj (.inl h)

end Sys2Proof.Machine
end

