-- ==== Sys2Proof/Laws/Commands.lean ====
section
/-! SUPPORT. A fetched command's step: when it runs, and what its data and lengths come to. -/

namespace Sys2Proof.Machine

/-- A command that waits for its step runs it. -/
theorem withCmd_runs {s : State} {r : CmdRef} {op : Nat} {c : Cmd} (h : s.runs r op c) (f : Cmd → State) : s.withCmd r op f = .next (f c) := by
  obtain ⟨h1, h2, h3⟩ := h
  simp [State.withCmd, h1, h2, h3]

/-- With no such command waiting nothing happens. -/
theorem withCmd_none {s : State} {r : CmdRef} (op : Nat) (f : Cmd → State) (h : s.findCmd r = none) : s.withCmd r op f = .next s := by
  unfold State.withCmd
  rw [h]
  split <;> rfl

/-- A command whose content has exactly the length it declares passes the length rules as it is. -/
theorem wholeLen_exact {c : Cmd} {n : Nat} (h : c.avail = n) : wholeLen c n = .ok c := by
  subst h
  simp [wholeLen]

/-- An admin command's data in is not charged. -/
theorem dataIn_admin (s : State) (c : Cmd) (d : Bytes) (h : c.ref.sq = 0) (hd : d.length ≤ c.avail) : s.dataIn c d = (d, s) := by
  simp [State.dataIn, h, List.take_of_length_le hd]

end Sys2Proof.Machine
end

