-- ==== Sys2Proof/Laws/Memory.lean ====
section
/-! SUPPORT. Device memory: a write reads back, leaves every other byte alone, and keeps the canonical form. -/

namespace Sys2Proof.Machine

theorem memByte_eq (a : Nat) : ∀ m : List Host.Cell, memByte m a = mgetD memDefault a m
  | [] => rfl
  | (k, v) :: m => by
    unfold memByte mgetD mget
    split
    · rfl
    · exact memByte_eq a m

theorem memByte_memSet (m : List Host.Cell) (a : Nat) (v : Byte) : memByte (memSet m a v) a = v := by
  rw [memByte_eq]; exact mgetD_mputD_self memDefault v a m

theorem memByte_memSet_ne (m : List Host.Cell) {a b : Nat} (v : Byte) (h : b ≠ a) : memByte (memSet m a v) b = memByte m b := by
  rw [memByte_eq, memByte_eq]; exact mgetD_mputD_ne memDefault v h m

/-- Every byte outside the written range reads as before. -/
theorem memByte_memWrite_outside {b : Nat} : ∀ (l : Bytes) (m : List Host.Cell) (a : Nat), b < a ∨ a + l.length ≤ b →
    memByte (memWrite m a l) b = memByte m b
  | [], _, _, _ => rfl
  | x :: l, m, a, h => by
    simp only [List.length_cons] at h
    simp only [memWrite]
    rw [memByte_memWrite_outside l _ _ (by omega), memByte_memSet_ne m x (by omega)]

/-- A byte inside the written range reads as what was written. -/
theorem memByte_memWrite_inside : ∀ (l : Bytes) (m : List Host.Cell) (a i : Nat) (h : i < l.length), memByte (memWrite m a l) (a + i) = l[i]
  | x :: l, m, a, 0, _ => by
    simp only [memWrite, Nat.add_zero, List.getElem_cons_zero]
    rw [memByte_memWrite_outside l _ _ (by omega), memByte_memSet]
  | x :: l, m, a, i + 1, h => by
    simp only [List.length_cons] at h
    simp only [memWrite, List.getElem_cons_succ]
    rw [show a + (i + 1) = (a + 1) + i by omega]
    exact memByte_memWrite_inside l _ _ i (by omega)

theorem mem_mdel {p : Nat × Byte} {k : Nat} : ∀ {m : List Host.Cell}, p ∈ mdel k m → p ∈ m
  | [], h => h
  | (j, w) :: m, h => by
    unfold mdel at h
    split at h
    · exact List.mem_cons_of_mem _ (mem_mdel h)
    · rcases List.mem_cons.mp h with h | h
      · exact List.mem_cons.mpr (.inl h)
      · exact List.mem_cons_of_mem _ (mem_mdel h)

theorem mem_mput {p : Nat × Byte} {k : Nat} {v : Byte} : ∀ {m : List Host.Cell}, p ∈ mput k v m → p = (k, v) ∨ p ∈ m
  | [], h => .inl (by simpa [mput] using h)
  | (j, w) :: m, h => by
    unfold mput at h
    split at h
    · rcases List.mem_cons.mp h with h | h
      · exact .inl h
      · exact .inr h
    · split at h
      · rcases List.mem_cons.mp h with h | h
        · exact .inl h
        · exact .inr (List.mem_cons_of_mem _ h)
      · rcases List.mem_cons.mp h with h | h
        · exact .inr (List.mem_cons.mpr (.inl h))
        · rcases mem_mput h with h | h
          · exact .inl h
          · exact .inr (List.mem_cons_of_mem _ h)

/-- One byte's write keeps the canonical form. -/
theorem memSet_wf {m : List Host.Cell} (a : Nat) (v : Byte) (h : Memory.wf m = true) : Memory.wf (memSet m a v) = true := by
  simp only [Memory.wf, Bool.and_eq_true, List.all_eq_true] at h ⊢
  refine ⟨mwf_mputD memDefault v h.1, fun p hp => ?_⟩
  unfold memSet mputD at hp
  split at hp
  · exact h.2 p (mem_mdel hp)
  · rcases mem_mput hp with rfl | hp
    · simpa using ‹¬v = memDefault›
    · exact h.2 p hp

/-- A write keeps the canonical form. -/
theorem memWrite_wf : ∀ (l : Bytes) {m : List Host.Cell} (a : Nat), Memory.wf m = true → Memory.wf (memWrite m a l) = true
  | [], _, _, h => h
  | x :: l, _, a, h => memWrite_wf l (a + 1) (memSet_wf a x h)

/-- Writing bytes of device memory keeps the canonical form. -/
theorem memPut_wf (s : State) (da : Nat) (b : Bytes) (h : Memory.wf s.m.mem = true) : Memory.wf (s.memPut da b).m.mem = true :=
  memWrite_wf b _ h

theorem mwfFrom_filter (f : Nat × Byte → Bool) : ∀ {lo : Nat} {m : List Host.Cell}, mwfFrom lo m = true → mwfFrom lo (m.filter f) = true
  | _, [], _ => rfl
  | lo, (j, w) :: m, h => by
    simp only [mwfFrom, Bool.and_eq_true, decide_eq_true_eq] at h
    simp only [List.filter_cons]
    split
    · simp only [mwfFrom, Bool.and_eq_true, decide_eq_true_eq]; exact ⟨h.1, mwfFrom_filter f h.2⟩
    · exact mwfFrom_mono (by omega) (mwfFrom_filter f h.2)

/-- Wiping freed memory keeps the canonical form. -/
theorem wipe_wf (s : State) (da n : Nat) (h : Memory.wf s.m.mem = true) : Memory.wf (s.wipe da n).m.mem = true := by
  simp only [Memory.wf, Bool.and_eq_true, List.all_eq_true] at h ⊢
  exact ⟨mwfFrom_filter _ h.1, fun p hp => h.2 p (List.mem_filter.mp hp).1⟩

end Sys2Proof.Machine
end

