-- ==== Sys2Proof/Laws/Uliar.lean ====
section
/-! SUPPORT. What one Uliar instruction does: an issued command runs its meaning, and how the instruction ends. -/

namespace Sys2Proof.Machine

/-- An issued command runs. -/
theorem State.issues_run {s t : State} {core slot : Nat} {i : Instr} {u : UCtx} {c : Code} {ok : Bool} {f : State → UCtx → UAns UFlow}
    (h : s.issues core slot i t u) (hc : uCode i = some (core, slot, c)) : s.uRun core slot c ok f = State.uFinish core slot c none u.pos (f t u) := by
  obtain ⟨h1, ⟨w, c', h2, h3, h4⟩, h5⟩ := h
  rw [hc] at h3; cases h3
  simp [State.uRun, h1, h2, h4, h5]

/-- A half that stands at a position is the half there. -/
theorem Code.stands_half {h : BitVec 18} {w : BitVec 36} {b : Bool} (e : (Code.half h).stands w b = true) : halfOf w b = h := by simpa [Code.stands] using e

/-- An issued call runs: with its invocation, or bare. -/
theorem State.issues_ecall {s t : State} {core slot n : Nat} {i : Instr} {u : UCtx} {bare : State → UCtx → UAns UFlow} {f : State → UCtx → Invocation → UAns UFlow}
    (h : s.issues core slot i t u) (hc : uCode i = some (core, slot, .half (encI 0x2D 0 (BitVec.ofNat 8 n)))) (hn : n ≠ 0) (h9 : n ≤ 9) :
    s.uEcall core slot n bare f = State.uFinish core slot (.half (encI 0x2D 0 (BitVec.ofNat 8 n))) none u.pos (match u.inv with | some v => f t u v | none => bare t u) := by
  have hr := fun (ok : Bool) (g : State → UCtx → UAns UFlow) => State.issues_run (ok := ok) (f := g) h hc
  obtain ⟨h1, ⟨w, c, h2, h3, h4⟩, -⟩ := h
  rw [hc] at h3; cases h3
  have hw := Code.stands_half h4
  have hb : bits (encI 0x2D 0 (BitVec.ofNat 8 n)).toNat 0 8 = n := by
    have : ∀ m : Fin 10, bits (encI 0x2D 0 (BitVec.ofNat 8 m.val)).toNat 0 8 = m.val := by decide
    exact this ⟨n, by omega⟩
  have hz : (n = 0 || decide (9 < n)) = false := by simp; omega
  unfold State.uEcall
  rw [h2, h1]
  simp only [hw, hb, Bool.not_true, bne_self_eq_false, hz, Bool.false_eq_true, if_false]
  refine (hr false _).trans ?_
  cases u.inv <;> rfl

/-- An instruction that ends with control going on. -/
@[simp] theorem State.uFinish_seq (core slot : Nat) (c : Code) (p : UPos) (t : State) (u : UCtx) :
    State.uFinish core slot c none p (.ok t u .seq) = .next (t.stepped core slot { u with pos := c.after u.pos }) := rfl
/-- An instruction that ends with a transfer: its slot comes next. -/
@[simp] theorem State.uFinish_branch (core slot : Nat) (c : Code) (p : UPos) (t : State) (u : UCtx) (q : UPos) (taken : Bool) (a : StackAct) :
    State.uFinish core slot c none p (.ok t u (.branch q taken a)) = .next (t.stepped core slot { u with pos := c.after u.pos, xfer := some ⟨u.pos, q, taken, a⟩ }) := rfl
/-- An instruction that ends at a position at once. -/
@[simp] theorem State.uFinish_goto (core slot : Nat) (c : Code) (p : UPos) (t : State) (u : UCtx) (q : UPos) (x : Option Xfer) :
    State.uFinish core slot c none p (.ok t u (.goto q x)) = .next (t.stepped core slot { u with pos := q, xfer := x }) := rfl
/-- An instruction that has done everything itself. -/
@[simp] theorem State.uFinish_done (core slot : Nat) (c : Code) (x : Option Xfer) (p : UPos) (t : State) (u : UCtx) :
    State.uFinish core slot c x p (.ok t u .done) = .next ((t.retire core).reap (ctxKey core slot)) := rfl
/-- An instruction that raises an exception outside a delay slot. -/
@[simp] theorem State.uFinish_exc (core slot : Nat) (c : Code) (p : UPos) (t : State) (u : UCtx) (e : UExc) :
    State.uFinish core slot c none p (.exc t u e) = .next (t.raise core slot { u with xfer := none } e p none) := rfl
/-- An instruction on which the device halts. -/
@[simp] theorem State.uFinish_halted (core slot : Nat) (c : Code) (x : Option Xfer) (p : UPos) (t : State) : State.uFinish core slot c x p (.halted t) = .next t := rfl

end Sys2Proof.Machine
end

