-- ==== Sys2Proof/Tests/Slice0.lean ====
section
/-! SUPPORT. Tests: ill-formed operands that WellFormed refuses; for every statement with hypotheses a state and operands that meet them; and single steps whose results
the manual gives. -/

namespace Sys2Proof.Test

set_option Elab.async false

open Sys2Proof Sys2Proof.Machine

/-! ### Small states -/

/-- SERVICE with the link up and two VFs. -/
def svc : State := { State.reset with mode := .service, host := { HostState.empty with link := ⟨true, 0, 0, 2, []⟩ } }
/-- A fetched command of Camp `camp` on queue `sq`. -/
def cmd (op sq camp : Nat) (words : List Nat) (n : Nat) : Cmd := ⟨1, ⟨0, sq, 5⟩, sq, camp, op, false, words, n, false, false, false, .fetched, 0, none, 0⟩
/-- SERVICE with one command waiting. -/
def one (c : Cmd) : State := { svc with host := { svc.host with cmds := [c] } }
/-- An empty SQ of depth 4, and an empty CQ of depth 4. -/
def sq4 : Sq := ⟨0, 0, 4, 0x1000, 0, 0⟩
def cq4 : Cq := ⟨0, 4, 0x2000, 3, true, 0, 0, 0, 0, 0, 0, []⟩
def ring4 : Ring := ⟨0, 4, 0x3000, 0, true, 0, 0, 0, 0, 0, [], []⟩
/-- SERVICE with the PF's admin queues and ring 0. -/
def queues : State := { svc with host := { svc.host with sqs := [(0, { sq4 with tail := 1 })], cqs := [(0, cq4)], rings := [(0, ring4)] } }

/-- Sixteen command words from those that are not 0. -/
def words (l : Map Nat) : List Nat := (List.range 16).map (fun k => mgetD 0 k l)
/-- Bytes from 32-bit words. -/
def wbytes (l : List Nat) : Bytes := l.flatMap (leBytes 4)
/-- A state with one more record under a key. -/
def withPlan (s : State) (p : Plan) : State := { s with plans := { s.plans with plans := [(0, ⟨1, 0, 0, 1, false, some p⟩)] } }
/-- A plan with nothing in it, and its handle (Camp 0, slot 0, generation 1). -/
def noPlan : Plan := ⟨1, false, [], [], [], [], [], []⟩
def handle0 : Nat := 2 ^ 24
/-- A plan image written out from Tables 08-3 to 08-10: one fragment of SCAN (parameter 0, column 0) and TABLE_WRITE (parameter 1, encoding 0), seeded by EXECUTE. -/
def image : Bytes := wbytes ([0x00019D1A, 160, 0x201, 0x2002, 0x20000, 0, 64, 80, 128, 144, 144, 160, 0, 0, 0, 0xF9F7657C] ++ [0x2000, 1, 0, 0] ++
  [0x501, 0x100, 0x8000, 0x10000, 0] ++ [0x50C, 1, 0, 1, 0] ++ [0, 0] ++ [0xFFF, 0, 0, 0] ++ [0x2000000, 0, 0x2000000, 0])

/-- A running execution of the plan in slot 0, for a command. -/
def run0 : Exec := ⟨0, 0, .command 1, 0, 0xFFFF, false, 0, none, false, false, 0, [], [], [], [], [], [], [], [], [], [], [], [], [], 0, 0, [], 0, [], [], 0, 0, []⟩
/-- A task's work with a batch in hand at operator i. -/
def workAt (i : Nat) (body : TokBody) (b : List Batch) : Work := ⟨1, 0, 0, 0, 0, body, none, 1, [], b.map (fun x => (i, x)), [], [], [], 0, [], [], [], [], [], none, [], [], 0, [], false, false, none⟩
def work (body : TokBody) (b : List Batch) : Work := workAt 0 body b
/-- A plan of one fragment. -/
def planOf (ops : List PlanOp) : Plan := { noPlan with frags := [⟨0, ops.length, 0, 0, false, [0], 0⟩], ops := ops }
/-- A task with tag 5 on die 0 of execution `e` of a plan. -/
def tasksOf (p : Plan) (e : Exec) (w : Work) : State := { withPlan svc p with execs := [(1, e)], run := { svc.run with works := [(5, w)] } }
def tasks (ops : List PlanOp) (w : Work) : State := tasksOf (planOf ops) run0 w
/-- That task. -/
def taskIn (p : Plan) (e : Exec) (w : Work) : Task := ⟨5, w, e, p, ⟨0, p.ops.length, 0, 0, false, [0], 0⟩⟩
def taskOf (ops : List PlanOp) (w : Work) : Task := taskIn (planOf ops) run0 w
/-- An INT64 value and a batch of one row that holds it. -/
def v64 (n : Nat) : ColVal := .dig (natDigs 16 n)
def batch1 (l : List Column) : Batch := ⟨0, 1, l, [true], []⟩
def col64 (n : Nat) : Column := ⟨ColType.int64, none, [v64 n]⟩
/-- An entry of the running task of `tasks`, in a state. -/
def entry5 (st : EntryState) (epoch : Nat) : Entry := { Entry.fresh with state := st, epoch := epoch, exec := 1 }
def withEntry (s : State) (e : Entry) : State := s.setEntry 0 5 e
/-- A token of fragment 0 of execution 1 for die 0, before its header. -/
def tok : NetTok := ⟨1, 0, 0, .seed 0 0, .any, none, none, 0, false, none⟩
def withTok (s : State) (k : NetTok) : State := { s with run := { s.run with net := [(0, k)] } }
/-- A work with hashes for its batch's rows. -/
def hashed (w : Work) (n : Nat) : Work := { w with made := [⟨⟨tUint64, 0, 0⟩, none, List.replicate n (.dig (natDigs 16 7))⟩] }
/-- The header of an INT64 PLAIN block of one row (Table 02-2). -/
def hdr64 : Hdr := ⟨ColType.int64, 16, 0, 1, 0, false, false, false, false, 0, 66048, 0, 0, 0, List.replicate 32 0, List.replicate 32 0, 0⟩
def scanned (h : Option Hdr) (t : Option Bytes) : ColScan := ⟨256, true, h, t, [], none⟩
def lz (n : Nat) : Bytes := List.replicate n 0
def nop : PlanOp := ⟨[], [], .hash⟩
/-- An Except value that is a value. -/
def oks {ε α : Type} : Except ε α → Bool
  | .ok _ => true
  | .error _ => false
/-- Pages there were enough of. -/
def paged {α : Type} : Paged α → Bool
  | .ok _ _ _ => true
  | .wait | .full => false
/-- The columns of the batch in hand are values already. -/
def filled (cs : List Nat) (s : State) (w : Work) (b : Batch) : Bool :=
  match fillCols cs s w b [] with
  | (u, .ok v c) => decide (u = s) && decide (v = w) && decide (c = b)
  | _ => false
/-- A batch of one row with a null INT64, and the build of join 0 over its one column. -/
def nullCol : Column := ⟨ColType.int64, none, [.null]⟩
def build0 (kind budget : Nat) : PlanOp := ⟨[0], [], .joinBuild 0 kind false 1 1 budget⟩
/-- The record of the value 5 under the hash of `hashed`, and a table that holds it. -/
def rec5 : Rec := ⟨7, rowKeyForm [col64 5] 0, [], false⟩
def tab5 : JoinTab := (JoinTab.fresh 0 0 4).insert rec5
/-- SCAN of one INT64 column, a RIGHT probe of join 0 by it, and the build; the execution's snapshot of the table. -/
def probe0 : List PlanOp := [⟨[], [⟨true, 0⟩], .scan 0 [0]⟩, ⟨[0], [⟨false, 0⟩, ⟨true, 0⟩], .joinProbe 0 2⟩, build0 2 1]
def run5 (l : Map JoinTab) : Exec := { run0 with snaps := [(0, ⟨0, [⟨ColType.int64, [], []⟩], [], 0, false⟩)], joins := l }
/-- Its partition, spilled. -/
def part5 : Part := Part.fresh 0 (partPath 0 0 (spillDigit 7 0)) (.recs [])
/-- A final COUNT aggregate by its one column over the SCAN of `probe0`, with a budget, and the entry of a value. -/
def agg0 (keys : Nat) (final : Bool) (budget : Nat) : List PlanOp :=
  [⟨[], [⟨true, 0⟩], .scan 0 [0]⟩, ⟨[0], [], .aggregate keys final budget [⟨0, 0, 0, ColType.int64⟩]⟩]
def group (h v : Nat) : GEntry := ⟨h, rowKeyForm [col64 v] 0, 1, [.count 1]⟩
def groups (l : List GEntry) (parts : List Part) (units : Nat) : Exec := { run5 [] with groups := [(groupKey 1 0, ⟨0, 0, l, parts, units⟩)] }
/-- A partition with a page that is being filled. -/
def partOf (level : Nat) (body : PageBody) (image : Bytes) : Part :=
  ⟨level, 0, ⟨[], some pageDigits, body, image⟩, PageSet.none (.recs [])⟩
/-- Is a spill, a pass or a chunk done? -/
def spilled {α : Type} : Except (HeapFault × Nat) (Option (Paged α)) → Bool
  | .ok (some p) => paged p
  | _ => false
/-- The tables of a Camp map its first 2^31 digits to themselves for reading and writing, and the next 2^31 for reading and fetching. -/
def mapped (s : State) (camp : Nat) : State :=
  (((s.rs .XLT_ROOT_valid camp 1).rs .XLT_ROOT_base camp 0x100000).memPut 0x100000 (leBytes 8 (1 + 512 * camp + 2 ^ 27 * (0x200000 / 512)))).memPut 0x200000
    (leBytes 8 (1 + 2 + 64 + 128 + 512 * camp) ++ leBytes 8 (1 + 2 + 64 + 256 + 512 * camp + 2 ^ 27 * (2 ^ 31 / 512)))
/-- The first of these translations. -/
def xlt0 (camp : Nat) : Xlt := ⟨camp, 0, 2 ^ 31, 0, 0, 0, true, true, false⟩
/-- A core's context 0 of core 128: code at Uliar address 0, data and EXIT's result in apertures 1 and 5, room on both stacks, and general registers given. -/
def ctxWith (g : List (Nat × Nat)) : UCtx :=
  let u := ([(0x10, 16384), (0x20, 0xFFFF + 2 ^ 18 + 2 ^ 20), (0x11, 24), (0x21, 16 + 2 ^ 16 + 2 ^ 17 + 2 ^ 20), (0x15, 32), (0x25, 16 + 2 ^ 16 + 2 ^ 20),
    (8, 2 ^ 32 + 900), (9, 2 ^ 32), (0xB, 64)] : List (Nat × Nat)).foldl (fun (u : UCtx) x => u.setCreg x.1 x.2) UCtx.empty
  g.foldl (fun (u : UCtx) x => u.setG x.1 (BitVec.ofNat 36 x.2)) u
def ctx0 : UCtx := ctxWith [(1, 2 ^ 32), (2, 3), (3, 5)]
/-- A word that holds a command's code at its first half. -/
def wordOf (i : Instr) : BitVec 36 :=
  match uCode i with
  | some (_, _, .half h) => h ++ (0x01000 : BitVec 18)
  | some (_, _, .word w) => w
  | none => 0
/-- Core 128 runs, and that word stands at its context's first position. -/
def uState (w : BitVec 36) (u : UCtx) : State :=
  let s := ((mapped svc 0).memPut (2 ^ 31) (leBytes 5 w.toNat)).rs .ULR_CORE_CTL_enable 128 1
  { s with ulr := { s.ulr with ctxs := [(ctxKey 128 0, u)] } }
/-- The command's code is fetched with the transfer given, and what holds after the fetch. -/
def meetsIn (s : State) (i : Instr) (x : Option Xfer) (p : State → UCtx → Bool) : Bool :=
  s.uReady 128 0 && match s.uFetch 128 (s.uctx (ctxKey 128 0)), uCode i with
    | .ok t v w, some (c, k, code) => decide (c = 128 ∧ k = 0) && code.stands w v.pos.half && decide (v.xfer = x) && p t v
    | _, _ => false
def meets (i : Instr) (u : UCtx) (x : Option Xfer) (p : State → UCtx → Bool) : Bool := meetsIn (uState (wordOf i) u) i x p

theorem meets_fetches (s : State) (i : Instr) (x : Option Xfer) (p : State → UCtx → Bool) (h : meetsIn s i x p = true) :
    ∃ t v, s.uReady 128 0 = true ∧ (∃ w c, s.uFetch 128 (s.uctx (ctxKey 128 0)) = .ok t v w ∧ uCode i = some (128, 0, c) ∧ c.stands w v.pos.half = true) ∧ v.xfer = x ∧ p t v = true := by
  unfold meetsIn at h
  simp only [Bool.and_eq_true] at h
  obtain ⟨hr, h⟩ := h
  split at h
  · rename_i t v w c k code hf hc
    simp only [Bool.and_eq_true, decide_eq_true_eq] at h
    obtain ⟨⟨⟨⟨rfl, rfl⟩, hs⟩, hx⟩, hp⟩ := h
    exact ⟨t, v, hr, ⟨w, code, hf, hc, hs⟩, hx, hp⟩
  · cases h
/-- What `meetsIn` says is the statements' premise outside a slot, and in one. -/
theorem issues_of_meets (s : State) (i : Instr) (p : State → UCtx → Bool) (h : meetsIn s i none p = true) : ∃ t v, s.issues 128 0 i t v ∧ p t v = true := by
  obtain ⟨t, v, hr, hw, hx, hp⟩ := meets_fetches s i none p h
  exact ⟨t, v, ⟨hr, hw, hx⟩, hp⟩
theorem issuesSlot_of_meets (s : State) (i : Instr) (x : Xfer) (p : State → UCtx → Bool) (h : meetsIn s i (some x) p = true) : ∃ t v, s.issuesSlot 128 0 i t v x ∧ p t v = true := by
  obtain ⟨t, v, hr, hw, hx, hp⟩ := meets_fetches s i (some x) p h
  exact ⟨t, v, ⟨hr, hw, hx⟩, hp⟩

/-! ### Statements' hypotheses: board, link, functions -/

/-- BoardResets: an edge low, a countdown that ends, one that does not, a latched trip. -/
theorem witness_BoardResets :
    (let s : State := { State.reset with mode := .reset, pins := { State.reset.pins with resetHigh := false, lastEdge := 0 } }
     s.pins.resetHigh = false) ∧
    ({ State.reset with pins := { State.reset.pins with aonGood := false } } : State).pins.aonGood = false ∧
    (let s : State := { State.reset with pins := { State.reset.pins with mainGood := false } }
     s.pins.aonGood = true ∧ s.pins.mainGood = false) ∧
    (let s : State := { State.reset with mode := .reset }
     s.mode = .reset ∧ s.pins.allHigh = true ∧ s.pins.thermTrip = false ∧ s.pins.lastEdge + 5000 ≤ s.ticks + 5000 ∧ s.ticks + 4999 < s.pins.lastEdge + 5000) ∧
    ({ State.reset with pins := { State.reset.pins with thermTrip := true } } : State).pins.thermTrip = true := by decide +kernel

/-- BoardPins: PROCHOT_N and a GPIO edge of exactly 2 ticks, and of 1; a trip in RESET and in a running mode. -/
theorem witness_BoardPins :
    svc.alive = true ∧ svc.pins.prochot = false ∧ ({ svc with pins := { svc.pins with prochot := true } } : State).pins.prochot = true ∧
    svc.pins.mainGood = true ∧ ({ State.reset with mode := .reset } : State).pins.mainGood = true ∧ (7 < 8 ∧ 2 ≤ 2 ∧ 1 < 2 ∧ svc.pins.gpio.getLsbD 7 ≠ true ∧ svc.pins.gpio.getLsbD 7 = false) := by
  decide +kernel

/-- LinkAndConfiguration: a present function before and after it is ready, an absent one; a link that may come up; an IDE stream. -/
theorem witness_LinkAndConfiguration :
    (svc.mode ≠ .reset ∧ svc.mode ≠ .halted ∧ svc.host.link.up = true ∧ svc.fnOk 3 = false ∧ svc.fnOk 2 = true ∧ ¬ svc.ticks < svc.host.link.readyAt ∧ ¬ svc.ticks < svc.host.link.vfReadyAt) ∧
    (let s : State := { svc with host := { svc.host with link := { svc.host.link with readyAt := 1, vfReadyAt := 1 } } }
     s.ticks < s.host.link.readyAt ∧ s.ticks < s.host.link.vfReadyAt) ∧
    (State.reset.mode ≠ .reset ∧ State.reset.host.link.up = false ∧ State.reset.pins.perstHigh = true ∧ State.reset.pins.refclkOk = true) ∧
    (let s : State := { svc with host := { svc.host with link := { svc.host.link with ide := [⟨4, true, 0, []⟩] } } }
     s.host.link.ide.any (fun i => i.id == 4 && i.secure) = true) := by decide +kernel

/-- FunctionLives: a function not yet enabled, one enabled, VFs, and PTM offsets of 1 ms and just beyond. -/
theorem witness_FunctionLives :
    (svc.alive = true ∧ svc.host.link.up = true ∧ svc.fnOk 0 = true ∧ svc.rg .HIF_CTL_enable 0 ≠ 1 ∧ svc.host.link.vfs ≠ 0) ∧
    ((svc.rs .HIF_CTL_enable 0 1).rg .HIF_CTL_enable 0 ≠ 0 ∧ (svc.rs .HIF_PTM_enable 0 1).rg .HIF_PTM_enable 0 ≠ 0) ∧
    (let s := svc.rs .HIF_PTM_enable 0 1
     let off (m : BitVec 64) : Int := (m.toNat : Int) - ((s.advance 0).devtime.toNat : Int)
     (off 1000000 ≤ 1000000 ∧ -1000000 ≤ off 1000000) ∧ 1000000 < off 1000001) := by decide +kernel

theorem witness_FunctionLives_answers : svc.answers 0 := ⟨by decide, by decide, rfl, rfl⟩

/-- Doorbells: values at and past the depth of an SQ, a CQ and a ring; a queue that is not there; a fetch that the arbitration chooses, and none. -/
theorem witness_Doorbells :
    queues.answers 0 ∧ doorbellValue 4 3 = some 3 ∧ doorbellValue 8 4 = some 4 ∧ mget (fq 0 0) queues.host.sqs = some { sq4 with tail := 1 } ∧ mget (fq 0 0) queues.host.cqs = some cq4 ∧
    mget (fq 0 0) queues.host.rings = some ring4 ∧ slotsFrom 4 0 3 ≤ slotsFrom 4 0 3 ∧ mget (fq 0 4096) queues.host.sqs = none ∧ 4096 ≤ ioQueues 0 ∧
    svc.arbitrate = none ∧ (({ queues with host := { queues.host with cqs := [(0, { cq4 with tail := 0 })] } } : State).arbitrate).map (fun x => (x.1, x.2.1)) = some (0, 0) :=
  ⟨⟨by decide, by decide, rfl, rfl⟩, by decide +kernel⟩

/-- CompletionQueueWrites: an entry waits for a CQ with space and for a full one; a retained completion of an attached Camp. -/
theorem witness_CompletionQueueWrites :
    let e : Cqe := ⟨0, 0, 0, 0, 5, false, 0⟩
    let s : State := { queues with host := { queues.host with engine := [⟨0, 0, 0, e⟩] } }
    let k : State := State.rs { queues with host := { queues.host with repost := [(1, 0)], retained := [(1, [e])] } } .HIF_ATTACH_attached 1 1
    s.alive = true ∧ s.host.link.up = true ∧ s.host.engine.find? (fun w => w.fn == 0 && w.cq == 0) = some ⟨0, 0, 0, e⟩ ∧ mget (fq 0 0) s.host.sqs ≠ none ∧
    cq4.full = true ∧ ({ cq4 with tail := 2 } : Cq).full = false ∧
    k.rg .HIF_ATTACH_attached 1 ≠ 0 ∧ mget 1 k.host.repost = some 0 ∧ mgetD [] 1 k.host.retained = [e] ∧ mget 0 k.host.cqs = some cq4 := by decide +kernel

/-- HostTimers: a coalescing timer at its tick and one tick before; a masked vector; an open buffer that is full, and idle; a challenge and a lockout at their ends. -/
theorem witness_HostTimers :
    let g : Cq := { cq4 with since := 1, timeUs := 2, oldest := 10 }
    let o : OpenBuf := ⟨⟨0, true, 64, 0, 0⟩, 1, 5, 64, 0, 0, true, 0⟩
    let st : Stream := ⟨1, 0, 0, 1, 5, 0, [], true, none⟩
    let s : State := { queues with host := { queues.host with cqs := [(0, g)], msix := [(0, ⟨0, 0, true, true⟩)], streams := [st], rings := [(0, { ring4 with opens := [o] })], challenges := [(1, ⟨0, [], 25⟩)], lockout := [(1, 25)] } }
    (0 < g.since ∧ 0 < g.timeUs ∧ g.oldest + g.timeUs * ticksPerUs ≤ s.ticks + 60 ∧ s.ticks + 59 < g.oldest + g.timeUs * ticksPerUs) ∧ mget (fq 0 0) s.host.cqs = some g ∧
    mget (0 * 2048 + 0) s.host.msix = some ⟨0, 0, true, true⟩ ∧ 2047 < vectorCount 0 ∧ s.streamOf 0 0 1 5 = some st ∧ ({ ring4 with opens := [o] } : Ring).openOf st = some o ∧
    o.buf.len ≤ o.bytes ∧ 0 < o.bytes ∧ st.msgs = [] ∧ o.lastTick + 50 * ticksPerUs ≤ s.ticks + 1250 ∧
    mget 1 s.host.challenges = some ⟨0, [], 25⟩ ∧ 25 ≤ s.ticks + 25 ∧ s.ticks + 24 < 25 ∧ mget 1 s.host.lockout = some 25 := by decide +kernel

/-- CompletionHandedOverOnce. -/
theorem witness_CompletionHandedOverOnce : svc.alive = true ∧ (cmd 1 0 0 [] 0).gone = false := by decide


/-! ### Statements' hypotheses: commands -/

/-- QueueAndReportCommands: each command with operands that pass its checks, at the ends of their ranges. -/
theorem witness_QueueAndReportCommands_queues :
    (let c := cmd 5 0 0 (words [(9, 4096 + 65536), (10, 65536)]) 0
     let s := { one c with host := { (one c).host with cqs := [(1, cq4)] } }
     s.runs c.ref 5 c ∧ c.dataPtr % 4096 = 0 ∧ bits (c.w 9) 16 16 ≠ 0 ∧ bits (c.w 9) 0 16 ≠ 0 ∧ bits (c.w 9) 0 16 ≤ ioQueues c.ref.fn ∧
       mhas (fq c.ref.fn (bits (c.w 9) 0 16)) s.host.sqs = false ∧ bits (c.w 10) 16 16 ≠ 0 ∧ mget (fq c.ref.fn (bits (c.w 10) 16 16)) s.host.cqs = some cq4 ∧ cq4.camp = bits (c.w 10) 0 10) ∧
    (let c := cmd 7 0 0 (words [(9, 4096 + 65536), (10, 2047 * 1024), (11, 256)]) 0
     (one c).runs c.ref 7 c ∧ bits (c.w 10) 10 11 < vectorCount c.ref.fn ∧ coalesceOk (c.w 11) = true ∧ bits (c.w 9) 0 16 ≤ ioQueues c.ref.fn ∧ bits (c.w 9) 0 16 ≠ 0 ∧ bits (c.w 9) 16 16 ≠ 0 ∧
       mhas (fq c.ref.fn (bits (c.w 9) 0 16)) (one c).host.cqs = false) ∧
    (let c := cmd 9 0 0 (words [(9, 4095 + 65536), (10, 0), (11, 1)]) 0
     (one c).runs c.ref 9 c ∧ coalesceOk (c.w 11) = true ∧ bits (c.w 9) 0 16 < ringCount c.ref.fn ∧ bits (c.w 9) 16 16 ≠ 0 ∧ mhas (fq c.ref.fn (bits (c.w 9) 0 16)) (one c).host.rings = false) := by
  refine ⟨⟨⟨rfl, rfl, rfl⟩, ?_⟩, ⟨⟨rfl, rfl, rfl⟩, ?_⟩, ⟨⟨rfl, rfl, rfl⟩, ?_⟩⟩ <;> decide +kernel

theorem witness_QueueAndReportCommands_deletes :
    (let c := cmd 8 0 0 (words [(9, 1)]) 0
     let s := { one c with host := { (one c).host with cqs := [(1, cq4)] } }
     s.runs c.ref 8 c ∧ bits (c.w 9) 0 16 ≠ 0 ∧ mhas (fq c.ref.fn (bits (c.w 9) 0 16)) s.host.cqs = true ∧
       s.host.sqs.any (fun p => p.1 / 65536 == c.ref.fn && p.1 % 65536 != 0 && p.2.cq == bits (c.w 9) 0 16) = false) ∧
    (let c := cmd 0xA 0 0 (words []) 0
     let s := { one c with host := { (one c).host with rings := [(0, ring4)] } }
     s.runs c.ref 0xA c ∧ mhas (fq c.ref.fn (bits (c.w 9) 0 16)) s.host.rings = true ∧ s.host.cmds.any (namesRing c.ref.fn (bits (c.w 9) 0 16)) = false) ∧
    (let c := cmd 6 0 0 (words [(9, 1)]) 0
     let s := { one c with host := { (one c).host with sqs := [(1, sq4)] } }
     s.runs c.ref 6 c ∧ bits (c.w 9) 0 16 ≠ 0 ∧ mhas (fq c.ref.fn (bits (c.w 9) 0 16)) s.host.sqs = true) := by
  refine ⟨⟨⟨rfl, rfl, rfl⟩, ?_⟩, ⟨⟨rfl, rfl, rfl⟩, ?_⟩, ⟨⟨rfl, rfl, rfl⟩, ?_⟩⟩ <;> decide +kernel

theorem witness_QueueAndReportCommands_reports :
    (let c := cmd 1 0 0 (words []) 0
     (one c).runs c.ref 1 c ∧ bits (c.w 1) 0 8 = 0) ∧
    (let c := cmd 1 0 0 (words [(1, 1)]) 0
     (one c).runs c.ref 1 c ∧ bits (c.w 1) 0 8 = 1) ∧
    (let c := cmd 2 0 0 (words [(1, 1)]) 0
     (one c).runs c.ref 2 c ∧ bits (c.w 1) 0 8 ≠ 5 ∧ bits (c.w 1) 8 1 = 0 ∧ c.ref.fn = 0 ∧ c.w 11 = 0 ∧ (one c).logBytes (bits (c.w 1) 0 8) (bits (c.w 9) 0 10) ⟨c.ref.fn, bits (c.w 10) 0 16, 0⟩ = some []) ∧
    (let c := cmd 3 0 0 (words [(1, 1)]) 0
     (one c).runs c.ref 3 c ∧ bits (c.w 1) 0 8 = 1 ∧ c.w 9 = 0 ∧ c.w 10 = 0) ∧
    (let c := cmd 4 0 0 (words [(1, 2), (9, 1), (11, 256)]) 0
     let s := { one c with host := { (one c).host with cqs := [(1, cq4)] } }
     s.runs c.ref 4 c ∧ bits (c.w 1) 0 8 = 2 ∧ c.w 9 = bits (c.w 9) 0 16 ∧ c.w 9 ≠ 0 ∧ c.w 10 = 0 ∧ coalesceOk (c.w 11) = true ∧ rz (c.w 11) 9 7 = true ∧ rz (c.w 11) 26 6 = true ∧
       mget (fq c.ref.fn (c.w 9)) s.host.cqs = some cq4) ∧
    (let c := cmd 4 0 0 (words [(1, 4), (9, 1023)]) 0
     (one c).runs c.ref 4 c ∧ bits (c.w 1) 0 8 = 4 ∧ c.w 9 < 1024 ∧ rz (c.w 11) 19 13 = true) := by
  refine ⟨⟨⟨rfl, rfl, rfl⟩, ?_⟩, ⟨⟨rfl, rfl, rfl⟩, ?_⟩, ⟨⟨rfl, rfl, rfl⟩, ?_⟩, ⟨⟨rfl, rfl, rfl⟩, ?_⟩, ⟨⟨rfl, rfl, rfl⟩, ?_⟩, ⟨⟨rfl, rfl, rfl⟩, ?_⟩⟩ <;> decide +kernel

/-- A Camp descriptor with the least of each field (Table 12-9), and a wrapped-key blob of 96 bytes in form (Table 15-22). -/
def desc : Bytes := wbytes ([0x200010, 1, 0, 1, 0, 0, 0, 0] ++ [1, 0, 1, 0, 1, 0, 1, 0, 1, 0, 1, 0] ++ List.replicate 12 0) ++ wbytes ([0x30013B7E, 0] ++ List.replicate 22 0)

/-- CampCommandsComplete: Camp IDs at both ends, a tenant Camp to destroy, one in teardown and idle, Rations at their least and greatest, an owned slot. -/
theorem witness_CampCommandsComplete :
    (let c := cmd 0x10 0 0 (words []) 224
     (one c).runs c.ref 0x10 c ∧ c.ref.sq = 0 ∧ c.avail = 224 ∧ desc.length = 224 ∧ descFieldsOk desc = true ∧ descMoraineOk ((one c).farBytes != 0) desc = true ∧
       blobOk (bslice desc 128 96) = true ∧ (one c).campState 1 = .free ∧ (one c).campState 1023 = .free ∧ (one c).fits desc = true ∧ 1 ≤ word32 desc 3) ∧
    (let c := cmd 0x11 0 0 (words [(9, 1)]) 0
     let s := ((one c).rs .CPM_STATE_kind 1 1).rs .CPM_STATE_state 1 1
     s.runs c.ref 0x11 c ∧ bits (c.w 9) 0 10 ≠ 0 ∧ s.campKind (bits (c.w 9) 0 10) = 1 ∧ s.campState (bits (c.w 9) 0 10) ≠ .teardown) ∧
    (let c := cmd 0x12 0 0 (words [(9, 1), (10, 63)]) 48
     let d := wbytes [1, 0, 1, 0, 1, 0, 1, 0, 1, 0, 2 ^ 32 - 1, 255]
     (one c).runs c.ref 0x12 c ∧ c.ref.sq = 0 ∧ c.avail = 48 ∧ d.length = 48 ∧ bits (c.w 9) 0 10 ≠ 0 ∧ (∀ k < 6, 0 < word64 d (2 * k) ∧ word64 d (2 * k) < 2 ^ 40)) ∧
    (let c := cmd 0x15 0 0 (words [(9, 1), (10, 32 + 8)]) 0
     let s : State := { one c with trust := { (one c).trust with copies := [(8, ⟨1, []⟩)] } }
     s.runs c.ref 0x15 c ∧ bits (c.w 10) 5 1 = 1 ∧ s.ownsSlot (bits (c.w 9) 0 10) (bits (c.w 10) 0 5) = true) ∧
    (let s := svc.rs .CPM_STATE_state 1 4
     s.alive = true ∧ s.campState 1 = .teardown ∧ s.campIdle 1 = true) := by
  refine ⟨⟨⟨rfl, rfl, rfl⟩, ?_⟩, ⟨⟨rfl, rfl, rfl⟩, ?_⟩, ⟨⟨rfl, rfl, rfl⟩, ?_⟩, ⟨⟨rfl, rfl, rfl⟩, ?_⟩, ?_⟩ <;> decide +kernel

/-- AttachAbortAndFlush: a challenge asked for, and proved just in time; an ABORT that names an abortable command, one that is not, and none. -/
theorem witness_AttachAbortAndFlush :
    (let c := cmd 0x13 0 0 (words [(8, 32), (9, 1)]) 0
     (one c).runs c.ref 0x13 c ∧ bits (c.w 9) 0 10 ≠ 0 ∧ (one c).campKind (bits (c.w 9) 0 10) ≠ 2 ∧ (one c).attachedElsewhere c (bits (c.w 9) 0 10) = false ∧
       c.w 1 = 0 ∧ bits (c.w 9) 16 16 = 0 ∧ 32 ≤ c.w 8 ∧ c.w 4 = 0 ∧ mhas (bits (c.w 9) 0 10) (one c).host.lockout = false) ∧
    (let c := cmd 0x13 0 0 (words [(1, 1), (9, 1)]) 48
     let s : State := { one c with host := { (one c).host with cqs := [(0, cq4)], challenges := [(1, ⟨0, [], 1⟩)] }, camps := [(1, ⟨0, 0, 0, 0, 0, 0, 0, 0, 0, 0, 0, 0, [], none, 0⟩)] }
     s.runs c.ref 0x13 c ∧ c.w 1 = 1 ∧ c.avail = 48 ∧ mhas (fq c.ref.fn (bits (c.w 9) 16 16)) s.host.cqs = true ∧ mget (bits (c.w 9) 0 10) s.host.challenges = some ⟨0, [], 1⟩ ∧ s.ticks < 1 ∧
       (mget (bits (c.w 9) 0 10) s.camps).isSome = true) ∧
    (let c := cmd 0x14 0 0 (words [(9, 1)]) 0
     let d : Cmd := { cmd 0x40 1 0 [] 0 with uid := 2, ref := ⟨0, 1, 0⟩ }
     let s : State := { svc with host := { svc.host with cmds := [c, d] } }
     s.runs c.ref 0x14 c ∧ s.host.cmds.reverse.find? (fun d => d.ref == ⟨c.ref.fn, bits (c.w 9) 0 16, bits (c.w 9) 16 16⟩ && !d.gone && d.uid != c.uid) = some d ∧ notAbortable d.op = false ∧ notAbortable 0x11 = true) ∧
    (let c := cmd 0x14 0 0 (words [(9, 1)]) 0
     (one c).runs c.ref 0x14 c ∧ (one c).host.cmds.reverse.find? (fun d => d.ref == ⟨c.ref.fn, bits (c.w 9) 0 16, bits (c.w 9) 16 16⟩ && !d.gone && d.uid != c.uid) = none ∧
       c.ref ≠ ⟨c.ref.fn, bits (c.w 9) 0 16, bits (c.w 9) 16 16⟩) ∧
    (let c := cmd 0x49 1 0 (words []) 0
     (one c).runs c.ref 0x49 c) := by
  refine ⟨⟨⟨rfl, rfl, rfl⟩, ?_⟩, ⟨⟨rfl, rfl, rfl⟩, ?_⟩, ⟨⟨rfl, rfl, rfl⟩, ?_⟩, ⟨⟨rfl, rfl, rfl⟩, ?_⟩, rfl, rfl, rfl⟩ <;> decide +kernel

/-- The right credential of a challenge is no longer than a PROVE's 48 bytes, so that a PROVE can carry exactly it. -/
theorem witness_AttachAbortAndFlush_credential (key : Bytes) (camp fn : Nat) (ch : Bytes) : (attachCredential key camp fn ch).take 48 = attachCredential key camp fn ch :=
  List.take_of_length_le (by unfold attachCredential hmac sha shaOut; exact List.length_take_le _ _)

/-- OwnerCommandsComplete: blocks of the declared length at once and with a drain, the drain done and not, its limit reached exactly. -/
theorem witness_OwnerCommandsComplete :
    let b : Bytes := wbytes ([0, 264] ++ List.replicate 64 0)
    (∀ maint : Bool, ∀ opt < 2, let c := cmd (if maint then 0x1B else 0x1A) 0 0 (words [(1, opt), (9, 1)]) 264
      let s : State := { one c with trust := { (one c).trust with cfg := { CfgContent.empty with policy := [{ Policy.none with maintAllowed := true }] } } }
      s.alive = true ∧ s.findCmd c.ref = some c ∧ c.op = (if maint then 0x1B else 0x1A) ∧ c.ref.sq = 0 ∧ c.avail = 264 ∧ b.length = 264 ∧ bits (word32 b 1) 0 16 = 264 ∧ s.trust.cfg.pol.maintAllowed = true ∧
        s.host.cmds = [c] ∧ bits (c.w 1) 0 1 = opt) ∧
    (let c := cmd 0x1C 0 0 (words []) 0
     let s : State := { one c with mode := .maintenance }
     s.alive = true ∧ s.findCmd c.ref = some c ∧ c.op = 0x1C ∧ s.mode = .maintenance) ∧
    (let c := cmd 0x1A 0 0 (words []) 0
     let s : State := { one c with host := { (one c).host with drain := some ⟨1, false, some 7⟩ } }
     s.alive = true ∧ s.host.drain = some ⟨1, false, some 7⟩ ∧ s.cmdByUid 1 = some c ∧ s.drained 1 = true ∧ 7 ≤ (s.advance 7).ticks ∧ s.drained 2 = false) := by decide +kernel

/-- SpdmRequestsAnswered: the mailbox answers with the log sealed, each stage of a connection, and a session of the mailbox before and after FINISH. -/
theorem witness_SpdmRequestsAnswered :
    (let s (st : SpdmStage) (est : Bool) : State := { svc.rs .BOT_STATUS_sealed 0 1 with trust := { svc.trust with
       conns := [⟨.doe, st, 0x13, [], none⟩], sessions := [⟨9, .doe, est, [], 0, 0, 0⟩] } }
     (∀ st ∈ [SpdmStage.start, .version, .capabilities, .negotiated], (s st false).doeOk = true ∧ (s st false).rg .BOT_STATUS_sealed 0 = 1 ∧ ((s st false).conn .doe).stage = st) ∧
     (s .negotiated false).certSlots.contains 0 = true ∧ spdmSupported.contains 0x85 = false ∧ spdmSupported.contains 0xFF = false ∧
     (∀ c ∈ [0xE5], (s .negotiated false).sessionOk .doe (some 9) c = true) ∧ (∀ c ∈ [0xE8, 0xE9, 0xEC, 0xFE], (s .negotiated true).sessionOk .doe (some 9) c = true) ∧
     ((s .negotiated false).modSession 9 (fun x => { x with received := x.received + 1, sent := x.sent + 1 })).trust.sessions.find? (fun y => y.id == 9) =
       some ⟨9, .doe, false, [], 1, 1, 0⟩) ∧
    (([0x13, 0x84] : Bytes).getD 1 0).toNat = 0x84 ∧ (([0x12, 0xE1] : Bytes).getD 0 0).toNat = 0x12 := by decide +kernel

/-- A secret key of the curve, its public key, and fuses that name it the owner's. -/
def ownerKey : Nat := 0x6B9D3DAD2E1B8C1C05B19875B6659F4DE23C3B667BF297BA9AA47740787137D896D5724E4C70A825F872C9EA60D2EDF5
def ownerPub : Bytes := p384Public (beBytes 48 ownerKey)
def ownerFuses : Fuses := { Fuses.blank with owner := sha .sha384 ownerPub }
/-- An authorization block of the owner (R467): its action, the fields of its word 1, and its signature. -/
def ownerBlock (action w1 r s : Nat) : Bytes :=
  leBytes 4 (0x1A071 + 2 ^ 24 * action) ++ leBytes 4 (264 + 2 ^ 16 * w1) ++ leBytes 8 0 ++ leBytes 4 1 ++ leBytes 4 0 ++ ownerFuses.devidHash ++ ownerPub ++ beBytes 48 r ++ beBytes 48 s
/-- MAINTENANCE with an owner. -/
def owned : State := { svc with mode := .maintenance, trust := { svc.trust with fuses := ownerFuses } }
/-- A raise of stage 0 to 1. -/
def raiseBlock : Bytes := ownerBlock 3 8 18918134877755164689693485204280879486830773819828613999372577591911148997229281642472187761608253454152208543330347
  37857530887342064914878662585730562832762467319653589351755561497103843941420700822343748763045218996161219288320011

/-- SvnRaiseBlowsOnlyUpward: in another mode; a signed raise of stage 0 to 1 where version 1 runs, and the same where version 0 runs. -/
theorem witness_SvnRaiseBlowsOnlyUpward : svc.mode ≠ .maintenance ∧ owned.mode = .maintenance ∧ owned.authorize [] 3 = none ∧
    ((owned.rs .BOT_SVN_running_svn 0 1).svnRaise raiseBlock).1 = 0 ∧ 0 < (owned.rs .BOT_SVN_running_svn 0 1).trust.fuses.svn.length ∧
    (owned.svnRaise raiseBlock).1 ≠ 0 := by decide +kernel

/-- SecurityCommandsComplete. -/
theorem witness_SecurityCommandsComplete :
    let cfg : CfgContent := { CfgContent.empty with policy := [{ Policy.none with spdmAdmin := true }] }
    (let c := cmd 0x18 0 0 (words [(1, 1), (4, 4)]) 4
     let s : State := { one c with trust := { (one c).trust with cfg := cfg } }
     s.trust.cfg.pol.spdmAdmin = true ∧ bits (c.w 1) 0 8 = 1 ∧ s.findCmd c.ref = some c ∧ s.alive = true ∧ c.op = 0x18 ∧ c.ref.sq = 0 ∧ c.avail = c.w 4 ∧ (List.replicate 4 0 : Bytes).length = c.w 4) ∧
    (let c := cmd 0x19 0 0 (words [(1, 1), (8, 1)]) 0
     let s : State := { one c with trust := { (one c).trust with cfg := cfg, conns := [⟨.command, .version, 0x13, [], some [7]⟩] } }
     s.trust.cfg.pol.spdmAdmin = true ∧ bits (c.w 1) 0 8 = 1 ∧ s.findCmd c.ref = some c ∧ s.alive = true ∧ c.op = 0x19 ∧ (s.conn .command).response = some [7] ∧ ([7] : Bytes).length ≤ c.w 8) := by decide +kernel

/-- BootRomStart: the state after reset, and a warm restart. -/
theorem witness_BootRomStart : State.reset.mode = .boot ∧ State.reset.rg .BOT_STATUS_locked 0 = 0 ∧ State.reset.trust.kind = .cold ∧
    (let s : State := { State.reset with trust := { State.reset.trust with kind := .activate } }
     s.mode = .boot ∧ s.rg .BOT_STATUS_locked 0 = 0 ∧ s.trust.kind ≠ .cold) := by decide +kernel

/-- SidebandCommands: an ownerless halt of cause 2, one of cause 1, MAINTENANCE with a range of memory, sensors 24 and 25, caps at the ends of the policy's range. -/
theorem witness_SidebandCommands :
    (let s : State := State.rs { State.reset with mode := .halted } .BOT_STATUS_halt_cause 0 2
     s.mode = .halted ∧ s.rg .BOT_STATUS_halt_cause 0 = 2 ∧ s.trust.fuses.ownerless = true ∧ (List.replicate 48 0 : Bytes).length = 48) ∧
    (let s : State := State.rs { State.reset with mode := .halted } .ERR_HALT_cause 0 1
     s.mode = .halted ∧ s.rg .ERR_HALT_cause 0 ≠ 2) ∧
    (let s : State := { State.reset with mode := .maintenance }
     s.mode = .maintenance ∧ 0 % 2 = 0 ∧ (0 : Nat) < 2 ^ 40 ∧ s.populated 0 = true ∧ s.populated (2 ^ 40 - 2) = true) ∧
    (svc.bmcReady = true ∧ (svc.sensor 24).isSome = true ∧ svc.sensor 25 = none ∧ State.reset.bmcReady = false) ∧
    (let s : State := { svc with trust := { svc.trust with cfg := { CfgContent.empty with policy := [{ Policy.none with capMin := 100, capMax := 500 }] } } }
     s.trust.cfg.pol.capMin ≤ 100 ∧ 100 ≤ s.trust.cfg.pol.capMax ∧ 500 ≤ s.trust.cfg.pol.capMax ∧ 99 < s.trust.cfg.pol.capMin ∧ s.trust.cfg.pol.capMax < 501) := by decide +kernel

/-- PlanCommandsComplete: the image above passes the checks of Table 08-11; a plan that is there, and a handle of none. -/
theorem witness_PlanCommandsComplete :
    (let c := cmd 0x40 1 0 (words []) 160
     (one c).runs c.ref 0x40 c ∧ c.avail = image.length ∧ imageLen image = some image.length ∧ ((one c).dataIn c image).2.takeNear c.camp (units64k image.length) = some ((one c).dataIn c image).2 ∧
       (planLoad image).isOk = true ∧
       (List.range 16384).find? (fun k => match mget k ((one c).dataIn c image).2.plans.plans with | some q => q.plan.isNone | none => true) = some 0 ∧
       ((one c).dataIn c image).2.planCount c.camp < ((one c).dataIn c image).2.planAllot c.camp) ∧
    (let c := cmd 0x41 1 0 (words [(9, handle0)]) 0
     let s := withPlan (one c) noPlan
     s.runs c.ref 0x41 c ∧ s.planAt c.camp (c.w 9) = some (0, ⟨1, 0, 0, 1, false, some noPlan⟩, noPlan)) ∧
    (let c := cmd 0x41 1 0 (words [(9, 2 * handle0)]) 0
     let s := withPlan (one c) noPlan
     s.runs c.ref 0x41 c ∧ s.planAt c.camp (c.w 9) = none) := by
  refine ⟨⟨⟨rfl, rfl, rfl⟩, ?_⟩, ⟨⟨rfl, rfl, rfl⟩, ?_⟩, ⟨⟨rfl, rfl, rfl⟩, ?_⟩⟩ <;> decide +kernel

/-- A binding block of no bindings (Table 08-12). -/
def noBinds : Bytes := wbytes [0, 8]

/-- ExecuteStartsAnExecution: a block that binds. -/
theorem witness_ExecuteStartsAnExecution :
    let c := cmd 0x42 1 0 (words [(9, handle0), (10, 0xFFFF)]) 8
    let s := withPlan (one c) noPlan
    s.runs c.ref 0x42 c ∧ c.avail = noBinds.length ∧ word32 noBinds 1 = noBinds.length ∧ blockHeadOk noBinds = true ∧
      ((s.dataIn c noBinds).2.bindPlan c.camp (c.w 9) noBinds).toOption = some (0, ⟨1, 0, 0, 1, false, some noPlan⟩, noPlan, []) ∧ noPlan.hasResult = false ∧
      (s.dataIn c noBinds).2.planLost 0 ⟨1, 0, 0, 1, false, some noPlan⟩ = none ∧ (s.dataIn c noBinds).2.tablesLost c.camp noPlan [] = none ∧
      mget (fq c.ref.fn (bits (c.w 10) 0 16)) s.host.rings = none ∧ ({ noPlan with ops := [⟨[0], [], .result [(0, false)]⟩] } : Plan).hasResult = true := by
  refine ⟨⟨rfl, rfl, rfl⟩, ?_⟩; decide +kernel

/-- A standing query of Camp 0 on the plan in slot 0, every ms from DEVTIME 0. -/
def query : Standing := ⟨0, 0, [], 0, 1000000, none, false, 0, 0, none, false⟩

/-- StandingQueries: intervals at both ends, a query to clear, due times met at the last moment and just missed. -/
theorem witness_StandingQueries :
    (∀ iv ∈ [1000000, 2 ^ 48], let c := cmd 0x46 1 0 (words [(9, handle0), (12, iv % 2 ^ 32), (13, iv / 2 ^ 32)]) 8
     let s := withPlan (one c) noPlan
     s.findCmd c.ref = some c ∧ c.op = 0x46 ∧ c.avail = noBinds.length ∧ c.w 12 + 2 ^ 32 * c.w 13 = iv ∧ 1000000 ≤ iv ∧ iv ≤ 2 ^ 48 ∧
       ((s.dataIn c noBinds).2.bindPlan c.camp (c.w 9) noBinds).isOk = true ∧ mfree s.plans.standing 0 1024 = some 0 ∧
       (s.plans.standing.filter (fun q => q.2.camp == c.camp)).length < s.standingAllot c.camp) ∧
    (let c := cmd 0x47 1 0 (words [(9, 1023)]) 0
     let s : State := { one c with plans := { (one c).plans with standing := [(1023, query)] } }
     s.findCmd c.ref = some c ∧ c.op = 0x47 ∧ mget (bits (c.w 9) 0 10) s.plans.standing = some query ∧ query.camp = c.camp ∧ query.cleared = false) ∧
    (let s : State := { svc with plans := { svc.plans with standing := [(0, query)] } }
     s.alive = true ∧ mget 0 s.plans.standing = some query ∧ 0 < query.interval ∧ query.start + query.next * query.interval ≤ (s.advance 2500).devtime.toNat ∧
       (s.advance 2500).devtime.toNat ≤ query.start + 0 * query.interval + 100000 ∧ (s.advance 2500).mayRun query = true ∧
       ¬ (s.advance 2501).devtime.toNat ≤ query.start + 0 * query.interval + 100000) ∧
    svc.storeFree 1 < (⟨0, 0, false, 0, 0, 0, 0, 0, 0, 0, []⟩ : Record).size := by decide +kernel

/-- A record with a stream of one message. -/
def kept1 : Record := ⟨1, 0, false, 0, 0, 0, 0, 0, 0, 0, [⟨[7], 0, false⟩]⟩
/-- A table of Camp 0 with one INT64 column and no batch. -/
def table0 : Table := ⟨0, [⟨ColType.int64, [], []⟩], [], 0, false⟩
/-- A stream of that table's schema and its end. -/
def stream0 : List ArrowMsg := [⟨true, true, 8, 0, [], .schema true [⟨some ColType.int64, [], [], none, 0, false, true⟩]⟩, ⟨true, true, 8, 0, [], .eos⟩]

/-- ResultFetchAndIngest: acknowledging only, an empty store, a record fetched with and without a ring; a stream that ends exactly, that runs over and that stops short. -/
theorem witness_ResultFetchAndIngest :
    (let c (l : Map Nat) := cmd 0x43 1 0 (words l) 0
     (bits ((c [(11, 1)]).w 11) 0 1 = 1) ∧
     (let d := c [(9, 0xFFFF)]
      let s : State := { one d with records := [(0, ⟨[kept1], 2, 0, 0⟩)] }
      s.findCmd d.ref = some d ∧ d.op = 0x43 ∧ bits (d.w 11) 0 1 = 0 ∧ bits (d.w 9) 0 16 = 0xFFFF ∧ (mgetD Store.empty d.camp s.records).recs.filter (fun r => decide (d.w 10 < r.num)) = [kept1]) ∧
     (let d := c [(9, 0xFFFF), (10, 1)]
      let s : State := { one d with records := [(0, ⟨[kept1], 2, 0, 0⟩)] }
      (mgetD Store.empty d.camp s.records).recs.filter (fun r => decide (d.w 10 < r.num)) = []) ∧
     (let d := c []
      let s : State := { one d with host := { (one d).host with rings := [(0, ring4)] }, records := [(0, ⟨[kept1], 2, 0, 0⟩)] }
      bits (d.w 9) 0 16 ≠ 0xFFFF ∧ mget (fq d.ref.fn (bits (d.w 9) 0 16)) s.host.rings = some ring4 ∧ ring4.camp = d.camp ∧ kept1.stream ≠ [])) ∧
    (∀ n ∈ [24, 25, 23], let c := cmd 0x44 1 0 (words [(9, 2 ^ 26)]) n
     let s : State := { one c with plans := { (one c).plans with tables := [(0, ⟨1, some table0⟩)] } }
     let d : Bytes := List.replicate n 0
     let u := (s.dataIn c d).2
     s.findCmd c.ref = some c ∧ c.op = 0x44 ∧ ingestOptions (s.dataIn c d).1 = some (8, []) ∧ c.w 9 ≠ 0 ∧ 8 ≤ c.avail ∧ u.tableAt c.camp (c.w 9) = some (0, table0) ∧ u.listLost 0 table0 = none ∧
       (State.ingestMsgs c.camp c.strict [] (some table0) stream0 (c.avail - 8) u ⟨none, [], [], 0, 0, 0, [], []⟩).2.2 = (if n < 24 then .short else .eos (n - 24))) := by decide +kernel

/-- DigestCommandComplete: a start that finds a context, one that finds none, an update and a finish of the command's own context. -/
theorem witness_DigestCommandComplete :
    (let c := cmd 0x45 1 0 (words [(4, 3), (9, 512)]) 3
     let d : Bytes := [1, 2, 3]
     let u := ((one c).dataIn c d).2
     (one c).findCmd c.ref = some c ∧ c.op = 0x45 ∧ c.avail = c.w 4 ∧ d.length = c.w 4 ∧ bits (c.w 9) 0 2 ≠ 3 ∧ bits (c.w 9) 9 2 = 1 ∧ bits (c.w 9) 2 1 = 0 ∧ (u.dgeClaim 16 (.command c.camp)).1 = some 0 ∧
       ((((u.dgeClaim 16 (.command c.camp)).2.rs .DGE_CTL_alg 256 (bits (c.w 9) 0 2)).dgeCtl 256 (bits (c.w 9) 0 8 + 2 ^ 10 * c.camp + 2 ^ 21)).rg .DGE_STAT_state 256) = 2) ∧
    (∀ op ∈ [2, 3], let c := cmd 0x45 1 0 (words [(8, 32), (9, 512 * op), (10, 15)]) 0
     let s : State := State.rs { one c with trust := { (one c).trust with ctx := [(271, { DgeCtx.empty with owner := .command 0 })] } } .DGE_STAT_state 271 2
     let u := (s.dataIn c []).2
     let k := 256 + bits (c.w 10) 0 4
     bits (c.w 9) 9 2 = op ∧ (u.dctx k).owner = .command c.camp ∧ u.rg .DGE_STAT_state k = 2 ∧ (u.dctx k).gen = bits (c.w 10) 4 4 ∧ (u.dctx k).finish = false ∧ bits (c.w 9) 8 1 = 0 ∧
       (algOf (u.dctx k).alg).size ≤ c.w 8) ∧
    (((List.range 16).foldl (fun s k => State.rs s .DGE_STAT_state (256 + k) 2) svc).dgeClaim 16 (.command 0)).1 = none := by decide +kernel

/-- An extension with Camp 7 as its service Camp, granted to Camp 0, with a timer of 1 ms. -/
def ext : ExtRec := ⟨3, [], 2 ^ 31, 1000⟩
def svcs : State := State.rs (State.rs { svc with
    camps := [(7, ⟨100, 0, 0, 0, 0, 0, 0, 0, 0, 0, 0, 0, [], some 3, 0⟩)]
    trust := { svc.trust with cfg := { CfgContent.empty with exts := [ext], grants := [⟨3, 1, 0, 1023, 255⟩], timers := [⟨3, 0, 0, 1000000, 0⟩] } } }
  .CPM_STATE_kind 7 2) .CPM_STATE_state 7 1
def env : SvcEnv := ⟨0, 31, 9, some 0, List.replicate 16 0, List.replicate 16 0, 0, 1⟩

/-- ServicesComplete: a call that is denied, refused for room and starts; a timer due at the last moment and skipped; a limit passed by the least. -/
theorem witness_ServicesComplete :
    (let c := cmd 0x48 1 0 (words [(9, 7)]) 0
     let s : State := { svcs with host := { svcs.host with cmds := [c] } }
     let u := (s.dataIn c []).2
     s.findCmd c.ref = some c ∧ c.op = 0x48 ∧ c.avail = c.w 4 ∧ c.w 4 ≤ 4096 ∧ bits (c.w 9) 0 10 = 7 ∧ u.extOf 7 = some ext ∧ u.granted ext 0 c.camp = true ∧ u.granted ext 1 c.camp = false ∧ u.extOf 8 = none ∧
       u.campState 7 ≠ .quarantined ∧ (u.rs .CPM_STATE_state 7 3).campState 7 = .quarantined) ∧
    (let t : TimerRec := ⟨3, 0, 0, 1000000, 0⟩
     svcs.trust.cfg.timers[0]? = some t ∧ svcs.campOfExt t.ext = some 7 ∧ svcs.extOf 7 = some ext ∧ (svcs.advance 2500).devtime.toNat ≤ 100000 ∧ ¬ (svcs.advance 2501).devtime.toNat ≤ 100000) ∧
    (let j : Invocation := ⟨7, none, 0, 0, 0, 0, 1000, 1001, 0, 0, false, [], none⟩
     let s : State := { svcs with ulr := { svcs.ulr with ctxs := [(31, { UCtx.empty with camp := 7, inv := some j })] } }
     ((s.chargeThread (ctxKey 0 31)).uctx (ctxKey 0 31)).inv = some j ∧ j.limit < j.used) := by decide +kernel

/-- TokenRows: a header of a running and of a cancelled execution, of a Camp that takes no tokens, with and without room; a release of the entry's epoch and of another; a lane; a thread's event. -/
theorem witness_TokenRows :
    let p : Plan := { noPlan with frags := [⟨0, 0, 0, 0, false, [0], 0⟩] }
    let f : Frag := ⟨0, 0, 0, 0, false, [0], 0⟩
    let s : State := State.rs { withTok (withPlan svc p) tok with execs := [(1, run0)] } .CPM_STATE_mse_allot 0 1
    (s.alive = true ∧ 65535 < 65536 ∧ mget 0 s.run.net = some tok ∧ tok.entry = none ∧ tok.queued = false ∧ mget tok.exec s.execs = some run0 ∧ run0.cancelled = false ∧
      s.accepts run0.camp = true ∧ s.planOf run0 = some p ∧ p.frags[tok.frag]? = some f ∧ s.limited tok.die run0.camp (run0.bound p tok.frag) = false ∧ (s.entry tok.die 65535).state = .free) ∧
    ((s.rs .CPM_STATE_mse_allot 0 0).limited tok.die run0.camp (run0.bound p tok.frag) = true ∧
      s.takeNear 0 (queueUnits (s.queued 0 0 + 1) - queueUnits (s.queued 0 0)) = some s) ∧
    s.accepts 1 = false ∧
    (let k : NetTok := { tok with entry := some (5, 3) }
     let t := withEntry (withTok s k) (entry5 .waiting 3)
     mget 0 t.run.net = some k ∧ (t.entry 0 5).epoch = 3 ∧ (t.entry 0 5).state = .waiting ∧ t.accepts (t.entry 0 5).camp = true ∧ ((withEntry t (entry5 .waiting 4)).entry 0 5).epoch ≠ 3) ∧
    (let t : State := { s with run := { s.run with overflow := [(laneKey 0 0 false, [0])] } }
     mgetD [] (laneKey 0 0 false) t.run.overflow = [0] ∧ mget 0 t.run.net = some tok) ∧
    (let u : UCtx := { UCtx.empty with entry := some (0, 5) }
     let e : Entry := { Entry.fresh with state := .waiting, thread := true, body := .thread 3 2 }
     let t : State := { withEntry s e with ulr := { s.ulr with ctxs := [(ctxKey 3 2, u)] }, io := { s.io with tokens := [⟨9, 0, 5, 0, 0⟩] } }
     let v := State.rs { t with io := { t.io with tokens := t.io.tokens.filter (fun k => k.source != 9) } } .EVR_SRC_in_service 9 0
     t.io.tokens.find? (fun k => k.source == 9) = some ⟨9, 0, 5, 0, 0⟩ ∧ v.takesEvent 0 5 0 0 = true ∧ v.threadOf 0 5 = some (ctxKey 3 2)) := by decide +kernel

/-- TasksAndExecutionEnds: a done, a failed and a cancelled task, an entry that has drained for exactly 2 µs, a wait and a quantum reached, and an execution at each of its ends. -/
theorem witness_TasksAndExecutionEnds :
    let w := work (.seed 0 0) []
    (let s := withEntry (tasks [] { w with done := true }) (entry5 .running 0)
     s.taskAt (0 * 65536 + 5) = some (taskOf [] { w with done := true }) ∧ (s.entry 0 5).state = .running ∧ w.failed = none ∧ run0.cancelled = false ∧ w.route = none) ∧
    (let s := withEntry (tasks [] { w with failed := some stOverflow }) (entry5 .running 0)
     s.taskAt (0 * 65536 + 5) = some (taskOf [] { w with failed := some stOverflow })) ∧
    (let s : State := { withEntry (tasks [] w) (entry5 .running 0) with execs := [(1, { run0 with cancelled := true })] }
     (s.taskAt (0 * 65536 + 5)).map (fun t => t.e.cancelled) = some true) ∧
    (let s := withEntry svc (entry5 .draining 7)
     (s.entry 0 5).state = .draining ∧ (s.entry 0 5).since + 50 ≤ (s.advance 50).ticks ∧ ¬ (s.entry 0 5).since + 50 ≤ (s.advance 49).ticks) ∧
    (let s := (withEntry svc (entry5 .ready 0)).rs .DPT_CTL_xdie_wait 0 25
     (s.entry 0 5).state = .ready ∧ (s.entry 0 5).since + s.rg .DPT_CTL_xdie_wait 0 ≤ (s.advance 25).ticks) ∧
    (let u : UCtx := { UCtx.empty with entry := some (0, 5) }
     let s : State := { withEntry svc { entry5 .running 0 with thread := true } with ulr := { svc.ulr with ctxs := [(ctxKey 3 31, u)] } }
     s.runningEntry (ctxKey 3 31) = some (0, 5) ∧ (s.uctx (ctxKey 3 31)).xfer = none ∧ s.rg .DPT_CTL_quantum 0 ≤ (s.advance (s.rg .DPT_CTL_quantum 0)).ticks - (s.entry 0 5).since) := by decide +kernel

theorem witness_TasksAndExecutionEnds_executions :
    let p : Plan := { noPlan with frags := [⟨0, 1, 0, 0, false, [0], 0⟩], ops := [⟨[], [], .exchange 3 false false 1 0 0 [2] []⟩] }
    let e (g : FragRun) : Exec := { run0 with frags := [(0, g)] }
    let s (x : Exec) : State := { withPlan svc p with execs := [(1, x)] }
    let done : FragRun := { FragRun.empty with complete := true }
    (let x := e done
     mget 1 (s x).execs = some x ∧ (s x).planOf x = some p ∧ x.cancelled = false ∧ x.failed = none ∧ (x.frag 0).complete = true ∧ (x.frag 0).fired = false ∧
       (mget 1 ((s x).flushFrag 1 0 p).execs).map (fun g => (g.cancelled, g.fragIdle p 0, g.destIdle 0 0)) = some (false, true, true) ∧
       p.fragOf 0 = some 0 ∧ p.exchAt 0 = some (0, [.cluster 2]) ∧ x.ended.contains (destKey 0 0) = false ∧
       (mget 1 ((s x).drainResult 1 p).execs).map (fun g => (g.failed, ((s x).drainResult 1 p).execFinished 1 g p)) = some (none, true)) ∧
    ((e { done with fired := true }).frag 0).fired = true ∧
    (let x : Exec := { e done with failed := some stOverflow, cancelled := true }
     mget 1 (s x).execs = some x ∧ x.failed ≠ none ∧ (s x).execStopped 1 = true) := by decide +kernel

/-- RationRows: a tick that is a period boundary, and one that is not; amounts at both ends; a Camp's running thread. -/
theorem witness_RationRows :
    (let s : State := { svc with ticks := svc.periodTicks - 1 }
     s.alive = true ∧ s.mode ≠ .boot ∧ ((s.advance 1).ticks - s.power.bootEnd) % s.periodTicks = 0 ∧ ((s.advance 2).ticks - s.power.bootEnd) % s.periodTicks ≠ 0) ∧
    (∀ a ∈ [1, unlimited - 1], let s : State := { svc with rationNext := [(8 * 1023 + 5, a)] }
     mget (8 * 1023 + 5) s.rationNext = some a ∧ a < unlimited) := by decide +kernel

/-- GovernorAndRegulators: a tick that ends a period, steps at both ends and the throttle, and each deadline at its tick. -/
theorem witness_GovernorAndRegulators :
    ((svc.advance 2500).ticks % 2500 = 0 ∧ (svc.advance 2499).ticks % 2500 ≠ 0) ∧
    (∀ k ∈ [16, 40], 16 ≤ (svc.rs .PWR_CLUSTER_f_step 15 k).rg .PWR_CLUSTER_f_step 15 ∧ (svc.rs .PWR_CLUSTER_f_step 15 k).rg .PWR_CLUSTER_f_step 15 ≤ 40) ∧
    (({ svc with pins := { svc.pins with prochot := true } } : State).pins.prochot = true ∧ (svc.rs .THM_CTL_hot_stop 0 1).rg .THM_CTL_hot_stop 0 = 1) ∧
    (let s := (svc.rs .THM_CLUSTER_t_max 15 (svc.rg .THM_CTL_t_throttle 0)).rs .THM_CLUSTER_valid 15 1
     s.rg .THM_CTL_t_throttle 0 ≤ s.rg .THM_CLUSTER_t_max 15 ∧ s.rg .THM_CLUSTER_valid 15 ≠ 0) ∧
    (let s : State := { svc with power := { svc.power with avsWait := [(1, ⟨750, 100, []⟩)], thawing := [(3, 100)] } }
     mget 1 s.power.avsWait = some ⟨750, 100, []⟩ ∧ 100 ≤ (s.advance 100).ticks ∧ mget 3 s.power.thawing = some 100) ∧
    (let s := (svc.rs .PWR_CLUSTER_pstate 15 2).rs .PWR_CTL_cold_after 0 1
     s.rg .PWR_CLUSTER_pstate 15 = 2 ∧ mhas 15 s.power.thawing = false ∧
       mgetD (s.advance 25000).ticks 15 { s with power := { s.power with since := [(15, 0)] } }.power.since + s.rg .PWR_CTL_cold_after 0 * 25000 ≤ (s.advance 25000).ticks) := by decide +kernel

/-- ScansAndFilters: a header that is sound, poisoned, of a wrong check and misaligned; a check table; a plane. -/
theorem witness_ScansAndFilters_scan :
    let scan : List PlanOp := [⟨[], [⟨true, 0⟩], .scan 0 [0]⟩, ⟨[0], [], .result [(0, false)]⟩]
    let e : Exec := { run0 with snaps := [(0, ⟨0, [⟨ColType.int64, [], []⟩], [], 0, false⟩)] }
    let w (k : ColScan) : Work := { work (.seed 0 0) [batch1 []] with cols := [k] }
    let s (k : ColScan) : State := (tasksOf (planOf scan) e (w k)).memPut 256 (hdrBytes hdr64)
    let t (k : ColScan) : Task := taskIn (planOf scan) e (w k)
    (let k := scanned none none
     (s k).task 0 5 = some (t k) ∧ (t k).scanCol 0 true = some k ∧ k.da % 256 = 0 ∧ (s k).memPoisoned 256 128 = false ∧ hdrFault ((s k).viewGet (some 0) 256 2 128) = none ∧
       (t k).agrees 0 (hdrRead ((s k).viewGet (some 0) 256 2 128)) = true ∧ hdrFault (((s k).memPut 256 [0]).viewGet (some 0) 256 2 128) = some 2 ∧
       ({ s k with m := { (s k).m with poison := [4] } } : State).memPoisoned 256 128 = true ∧ (t { k with da := 257 }).scanCol 0 true = some { k with da := 257 }) ∧
    (let k := scanned (some hdr64) none
     (s k).task 0 5 = some (t k) ∧ (t k).scanCol 0 false = some k ∧ (s k).memPoisoned (k.da + hdr64.tableOff) (hdr64.tableDigits / 2) = false ∧
       crc32c (((s k).viewGet (some 0) (k.da + hdr64.tableOff) 5 (hdr64.tableDigits / 2))) ≠ hdr64.tableCrc) := by decide +kernel

theorem witness_ScansAndFilters_plane :
    let ops : List PlanOp := [⟨[], [⟨true, 0⟩], .scan 0 [0]⟩, ⟨[0], [], .result [(0, false)]⟩]
    let z : Bytes := lz 128
    let tb : Bytes := leBytes 4 (crc32c z)
    let h : Hdr := { hdr64 with enc := 2, runs := 1 }
    let k := scanned (some h) (some tb)
    let w : Work := { workAt 1 (.seed 0 0) [⟨0, 1, [⟨ColType.int64, some 0, []⟩], [true], []⟩] with cols := [k] }
    let s := tasks ops w
    s.task 0 5 = some (taskOf ops w) ∧ w.cols[0]? = some k ∧ k.table = some tb ∧ (s.needs (taskOf ops w)).contains (.plane 0 0) = true ∧
      s.memPoisoned (k.da + h.planeOff 0) (h.planeLen 0 / 2) = false ∧ s.planeRead (some 0) k.da h tb 0 = some z := by decide +kernel

/-- ScansAndFilters: a term on a DICT column to reduce (a dictionary of no entries), and a long string to compare with a constant that begins with the same 16 bytes. -/
theorem witness_ScansAndFilters_filter :
    let utf : ColType := ⟨tUtf8, 0, 0⟩
    let eq0 : FTerm := ⟨0, false, false, false, false, 0, 0, 0, 1⟩
    let ops : List PlanOp := [⟨[0], [⟨false, 0⟩], .filter [eq0] [0]⟩]
    let p : Plan := { planOf ops with consts := [⟨utf, .str (lz 20)⟩] }
    (let h : Hdr := { hdr64 with ty := utf, stored := 1, enc := 1, dict := 512 }
     let k := scanned (some h) none
     let b : Batch := ⟨0, 1, [⟨utf, some 0, []⟩], [true], []⟩
     let w : Work := { work (.seed 0 0) [b] with cols := [k] }
     let s := (tasksOf p run0 w).memPut 512 (dictBytes tUtf8 0 true [])
     let t := taskIn p run0 w
     s.task 0 5 = some t ∧ t.head = some (0, (ops.headD nop), b) ∧ (s.needs t).contains (.reduce 0 0) = true ∧
       (s.loadDict w 0 k h).2 = some ({ w with cols := [{ k with dict := some [] }] }, ⟨tUtf8, 0, true, []⟩) ∧ ({ k with dict := some [] } : ColScan).fault h = none) ∧
    (let b : Batch := ⟨0, 1, [⟨utf, none, [.str 20 (lz 16) 1024]⟩], [true], []⟩
     let w := work (.seed 0 0) [b]
     let s := tasksOf p run0 w
     let t := taskIn p run0 w
     s.task 0 5 = some t ∧ t.head = some (0, (ops.headD nop), b) ∧ (s.needs t).contains (.heap 0 0) = true ∧ mget (0 * 4096 + 0) w.search = none ∧
       (Planes.ofVals [.str 20 (lz 16) 1024]).strAt 0 = some (20, lz 16, 1024)) ∧
    (let h : Hdr := { hdr64 with ty := utf, stored := 49, heap := true, heapBase := 1024 }
     let k : ColScan := { scanned (some h) none with planes := (List.range 49).map (fun i => (i, [if i = 35 then 1 else if i = 36 then 4 else 0])) }
     let b : Batch := ⟨0, 1, [⟨utf, some 0, []⟩], [true], []⟩
     let w : Work := { work (.seed 0 0) [b] with cols := [k] }
     let s := tasksOf p run0 w
     let t := taskIn p run0 w
     s.task 0 5 = some t ∧ t.head = some (0, (ops.headD nop), b) ∧ (s.needs t).contains (.heap 0 0) = true ∧ (Planes.ofBlock 0 k h).strAt 0 = some (20, lz 16, 1024)) := by decide +kernel

/-- An expression strip (Table 04-1): one INT64 output, one input, no temporary, and the operations given. -/
def strip (nc : Nat) (consts ops : List Nat) : Bytes := wbytes ([0, ops.length + 2 ^ 16, 1 + 2 ^ 7 * nc, tInt64] ++ consts ++ ops)

/-- ComputeAndHashRows: a row group that runs (COPY of the input), one that fails (a sum beyond INT64), a missing cast of a column and of a constant; a batch to hash. -/
theorem witness_ComputeAndHashRows :
    let utf : ColType := ⟨tUtf8, 0, 0⟩
    let run (p : Plan) (b : Batch) (k : Nat) : Bool :=
      let w := work (.seed 0 0) [b]
      let t := taskIn p run0 w
      let o := (p.ops.headD nop)
      let x := t.stripRun o b 0 k
      (x.strip.ops.length == 1) && (t.castsMissing x.strip o b (groupRows b 0)).isEmpty &&
        (match runGroup x.strip x.types 1 [true] (fun _ _ => none) x.strip.ops.zipIdx ⟨t.sourceLanes x o b (groupRows b 0), [], [true]⟩ 0 with
          | .ok _ => true
          | .error (op, r, e) => op == 0 && r == 0 && e == .overflow && b.cols == [col64 (2 ^ 62)])
    let ops (k : Nat) : List PlanOp := [⟨[0], [⟨true, 0⟩], .compute 0 k⟩]
    let copy := strip 0 [] [0x01 * 2 ^ 25 + 0xD0 * 2 ^ 16 + 0x40 * 2 ^ 8]
    let sum := strip 0 [] [0x10 * 2 ^ 25 + 0xD0 * 2 ^ 16 + 0x40 * 2 ^ 8 + 0x40]
    run { planOf (ops copy.length) with blob := copy } (batch1 [col64 5]) copy.length = true ∧ run { planOf (ops sum.length) with blob := sum } (batch1 [col64 (2 ^ 62)]) sum.length = true ∧
    (let cast := strip 1 [0] [0x3E * 2 ^ 25 + 0xD0 * 2 ^ 16 + 0x40 * 2 ^ 8, 0x3E * 2 ^ 25 + 0xD0 * 2 ^ 16 + 0x80 * 2 ^ 8]
     let p : Plan := { planOf (ops cast.length) with blob := cast, consts := [⟨utf, .str [0x31]⟩] }
     let b := batch1 [⟨utf, none, [.str 1 (0x32 :: lz 15) 0]⟩]
     let w := work (.seed 0 0) [b]
     let t := taskIn p run0 w
     let x := t.stripRun (p.ops.headD nop) b 0 cast.length
     (tasksOf p run0 w).task 0 5 = some t ∧ (t.castsMissing x.strip (p.ops.headD nop) b (groupRows b 0)).contains (0, 0) = true ∧ (t.castsMissing x.strip (p.ops.headD nop) b (groupRows b 0)).contains (1, 0) = true ∧
       (x.strip.ops[0]?).map (·.a) = some 0x40 ∧ (x.strip.ops[1]?).map (·.a) = some 0x80 ∧ t.castSource x.strip (p.ops.headD nop) b 0x40 0 = some (.str 1 (0x32 :: lz 15) 0) ∧
       t.stripLit x.strip 0x80 = .str [0x31]) ∧
    (let o : PlanOp := ⟨[0], [⟨false, 0⟩], .hash⟩
     let w := work (.seed 0 0) [batch1 [col64 5]]
     (tasks [o] w).task 0 5 = some (taskOf [o] w) ∧ (taskOf [o] w).head = some (0, o, batch1 [col64 5]) ∧ o.hashCols ≠ [] ∧ w.hashed (batch1 [col64 5]) = false) := by decide +kernel

/-- Columns that are values are there at once. -/
theorem witness_colsReady (s : State) (t : Task) (b : Batch) (h : fillCols [0] s t.w b [] = (s, .ok t.w b)) :
    s.colsReady t [0] b s { t.w with todo := match t.w.todo with | (i, _) :: l => (i, b) :: l | [] => [] } b := fun k => by
  simp only [State.withCols, h] <;> rfl

theorem witness_colsReady_value :
    let w := work (.seed 0 0) [batch1 [col64 5]]
    fillCols [0] svc w (batch1 [col64 5]) [] = (svc, .ok w (batch1 [col64 5])) := rfl

/-- JoinRows: build rows with a null key, within the budget and of a spilled partition. -/
theorem witness_JoinRows_build :
    let t (c : Column) (kind : Nat) (e : Exec) : Task := taskIn (planOf [build0 kind 1]) e (hashed (work (.seed 0 0) [batch1 [c]]) 1)
    let s (c : Column) (kind : Nat) (e : Exec) : State := tasksOf (planOf [build0 kind 1]) e (t c kind e).w
    let tab1 : JoinTab := { JoinTab.fresh 0 0 (bucketBits 1) with anyRow := true }
    (∀ c ∈ [col64 5, nullCol], (s c 0 run0).task 0 5 = some (t c 0 run0) ∧ (t c 0 run0).head = some (0, build0 0 1, batch1 [c]) ∧ (t c 0 run0).w.hashed (batch1 [c]) = true ∧
      nextLive (batch1 [c]) 0 = some 0 ∧ filled [0] (s c 0 run0) (t c 0 run0).w (batch1 [c]) = true) ∧
    nullKey [nullCol] 0 = true ∧ nullKey [col64 5] 0 = false ∧ (t (col64 5) 0 run0).w.hashOf 0 = 7 ∧
    partAt tab1.parts 0 0 (spillDigit 7 0) = none ∧ (((s (col64 5) 0 run0).fitInsert 1 1 0 tab1 rec5).isSome) = true ∧
    (let e : Exec := { run0 with joins := [(buildKey 0 0, { tab1 with parts := [part5] })] }
     partAt [part5] 0 0 (spillDigit 7 0) = some part5 ∧ paged ((s (col64 5) 0 e).putRec (t (col64 5) 0 e).w 0 part5.level part5.path part5.build rec5 [pageDigits]) = true) := by decide +kernel

/-- JoinRows: probe rows with a null key and with one match, and a RIGHT join with a record left over. -/
theorem witness_JoinRows_probe :
    let t (c : Column) : Task := taskIn (planOf probe0) (run5 [(buildKey 0 0, tab5)]) (hashed (workAt 1 (.seed 0 0) [batch1 [c]]) 1)
    let s (c : Column) : State := tasksOf (planOf probe0) (t c).e (t c).w
    (∀ c ∈ [col64 5, nullCol], (s c).task 0 5 = some (t c) ∧ (t c).head = some (1, probe0[1]?.getD nop, batch1 [c]) ∧ (t c).w.hashed (batch1 [c]) = true ∧ nextLive (batch1 [c]) 0 = some 0) ∧
    nullKey [nullCol] 0 = true ∧ nullKey [col64 5] 0 = false ∧
    ((t (col64 5)).probeSpec 1).map (fun x => (x.op, x.keys)) = some (1, [ColType.int64]) ∧ (t (col64 5)).e.tabAt 1 0 ((t (col64 5)).probeCopy 0) = some tab5 ∧
      partAt tab5.parts 0 0 (spillDigit 7 0) = none ∧ ((s (col64 5)).matchRecs 0 2 (candidates [ColType.int64] tab5 7 [v64 5])).toOption = some [rec5] := by decide +kernel

theorem witness_JoinRows_unmatched :
    let t : Task := taskIn (planOf probe0) (run5 [(buildKey 0 0, tab5)]) (work (.final 1 0) [])
    (tasksOf (planOf probe0) t.e t.w).task 0 5 = some t ∧ (t.probeFinal.map (fun y => (y.1.kind, y.2.2.2.1, y.2.2.2.2))) = some (2, 0, tab5) ∧ keepsMatched 2 = true ∧ tab5.chains ≠ [] ∧ t.w.todo = [] := by
  decide +kernel

/-- SpillAndAggregateRows: a build and a merge that wait and find a page to spill to. -/
theorem witness_SpillAndAggregateRows_spills :
    (let t : Task := taskIn (planOf [build0 0 0]) { run0 with joins := [(buildKey 0 0, tab5)] } (hashed (work (.seed 0 0) [batch1 [col64 5]]) 1)
     let s := (tasksOf (planOf [build0 0 0]) t.e t.w).rs .JNU_CTL_spill_en 0 1
     s.task 0 5 = some t ∧ (s.buildWaits t).map (·.1) = some (buildKey 0 0) ∧ s.rg .JNU_CTL_spill_en t.w.cluster ≠ 0 ∧ spilled (s.spillTab t.w [ColType.int64] tab5 [pageDigits]) = true) ∧
    (let t : Task := taskIn (planOf (agg0 1 true 0)) (groups [group 9 4] [] 1) { workAt 1 (.seed 0 0) [batch1 [col64 5]] with folded := [group 7 5], pos := 1 }
     let s := (tasksOf (planOf (agg0 1 true 0)) t.e t.w).rs .JNU_CTL_spill_en 0 1
     s.task 0 5 = some t ∧ s.buildWaits t = none ∧ (s.groupWaits t).map (·.2.entries) = some [group 9 4] ∧
       (match s.groupWaits t with
        | some (x, tab) => (match s.spillGroup t.w x tab [pageDigits] with
          | .ok (some (.ok u tab' _)) => (u.groupUnits t.w.exec x tab').isSome
          | _ => false)
        | none => false) = true) := by decide +kernel

/-- SpillAndAggregateRows: a pass over a join partition of one build record. -/
theorem witness_SpillAndAggregateRows_joinPass :
    let q := partOf 0 (.recs [rec5]) rec5.bytes
    let t : Task := taskIn (planOf probe0) (run5 [(probeKey 1 0, { JoinTab.fresh 0 0 4 with parts := [q] })]) (work (.final 1 0) [])
    let s := (tasksOf (planOf probe0) t.e t.w).rs .JNU_CTL_max_level 0 7
    s.task 0 5 = some t ∧ t.w.todo = [] ∧ t.w.pos = 0 ∧
      (match t.probeFinal, s.partRecs t q with
        | some (x, _, b, _, tab), (u, some (q', build, probe)) => decide (tab.parts = [q] ∧ build = [rec5]) &&
          (match rebuild t.w b x.keys (decide (q.level < s.maxLevel 0)) build u ⟨JoinTab.fresh (q'.level + 1) q'.path (bucketBits b.estimate), [], []⟩ with
          | .ok (some (v, a)) => oks (reprobe t.w x false true probe v a)
          | _ => false)
        | _, _ => false) = true := by decide +kernel

/-- SpillAndAggregateRows: a pass over a group partition of one entry, at the next level and at the last. -/
theorem witness_SpillAndAggregateRows_groupPass : ∀ l ∈ [0, 7],
    let last := decide (l = 7)
    let q := partOf l (.groups [group 7 5]) ((AggSpec.mk 1 1 true 1 [(⟨0, 0, 0, ColType.int64⟩, ColType.int64)] [ColType.int64]).bytes (group 7 5))
    let t : Task := taskIn (planOf (agg0 1 true 1)) (groups [] [q] 0) (work (.final 1 0) [])
    let s := (tasksOf (planOf (agg0 1 true 1)) t.e t.w).rs .JNU_CTL_max_level 0 7
    s.task 0 5 = some t ∧ t.probeFinal = none ∧ t.w.todo = [] ∧ last = decide (s.maxLevel t.w.cluster ≤ q.level) ∧
      (match t.aggFinal, s.pageClose t.w 2 q.level q.path q.build (.groups []) with
        | some (x, _, tab), (u, b) => decide (tab.parts = [q] ∧ tab.entries = []) && (match readPages t.w b.full u with
          | (v, none) => decide (b.full.flatMap (fun g => g.body.groupList) = [group 7 5]) &&
            (match regroup t.w x (!last) [group 7 5] v ⟨q.level + 1, q.path, [], [], tab.units⟩ (Part.fresh q.level q.path (.groups [])) [] 18 with
            | .ok (v, g, left, _) => left.build.da.isNone && (v.groupUnits t.w.exec x g).isSome
            | .error _ => false)
          | _ => false)
        | _, _ => false) = true := by decide +kernel

/-- SpillAndAggregateRows: the first chunk of a partition beyond its budget at the last level, its last one. -/
theorem witness_SpillAndAggregateRows_chunk :
    let q := partOf 7 (.recs [rec5]) rec5.bytes
    let ops : List PlanOp := [⟨[], [⟨true, 0⟩], .scan 0 [0]⟩, ⟨[0], [⟨false, 0⟩], .joinProbe 0 2⟩, build0 2 0]
    let t : Task := taskIn (planOf ops) (run5 [(probeKey 1 0, { JoinTab.fresh 0 0 4 with parts := [q] })]) (work (.final 1 0) [])
    let s := (tasksOf (planOf ops) t.e t.w).rs .JNU_CTL_max_level 0 7
    s.task 0 5 = some t ∧ t.w.todo = [] ∧ s.maxLevel t.w.cluster ≤ q.level ∧ keepsBitmap 2 = false ∧
      (match t.probeFinal, s.partRecs t q with
        | some (x, _, b, _, tab), (u, some (q', build, probe)) => decide (tab.parts = [q] ∧ x.kind = 2) &&
          (let fresh := JoinTab.fresh (q'.level + 1) q'.path (bucketBits b.estimate)
           decide (s.buildBudget t.w.camp b.budget 0 < (build.foldl JoinTab.insert fresh).bytes) && (match u.openPages t.w.exec 0 t.w.maps [] with
           | .ok v _ _ => let c := chunkOf v t.w.camp b fresh (build.drop t.w.pos)
             decide (c.2 = []) && oks (chunkProbe t.w x (List.zip probe []) v c.1 [] []).2
           | _ => false))
        | _, _ => false) = true := by decide +kernel

/-- SpillAndAggregateRows: a batch to fold into a final and into a partial aggregate, and a batch of which nothing is live. -/
theorem witness_SpillAndAggregateRows_fold :
    ∀ final ∈ [true, false], ∀ c ∈ [batch1 [col64 5], { batch1 [col64 5] with sel := [false] }],
      let w := workAt 1 (.seed 0 0) [c]
      let t : Task := taskIn (planOf (agg0 0 final 1)) (run5 []) w
      let s := tasksOf (planOf (agg0 0 final 1)) t.e w
      s.task 0 5 = some t ∧ (t.head).map (·.2.2) = some c ∧ (t.aggSpec 1).map (fun x => (x.keys, x.final)) = some (0, final) ∧ w.pos = 0 ∧ filled [0] s w c = true ∧
        (match t.aggSpec 1, t.head with
          | some x, some (_, o, b) => ((b.liveRows.foldl (foldRow t.key x o) s).taskAt t.key).map (fun t' => (t'.w.failed, t'.w.folded.length, t'.w.partly))
          | _, _ => none) = some (none, c.liveRows.length, none) := by decide +kernel

/-- SpillAndAggregateRows: a merge into an entry and of a new one. -/
theorem witness_SpillAndAggregateRows_merge :
    (let t : Task := taskIn (planOf (agg0 1 true 1)) (groups [group 7 5] [] 1) { workAt 1 (.seed 0 0) [batch1 [col64 5]] with folded := [group 7 5], pos := 1 }
     let u : Task := { t with w := { t.w with folded := [group 7 4] } }
     let s := tasksOf (planOf (agg0 1 true 1)) t.e t.w
     s.task 0 5 = some t ∧ (match t.aggSpec 1 with
       | some x => decide (((s.groupDigit 0 x 0 (group 7 5)).toOption) = some (spillDigit 7 0) ∧ (t.groupTab x).parts = [] ∧ (t.groupTab x).entries = [group 7 5]) &&
         (match s.mergeInto 0 x (group 7 5) [group 7 5], s.mergeInto 0 x (group 7 4) [group 7 5] with
         | .into _, .absent => decide (({ u.groupTab x with entries := [group 7 5, group 7 4] } : GroupTab).bytes x ≤ s.groupBudget 0 0 x.budget) &&
             (s.groupUnits 1 x { u.groupTab x with entries := [group 7 5, group 7 4] }).isSome
         | _, _ => false)
       | none => false) = true) := by decide +kernel

/-- SpillAndAggregateRows: a table to finalise. -/
theorem witness_SpillAndAggregateRows_finalise :
    (let t : Task := taskIn (planOf (agg0 1 true 1)) (groups [group 7 5] [] 1) (work (.final 1 0) [])
     let s := tasksOf (planOf (agg0 1 true 1)) t.e t.w
     s.task 0 5 = some t ∧ (t.aggFinal).map (·.2.2.entries) = some [group 7 5] ∧ (t.p.lastOp t.w.frag).isSome = true ∧ t.w.todo = [] ∧
       (match t.aggFinal with
         | some (x, _, tab) => oks (tab.entries.mapM (fun g => finalVals x.fns g.accs 0))
         | none => false) = true) := by decide +kernel

/-- A sort of the SCAN's column by itself, and its record of a value. -/
def sort0 : List PlanOp := [⟨[], [⟨true, 0⟩], .scan 0 [0]⟩, ⟨[0], [⟨false, 0⟩], .sort 1 0 0 1⟩]
def sorted (v row : Nat) : SortRec := ⟨rowForm 0 [col64 v] 0, [], 0, row, []⟩

/-- SortRows: a run of one row and of none; two runs to merge at the end, and after a pass. -/
theorem witness_SortRows_run :
    ∀ c ∈ [batch1 [col64 5], { batch1 [col64 5] with sel := [false] }],
    let t : Task := taskIn (planOf sort0) (run5 []) (workAt 1 (.seed 0 0) [c])
    let s := tasksOf (planOf sort0) t.e t.w
    s.task 0 5 = some t ∧ (t.head).map (·.2.2) = some c ∧ filled [0] s t.w c = true ∧
      (match t.sortSpec 1, t.head with
        | some x, some (_, o, b) =>
          let all := s.sortRecs 0 x (b.liveRows.map (x.record o.ins b))
          all.lost.isEmpty && decide ((x.cut all.recs).length = c.liveRows.length) && (match s.storeRun t.w x (t.e.sortAt 1 t.sortDest) 0 0 (x.cut all.recs) [pageDigits] with
            | .ok v (q, ps) _ =>
              let v' := ((((all.reads.foldl (fun (s : State) (h : Nat × Nat) => s.chargeTask t.w h.1 h.2) v).setSort 1 x.op t.sortDest { q with runs := q.runs ++ [ps] }).ra .SRT_STAT_runs 0 1).setWork t.key t.w)
              (v'.taskAt t.key).any (fun t' => t'.w.failed.isNone)
            | _ => false)
        | _, _ => false) = true := by decide +kernel

/-- A written run page of one record, and a state whose task merges runs. -/
def runPage (k : Nat) : Page := ⟨pageDigits * (k + 1), .sorts [sorted (5 - k) k]⟩
def merging (next : List (List Page)) : Task :=
  taskIn (planOf sort0) { run5 [] with sorts := [(destKey 1 0, ⟨[[runPage 0], [runPage 1]], next, 0, [], 0, false⟩)] } (work (.final 1 0) [])
def mergeState (next : List (List Page)) : State :=
  [0, 1].foldl (fun (s : State) k => s.memPut (pageDigits * (k + 1)) (pageImage 0x3A12 0 0 k 1 0 (sorted (5 - k) k).bytes)) (tasksOf (planOf sort0) (merging next).e (merging next).w)

theorem witness_SortRows_merge :
    ∀ next ∈ [[], [[]]], (mergeState next).task 0 5 = some (merging next) ∧
      (match (merging next).sortSpec 1, (merging next).p.lastOp 0, readRuns (merging next).w [runPage 0, runPage 1] (mergeState next) with
        | some x, some o, (u, none) =>
          let t := merging next
          let all := u.sortRecs 0 x [sorted 5 0, sorted 4 1]
          let v := all.reads.foldl (fun (s : State) (h : Nat × Nat) => s.chargeTask t.w h.1 h.2) u
          let p := v.freeRuns t.w [runPage 0, runPage 1] (t.e.sortAt 1 0)
          all.lost.isEmpty && decide (x.cut all.recs = [sorted 4 1, sorted 5 0]) && (v.taskAt t.key).any (fun t' => t'.w.failed.isNone) &&
            decide (p.2.runs.length ≤ 64 ∧ p.2.next = next ∧ (x.batches o 0 (x.cut all.recs)).length ≤ 2 ^ 25) && (match p.1.storeRun t.w x p.2 1 0 (x.cut all.recs) [pageDigits] with
            | .ok _ _ _ => true
            | _ => false)
        | _, _, _ => false) = true := by decide +kernel

/-- A plan whose first fragment sends through an exchange to a second one that returns a result. -/
def sendPlan (mode : Nat) : Plan :=
  { noPlan with
    frags := [⟨0, 2, 0, 0, false, [0], 0⟩, ⟨2, 1, 0, 0, false, [0], 0⟩]
    ops := [⟨[], [⟨true, 0⟩], .scan 0 [0]⟩, ⟨[0], [⟨false, 0⟩], .exchange mode false false 4 0 0 [2, 9] []⟩, ⟨[0], [], .result [(0, false)]⟩]
    edges := [⟨0, 1, 0, 0, 0, 0⟩] }
def sendTask (mode : Nat) : Task := ⟨5, hashed (workAt 1 (.seed 0 0) [batch1 [col64 5]]) 1, run5 [], sendPlan mode, ⟨0, 2, 0, 0, false, [0], 0⟩⟩
/-- ExchangeAndResultRows: a batch to hash, broadcast or gather, and a packed row whose timeout passes at this tick. -/
theorem witness_ExchangeAndResultRows_send :
    (∀ mode ∈ [0, 2, 3], let t := sendTask mode
      let s := tasksOf (sendPlan mode) t.e t.w
      s.task 0 5 = some t ∧ (t.head).map (·.2.2) = some (batch1 [col64 5]) ∧ s.xchgOf 1 1 = some ⟨1, 1, mode, false, 4, [.cluster 2, .cluster 9], 1, false, mode == 2⟩ ∧
        t.w.hashed (batch1 [col64 5]) = true ∧ filled [0] s t.w (batch1 [col64 5]) = true) ∧
    (let e : Exec := { run5 [] with ports := [(portKey 1 0 1, { Port.empty with pack := [col64 5], packRows := 1, lastTick := 10 })] }
     let s : State := { (withPlan svc (sendPlan 0)) with execs := [(1, e)] }
     let f := s.rg .XCH_CTL_flush_ticks 0
     s.alive = true ∧ mget 1 s.execs = some e ∧ e.cancelled = false ∧ ((s.advance (10 + f)).xchgOf 1 1).isSome = true ∧ (s.port 1 (portKey 1 0 1)).packRows ≠ 0 ∧
       10 + s.rg .XCH_CTL_flush_ticks 0 ≤ (s.advance (10 + f)).ticks ∧ 2 ^ 64 - 1 < 2 ^ 64) := by decide +kernel

/-- ExchangeAndResultRows: a batch to return without ORDERED, and under it out of its turn and in its turn. -/
theorem witness_ExchangeAndResultRows_result :
    let res : PlanOp := ⟨[0], [], .result [(0, false)]⟩
    (let w := work (.seed 0 0) [batch1 [col64 5]]
     let s := tasks [res] w
     s.task 0 5 = some (taskOf [res] w) ∧ (taskOf [res] w).head = some (0, res, batch1 [col64 5]) ∧ run0.ring = 0xFFFF ∧ filled [0] s w (batch1 [col64 5]) = true ∧ (planOf [res]).ordered = false) ∧
    (∀ q ∈ [0, 1],
     let p : Plan := { noPlan with
       ordered := true
       frags := [⟨0, 2, 0, 0, false, [0], 0⟩, ⟨2, 1, 0, 0, false, [0], 0⟩]
       ops := [⟨[], [⟨true, 0⟩], .scan 0 [0]⟩, ⟨[0], [⟨false, 0⟩], .sort 1 0 0 1⟩, res]
       edges := [⟨0, 1, 0, 0, 0, 0⟩] }
     let b : Batch := { batch1 [col64 5] with seq := q }
     let w : Work := { work (.batch b) [b] with frag := 1 }
     let s := tasksOf p (run5 []) w
     let t : Task := ⟨5, w, run5 [], p, ⟨2, 1, 0, 0, false, [0], 0⟩⟩
     s.task 0 5 = some t ∧ t.head = some (0, res, b) ∧ filled [0] s w b = true ∧ (p.fragOf (t.opIx 0)).bind (p.sortAbove p.frags.length) = some 1 ∧ p.limitOf 1 = 0 ∧
       ((mget 1 (drainHeld 1 p 1 1 s).execs).map (·.nextOut)).getD 0 = 0 ∧ (s.execTake 1 b.units).isSome = true) := by decide +kernel

/-- One ternary segment of Camp 0 with the entry of the constant 5, of two entries. -/
def ternState (s : State) : State :=
  let s := (((s.rs .MAT_SEG_valid 3 1).rs .MAT_SEG_size 3 2).rs .MAT_SEG_camp 3 0)
  { s with run := { s.run with tern := ((inEntries false [.dig (natDigs 16 5)]).flatMap (fun e => e.entries false)).zipIdx.map (fun e => (e.2, e.1)) } }
/-- An IN filter on the column in hand. -/
def inOp : PlanOp := ⟨[0], [⟨false, 0⟩], .filter [⟨7, false, false, false, false, 0, 0, 0, 65⟩] [0]⟩
/-- TernaryRows: a core's search that hits, a row of an IN term, a candidate to step from, and scrubbing enabled. -/
theorem witness_TernaryRows :
    (let s := ternState svc
     s.alive = true ∧ s.rg .MAT_SEG_valid 3 ≠ 0 ∧ s.rg .MAT_SEG_camp 3 ≠ 1 ∧ s.rg .MAT_SEG_camp 3 = 0 ∧ TernParity.ok.isLost = false ∧ s.ternMatches 3 (natDigs 16 5) 0 = [0] ∧
       (svc.rs .MAT_CTL_scrub_en 0 1).rg .MAT_CTL_scrub_en 0 ≠ 0) ∧
    (∀ m ∈ [[], [(searchKey 0 0, Search.step (ternWord [0, 1]))]],
     let w : Work := { work (.seed 0 0) [batch1 [col64 5]] with search := m }
     let e : Exec := { run0 with segs := [(segKey 0 0, 3)] }
     let p : Plan := { planOf [inOp] with consts := List.replicate 65 ⟨ColType.int64, .dig (natDigs 16 5)⟩ }
     let s := ternState (tasksOf p e w)
     let t := taskIn p e w
     s.task 0 5 = some t ∧ t.head = some (0, inOp, batch1 [col64 5]) ∧ (s.termValue t 0 0).map (fun x => (x.1.op, x.2)) = some (7, v64 5) ∧ mget (segKey (t.opIx 0) 0) t.e.segs = some 3 ∧
       s.rg .MAT_SEG_camp 3 = t.w.camp ∧ mget (searchKey 0 0) w.search = (m.head?).map (·.2)) := by decide +kernel

/-- A gapped dictionary of Camp 0 that holds the key 5, and a core's request for a key. -/
def dict5 : GDict := ⟨0, 1, 0, [[(0, slotOf1 (v64 5) 0)]], 1, 1⟩
def dictState : State := { svc with run := { svc.run with dicts := [(2, dict5)] } }
def askFor (n : Nat) : MatchReq := .core 0 0 2 (natDigs 16 n) 0 0
/-- A core's request of the dictionary's own Camp is answered. -/
theorem witness_asks (n fn : Nat) : dictState.asks (askFor n) fn dictState ⟨2, dict5, 0, .dig ((natDigs 16 n).take 40), none⟩ := fun _ => rfl
/-- DictionaryRows: keys that are there, above and below; inserts of a held key and of a new one; a delete. -/
theorem witness_DictionaryRows :
    let s := dictState
    ((s.dictFloor dict5 (v64 5)).toOption).map (fun x => x.map (fun y => (y.1.payload, y.2))) = some (some (0, true)) ∧
    ((s.dictFloor dict5 (v64 6)).toOption).map (fun x => x.map (fun y => (y.1.payload, y.2))) = some (some (0, false)) ∧
    ((s.dictFloor dict5 (v64 4)).toOption).map (·.isNone) = some true ∧
    (match s.dictInsert dict5 (v64 5), s.dictInsert dict5 (v64 9) with
      | .ok (.had p), .ok (.ok d _ _) => p == 0 && (s.putDict 2 d).isSome
      | _, _ => false) = true ∧
    (match s.dictDelete dict5 (v64 5), s.dictDelete dict5 (v64 6) with
      | .ok (some d), .ok none => (s.putDict 2 d).isSome
      | _, _ => false) = true := by decide +kernel

/-- A two-state automaton (Table 07-4): one class, pattern 0 accepted in state 1 wherever it is, and its image's offset in a plan. -/
def autImage : Bytes :=
  wbytes ([0x0001A7F3, 2 + 2 ^ 17, 1, 1]) ++ lz 256 ++ wbytes [0, 1, 2 ^ 16, 1, 0, 609772883]
def autPlan (ops : List PlanOp) : Plan := { planOf ops with blob := autImage }
def autRun0 : Exec := { run0 with auts := [(0, 0)] }
def likeOp : PlanOp := ⟨[0], [⟨false, 0⟩], .filter [⟨10, false, false, false, false, 0, 0, 0, 0⟩] [0]⟩
/-- AutomatonRows: an automaton and its first match; a core's run; a LIKE term on a string with nothing read yet. -/
theorem witness_AutomatonRows :
    let utf : ColType := ⟨tUtf8, 0, 0⟩
    let b : Batch := ⟨0, 1, [⟨utf, none, [.str 3 (lz 16) 0]⟩], [true], []⟩
    let w := work (.seed 0 0) [b]
    let s := tasksOf (autPlan [likeOp]) autRun0 w
    let t := taskIn (autPlan [likeOp]) autRun0 w
    s.alive = true ∧ mget 1 s.execs = some autRun0 ∧ s.autOf 1 0 = some (autRead autImage) ∧ (autMatches (autRead autImage) (lz 3)).1 = [(1, 0), (2, 0), (3, 0)] ∧
      autRun0.camp ≠ 1 ∧ autRun0.camp = 0 ∧ s.task 0 5 = some t ∧ (s.termValue t 0 0).map (·.2) = some (.str 3 (lz 16) 0) ∧ mget (searchKey 0 0) w.search = none ∧
      autDeadIn (autRead autImage) ((lz 16).take (min 3 16)) 0 = false ∧ (s.strBytes (some 0) 3 (lz 16) 0).toOption = some (lz 3) := by decide +kernel

/-- TranslationAndCacheRows: a hit in the own cache, in the shared one, a walk that finds a page and one that faults, an invalidation. -/
theorem witness_TranslationAndCacheRows_walk :
    (let s := mapped svc 3
     s.alive = true ∧ (s.walk (some 0) 3 64).1.toOption = some (xlt0 3) ∧ xhit [] 3 64 = none ∧ (s.walk (some 0) 4 64).1.toOption = none) ∧
    xhit [xlt0 3] 3 64 = some (xlt0 3) ∧ (xlt0 3).allows .read = true ∧ (xlt0 3).allows .fetch = false ∧ svc.rg .XLT_INVAL_busy 0 = 0 ∧ bits ((BitVec.ofNat 64 2048).toNat) 11 1 = 1 := by decide +kernel

/-- TranslationAndCacheRows: memory that is there, a cluster that runs, a maintenance register idle and busy, a fill, an eviction, a unit to scrub. -/
theorem witness_TranslationAndCacheRows_cache :
    svc.alive = true ∧ svc.populated 512 = true ∧ svc.rg .PWR_CLUSTER_pstate 15 < 2 ∧ (512 % 256 / 2 + (lz 128).length ≤ 128) ∧ svc.rg .CCH_MAINT_busy 15 = 0 ∧
    (let s := svc.rs .CCH_MAINT_busy 15 1
     s.rg .CCH_MAINT_busy 15 = 1 ∧ (maintClusters 15 (s.rg .CCH_MAINT_all_clusters 15 == 1)).all (fun k => (s.cache k).maint.isEmpty) = true) ∧
    (let f : Fill := ⟨2, 0, 0, 0, 0, [], none⟩
     let s := svc.setCache 15 { ClusterCache.empty with fills := [f], evb := [⟨3, 0, lz 128, false⟩] }
     (s.cache 15).fills.find? (fun f => f.num == 2) = some f ∧ f.waitCtl = none ∧ f.merge = [] ∧ s.memPoisoned (256 * 2) 128 = false ∧
       (s.cache 15).evb.find? (fun e => e.num == 3) = some ⟨3, 0, lz 128, false⟩) ∧
    (∀ da ∈ [512, 2 ^ 40], let s := ((svc.rs .NMC_CTL_scrub_hours 0 1).rs .FMC_CTL_scrub_hours 0 1)
      (if da < 2 ^ 40 then s.rg .NMC_CTL_scrub_hours 0 else s.rg .FMC_CTL_scrub_hours 0) ≠ 0) := by decide +kernel

/-- A ring of two entries of channel 95 of Camp 0 at DA 0x400000, one posted. -/
def ringOn (typ : Nat) (flags : Nat) (ch : Nat) : State :=
  let s := ((((mapped svc 0).rs .DMA_RING_enable ch 1).rs .DMA_RING_base ch 0x400000).rs .DMA_RING_size_log2 ch 1)
  ((s.rs .DMA_CHSTAT_lap ch 1).rs .DMA_POST_posted ch 1).memPut 0x400000
    (leBytes 4 (1 + 4 * typ + flags + 65536) ++ leBytes 4 64 ++ leBytes 8 (if typ = 3 then 0 else 0x600000) ++ leBytes 8 0x700000 ++ leBytes 8 7)
/-- DmaRings: a ring disabled, enabled, halted; posts within and beyond the depth. -/
theorem witness_DmaRings :
    svc.alive = true ∧ svc.rg .DMA_RING_enable 95 = 0 ∧ (ringOn 2 0 95).rg .DMA_RING_enable 95 = 1 ∧ (svc.rs .DMA_CHSTAT_halted 95 1).rg .DMA_CHSTAT_halted 95 = 1 ∧
    (let s := ringOn 2 0 95
     (2 + 2 ^ 32 - s.rg .DMA_CHSTAT_taken 95) % 2 ^ 32 ≤ 2 ^ s.rg .DMA_RING_size_log2 95 ∧ 2 ≠ s.rg .DMA_POST_posted 95 ∧
       2 ^ s.rg .DMA_RING_size_log2 95 < (3 % 2 ^ 32 + 2 ^ 32 - s.rg .DMA_CHSTAT_taken 95) % 2 ^ 32) := by decide +kernel
/-- DmaRings: a device copy, a copy from and one to the host, and a host zero, each taken. -/
theorem witness_DmaRings_take : ∀ x ∈ [(2, 0, 95), (2, 256, 0), (2, 512, 0), (3, 512, 63), (3, 0, 64)],
    let s := ringOn x.1 x.2.1 x.2.2
    let ch := x.2.2
    let e := s.memGet 0x400000 32
    let w := word32 e 0
    s.alive = true ∧ s.rg .DMA_RING_enable ch = 1 ∧ s.rg .DMA_CHSTAT_halted ch = 0 ∧ mhas ch s.io.dma = false ∧ s.dmaTaken ch ≠ s.dmaPosted ch ∧
      (s.dmaSlotDa ch 0 .read).toOption = some 0x400000 ∧ s.memPoisoned 0x400000 32 = false ∧ dmaMalformed ch (dmaLap (s.dmaTaken ch) 1) e = false ∧ s.dmaHeld ch w (word64 e 2) (word64 e 4) = false ∧
      bits w 2 6 = x.1 ∧ bits w 8 1 = x.2.1 / 256 % 2 ∧ bits w 9 1 = x.2.1 / 512 ∧ s.dmaFn 0 = some 0 ∧
      ({ s with host := { s.host with link := { s.host.link with up := false } } } : State).dmaFn 0 = none := by decide +kernel

/-- DmaDescriptorProgress: a descriptor from the host with nothing staged yet, with a few staged bytes that idle, draining, and completing. -/
theorem witness_DmaDescriptorProgress :
    let d : DmaActive := ⟨0, 1 + 8 + 256 + 65536, 64, 0x1000, 0x700000, 7, 0, [], 0, 0, false, 0, 0, false, none⟩
    let s : State := { ringOn 2 256 0 with io := { svc.io with dma := [(0, d)] } }
    s.alive = true ∧ mget 0 s.io.dma = some d ∧ d.completing = false ∧ d.draining = false ∧ d.readOff < d.len ∧ d.status = 0 ∧ d.staged.length < 32768 ∧ bits d.word0 8 1 = 1 ∧
      (lz 64).take (min (32768 - d.staged.length) (d.len - d.readOff)) ≠ [] ∧
      (let i := { d with staged := lz 4, readOff := 4 }
       i.staged ≠ [] ∧ i.staged.length < ((s.advance 1000).dmaMarks 0).1 ∧ i.lastIn + s.rg .DMA_MARKS_idle_ticks 0 ≤ (s.advance (s.rg .DMA_MARKS_idle_ticks 0)).ticks) ∧
      ({ d with draining := true } : DmaActive).draining = true ∧ ({ d with completing := true } : DmaActive).completing = true ∧ d.lastIn + 1250000 ≤ (s.advance 1250000).ticks := by decide +kernel

/-- EventRows: an assigned source pending for the highest core, a core in claim mode, a source in service, a hold-off at its tick. -/
theorem witness_EventRows :
    (let s := (((svc.rs .EVR_SRC_pending 511 1).rs .EVR_SRC_target 511 3).rs .EVR_SRC_mask 511 0)
     s.alive = true ∧ eventAssigned 511 = true ∧ s.rg .EVR_SRC_pending 511 = 1 ∧ s.rg .EVR_SRC_pending 184 = 0 ∧ s.rg .EVR_CORE_mode 3 ≠ 1 ∧ s.rg .EVR_CORE_request 3 ≠ 1 ∧ s.select 3 = some 511 ∧
       (s.rs .EVR_CORE_mode 3 1).rg .EVR_CORE_mode 3 ≠ 0 ∧ (s.rs .EVR_CORE_mode 3 1).select 3 = some 511 ∧ (svc.rs .EVR_CORE_mode 3 1).select 3 = none) ∧
    (let s := (svc.rs .EVR_SRC_in_service 511 1).rs .EVR_SRC_target 511 3
     s.rg .EVR_SRC_target (511 % 512) = 3 ∧ s.rg .EVR_SRC_in_service (511 % 512) = 1) ∧
    (let s : State := { svc with io := { svc.io with holdUntil := [(31, 100)] } }
     mget 31 s.io.holdUntil = some 100 ∧ 100 ≤ (s.advance 100).ticks) := by decide +kernel

/-- DigestEngineRows: contexts to claim and none; one claimed, one active with room for a feed and with four; one with a block to process; one done. -/
theorem witness_DigestEngineRows :
    (List.range 16).find? (fun c => svc.rg .DGE_STAT_state (16 * 16 + c) == 0) = some 0 ∧
    (let s := (List.range 16).foldl (fun (s : State) c => s.rs .DGE_STAT_state (16 * 16 + c) 1) svc
     (List.range 16).find? (fun c => s.rg .DGE_STAT_state (16 * 16 + c) == 0) = none ∧ s.rg .DGE_STAT_state (16 * 16 + 15) = 1) ∧
    (let k := 16 * 16 + 15
     let s := (mapped svc 0).rs .DGE_STAT_state k 2
     s.rg .DGE_STAT_state k = 2 ∧ (s.dctx k).feeds.length < 4 ∧ (s.viewBytes none (s.rg .DGE_CTL_camp k) (pagesOf 3) 0x300000 3).toOption = some (lz 3, false) ∧
       ((s.setDctx k { s.dctx k with feeds := List.replicate 4 ⟨[1], false⟩ }).dctx k).feeds.length = 4 ∧
       (s.setDctx k { s.dctx k with alg := 0, chain := (algOf 0).init, feeds := [⟨[1], false⟩], finish := true }).dgeNext 16 = some k) ∧
    (∀ o ∈ [DgeOwner.regs, .command 0], let k := 16 * 16 + 15
     let c := { cmd 0x22 1 0 [] 0 with wait := .digest k }
     let s := ((one c).rs .DGE_STAT_state k 2).setDctx k { DgeCtx.empty with result := lz 48, owner := o }
     s.rg .DGE_STAT_state k = 2 ∧ (s.dctx k).result ≠ [] ∧ (s.dctx k).owner = o ∧ s.host.cmds.find? (fun d => d.wait == .digest k) = some c) := by decide +kernel

/-- RegisterRows: a configuration register, a function register and the first of its block, at their places. -/
theorem witness_RegisterRows :
    svc.alive = true ∧ (∀ r ∈ [Reg.PWR_LIMIT, .CPM_RATION, .EVR_VEC, .DMA_POST], let da := 0x3F0000000000 + 16 * ((r.block * 0x40 + r.num) * 0x4000)
      0x3F0000000000 ≤ da ∧ da < 0x3F8000000000 ∧ da % 16 = 0 ∧ regOfKey ((da - 0x3F0000000000) / 16) = some (r, 0) ∧ r ≠ .DGE_ALLOC ∧ r ≠ .EVR_CLAIM) ∧
    (Reg.all.any (fun r => r.isFunction)) = true ∧ Reg.PWR_LIMIT.isFunction = false := by decide +kernel

/-- UliarIntegers. -/
theorem witness_UliarIntegers : ∀ i ∈ [Instr.uNop 128 0, .uAdd 128 0 4 1 2, .uSub 128 0 4 1 2, .uAnd 128 0 4 1 2, .uOr 128 0 4 1 2, .uXor 128 0 4 1 2, .uShl 128 0 4 1 2, .uShr 128 0 4 1 2, .uSar 128 0 4 1 2,
    .uMul 128 0 4 1 2, .uMulh 128 0 4 1 2, .uDiv 128 0 4 1 2, .uDiv 128 0 4 1 0, .uRem 128 0 4 1 2, .uRem 128 0 4 1 0, .uSlt 128 0 4 1 2, .uSltu 128 0 4 1 2, .uMov 128 0 4 1, .uAddi 128 0 4 0x80, .uLi 128 0 4 0x80,
    .uShli 128 0 4 36, .uShri 128 0 4 63, .uSari 128 0 4 35, .uLil 128 0 4 0x200000, .uLui 128 0 4 0x3FFF, .uAddil 128 0 4 1 0x200000], meets i ctx0 none (fun _ _ => true) = true := by decide +kernel

/-- UliarMemory: accesses that succeed, one outside the apertures, an odd pair, and the stack pointer at its bounds. -/
theorem witness_UliarMemory :
    let ok {α : Type} : UAns α → Bool | .ok _ _ _ => true | _ => false
    let exc {α : Type} : UAns α → Bool | .exc _ _ _ => true | _ => false
    let ld (m : Nat) (t : State) (u : UCtx) : Bool := ok (t.uLoad 128 u (u.greg 1).toNat m)
    let st (m : Nat) (t : State) (u : UCtx) : Bool := ok (t.uStore 128 u (u.greg 1).toNat m 7)
    (meets (.uLdg 128 0 4 1 0) ctx0 none (ld 1) && meets (.uLdb 128 0 4 1 0) ctx0 none (ld 2) && meets (.uLdw 128 0 4 1 0) ctx0 none (ld 9) &&
      meets (.uStg 128 0 4 1 0) ctx0 none (st 1) && meets (.uStb 128 0 4 1 0) ctx0 none (st 2) && meets (.uStw 128 0 4 1 0) ctx0 none (st 9) &&
      meets (.uLdw 128 0 4 2 0) ctx0 none (fun t u => exc (t.uLoad 128 u (u.greg 2).toNat 9)) && meets (.uStw 128 0 4 2 0) ctx0 none (fun t u => exc (t.uStore 128 u (u.greg 2).toNat 9 7)) &&
      meets (.uLdp 128 0 4 1 0) ctx0 none (fun t u => ok (t.uLoadPair 128 u (2 ^ 32))) && meets (.uLdp 128 0 5 1 0) ctx0 none (fun _ _ => true) &&
      meets (.uStp 128 0 4 1 0) ctx0 none (fun t u => ok (t.uStorePair 128 u (2 ^ 32) 7)) && meets (.uStp 128 0 5 1 0) ctx0 none (fun _ _ => true)) = true ∧
    (meets (.uLsl 128 0 4 1 0 0 0) ctx0 none (ld 1) && meets (.uLsl 128 0 4 1 1 0 0) ctx0 none (ld 2) && meets (.uLsl 128 0 4 1 2 0 0) ctx0 none (ld 9) && meets (.uLsl 128 0 4 1 3 0 0) ctx0 none (ld 18) &&
      meets (.uLsl 128 0 4 1 0 1 0) ctx0 none (st 1) && meets (.uLsl 128 0 4 1 1 1 0) ctx0 none (st 2) && meets (.uLsl 128 0 4 1 2 1 0) ctx0 none (st 9) && meets (.uLsl 128 0 4 1 3 1 0) ctx0 none (st 18) &&
      meets (.uLsl 128 0 5 1 3 1 0) ctx0 none (fun _ _ => true) && meets (.uFls 128 0 63 1 0 0) ctx0 none (ld 18) && meets (.uFls 128 0 63 1 1 0) ctx0 none (st 18)) = true ∧
    (meets (.uPush 128 0 1) ctx0 none (fun t u => decide (¬ (u.creg crDsp < 9 ∨ u.creg crDsp - 9 < u.creg crDslim)) && (u.aperture (u.creg crDsp - 9) 9 .write false).toBool && ok (t.moveDsp 128 u (u.creg crDsp - 9))) &&
      meets (.uPush 128 0 1) (ctx0.setCreg 8 (2 ^ 32 + 8)) none (fun _ u => decide (u.creg crDsp - 9 < u.creg crDslim)) &&
      meets (.uPush 128 0 1) ((ctx0.setCreg 8 900).setCreg 9 0) none (fun _ u => !(u.aperture (u.creg crDsp - 9) 9 .write false).toBool && decide (u.creg crDslim ≤ u.creg crDsp - 9)) &&
      meets (.uPop 128 0 1) ctx0 none (fun t u => (match t.uLoad 128 u (u.creg crDsp) 9 with | .ok v w _ => ok (v.moveDsp 128 w (u.creg crDsp + 9)) | _ => false)) &&
      meets (.uDspadj 128 0 0xFF) ctx0 none (fun t u => decide (u.creg crDslim ≤ u.creg crDsp - 9) && ok (t.moveDsp 128 u (u.creg crDsp - 9))) &&
      meets (.uDspadj 128 0 0x80) ctx0 none (fun _ u => decide (u.creg crDsp - 9 * 128 < u.creg crDslim)) && meets (.uDspadj 128 0 0x7F) ctx0 none (fun t u => ok (t.moveDsp 128 u (u.creg crDsp + 9 * 127)))) = true := by decide +kernel

/-- UliarTransfers: every branch; the return stack with room, full, empty, and with an entry of kind 0 and of kind 1. -/
theorem witness_UliarTransfers :
    (∀ i ∈ [Instr.uBz 128 0 1 0x80, .uBnz 128 0 1 0x7F, .uBltz 128 0 1 2, .uBgez 128 0 1 2, .uBr 128 0 0xFF, .uJr 128 0 1, .uCallr 128 0 1, .uBcmp 128 0 1 2 0 0x40000, .uBcmp 128 0 1 2 6 0,
      .uBcmp 128 0 1 2 7 0, .uBrl 128 0 0 0x200000, .uBrl 128 0 1 4, .uBrl 128 0 2 4], meets i ctx0 none (fun _ u => decide (u.creg crCsp < u.creg crRslim)) = true) ∧
    meets (.uCallr 128 0 1) (ctx0.setCreg 0xB 0) none (fun _ u => decide (u.creg crRslim ≤ u.creg crCsp)) = true ∧
    meets (.uRet 128 0) ctx0 none (fun t u => (t.rsPeek 128 0 u 0).isNone) = true ∧
    (∀ k ∈ [0, 1], meets (.uRet 128 0) { ctx0.setCreg 0xA 1 with rcache := [rsEntry 90 true k] } none (fun t u => decide (t.rsPeek 128 0 u 0 = some (rsEntry 90 true k))) = true) := by decide +kernel

/-- A transfer before the position in hand, and a context in its delay slot. -/
def xfer0 (taken : Bool) (a : StackAct) : Xfer := ⟨⟨2 ^ 36 - 9, true⟩, ⟨90, true⟩, taken, a⟩
def inSlot (x : Xfer) : UCtx := { ctx0 with xfer := some x }
/-- UliarDelaySlots: instructions that a slot may not hold, an illegal code in one, and those of the statement, behind transfers of every kind. -/
theorem witness_UliarDelaySlots :
    (∀ i ∈ [Instr.uBr 128 0 0, .uRet 128 0, .uLil 128 0 1 0, .ecallDevtime 128 0, .uWait 128 0, .uYield 128 0, .uEret 128 0, .uIret 128 0, .uBrk 128 0],
      meets i (inSlot (xfer0 true .keep)) (some (xfer0 true .keep)) (fun _ _ => (uCode i).any (fun c => c.2.2.slotForbids)) = true) ∧
    (let s := uState 0 (inSlot (xfer0 true .keep))
     s.uReady 128 0 = true ∧ (match s.uFetch 128 (s.uctx (ctxKey 128 0)) with | .ok _ u w => isIllegal w u.pos.half && u.xfer.isSome | _ => false) = true) ∧
    (∀ x ∈ [xfer0 true .keep, xfer0 false .pop, xfer0 true (.push ⟨9, false⟩)], meets (.uNop 128 0) (inSlot x) (some x) (fun _ _ => true) = true ∧ meets (.uAdd 128 0 4 1 2) (inSlot x) (some x) (fun _ _ => true) = true ∧
      meets (.uDiv 128 0 4 1 0) (inSlot x) (some x) (fun t u => decide ((t.stackAct 128 0 u x.act).2.greg 0 = 0)) = true) := by decide +kernel

/-- UliarExceptions, UliarDoubleFault: a context whose exc is 0, at both levels, and one whose exc is 1; an illegal code. -/
theorem witness_UliarExceptions :
    ctx0.creg 0 % 8 < 4 ∧ (ctx0.setCreg 0 1).creg 0 % 8 < 4 ∧ ctx0.inv = none ∧ (ctx0.setCreg 0 4).creg 0 / 4 % 2 = 1 ∧ svc.alive = true ∧ svc.rg .ULR_FAULTLOG_valid 131 = 0 ∧
    (let s := uState 0 ctx0
     s.uReady 128 0 = true ∧ (match s.uFetch 128 (s.uctx (ctxKey 128 0)) with | .ok _ u w => isIllegal w u.pos.half && u.xfer.isNone | _ => false) = true) := by decide +kernel

/-- UliarEret: at level F and at level X. -/
theorem witness_UliarEret : ∀ st ∈ [6, 7], meets (.uEret 128 0) (ctx0.setCreg 0 st) none (fun _ u => decide (u.creg 0 = st)) = true := by decide +kernel

/-- UliarSystem: each instruction; IRET over the right entries and over others; control registers of every kind, unknown ones, and at level X. -/
theorem witness_UliarSystem :
    (∀ i ∈ [Instr.uFenceW 128 0, .uFenceRw 128 0, .uWait 128 0, .uYield 128 0, .uBrk 128 0], meets i ctx0 none (fun t u => (match t.cleanAll 128 u with | .ok _ _ () => true | _ => false)) = true) ∧
    meets (.uIret 128 0) (ctx0.setCreg 0 1) none (fun _ u => decide (u.creg 0 % 2 = 1)) = true ∧
    (∀ k ∈ [1, 2], meets (.uIret 128 0) { ctx0.setCreg 0xA 2 with rcache := [rsEntry 0x18 false k, rsEntry 90 true 1] } none (fun t u =>
      decide (t.rsPeek 128 0 u 0 = some (rsEntry 0x18 false k) ∧ t.rsPeek 128 0 u 1 = some (rsEntry 90 true 1))) = true) ∧
    (∀ n ∈ [0x0F, 0x30, 0xFF, 0, 0x0E, 0x2F], meets (.uCsrr 128 0 4 (BitVec.ofNat 8 n)) ctx0 none (fun _ _ => true) = true) ∧
    (∀ n ∈ [5, 6], meets (.uCsrr 128 0 4 (BitVec.ofNat 8 n)) (ctx0.setCreg 0 1) none (fun _ _ => true) = true) ∧
    (∀ n ∈ [0x0F, 8, 0x0E, 9, 0, 0x0C, 0x10, 0x2F], meets (.uCsrw 128 0 1 (BitVec.ofNat 8 n)) ctx0 none (fun t u => decide ((u.greg 1).toNat / 2 ^ 17 % 4 ≠ 3) && (match t.cleanAll 128 u with | .ok _ _ () => true | _ => false)) = true) ∧
    meets (.uCsrw 128 0 1 0x20) (ctxWith [(1, 3 * 2 ^ 17)]) none (fun _ u => decide ((u.greg 1).toNat / 2 ^ 17 % 4 = 3)) = true := by decide +kernel

/-- A vector configuration of an element size and length. -/
def vctx (sew vl : Nat) : UCtx := ctx0.setCreg 6 (vl + 256 * sew)
/-- UliarVectors: element sizes right and wrong, and memory instructions that finish. -/
theorem witness_UliarVectors :
    (∀ b ∈ [0, 1, 2, 3, 15], meets (.uVsetl 128 0 4 1 (BitVec.ofNat 4 b)) ctx0 none (fun _ _ => true) = true) ∧
    (∀ sew ∈ [0, 1, 2], meets (.uVint 128 0 7 1 2 7) (vctx sew 2) none (fun _ u => decide (u.sew = sew)) = true ∧ meets (.uVdig 128 0 7 1 2 4) (vctx sew 2) none (fun _ u => decide (u.sew = sew)) = true ∧
      meets (.uVfp 128 0 7 1 2 6) (vctx sew 2) none (fun _ u => decide (u.sew = sew ∧ u.vl ≤ 8 ∧ 0 < u.vl)) = true) ∧ meets (.uVfp 128 0 7 1 2 7) (vctx 2 2) none (fun _ _ => true) = true ∧
    (let ok : UAns Unit → Bool | .ok _ _ _ => true | _ => false
     (meets (.uVld 128 0 7 1 0) (vctx 1 2) none (fun t u => ok (vrun 128 7 false (u.strided 7 1 0) t u)) && meets (.uVst 128 0 7 1 0) (vctx 0 3) none (fun t u => ok (vrun 128 7 true (u.strided 7 1 0) t u)) &&
       meets (.uVgather 128 0 7 1 6) (vctx 2 1) none (fun t u => ok (vrun 128 7 false (u.indexed 7 1 6) t u)) && meets (.uVscatter 128 0 7 1 6) (vctx 1 1) none (fun t u => ok (vrun 128 7 true (u.indexed 7 1 6) t u)) &&
       meets (.uVgather 128 0 7 1 7) (vctx 1 1) none (fun _ _ => true)) = true) := by decide +kernel
/-- UliarVectors: a second element outside the apertures, in BOOT. -/
theorem witness_UliarVectors_fault :
    let i : Instr := .uVld 128 0 7 1 2
    let s : State := { uState (wordOf i) ((vctx 1 2).setG 2 (2 ^ 33)) with mode := .boot }
    meetsIn s i none (fun t u => decide (t.mode = .boot ∧ vfault 128 7 false (u.strided 7 1 2) t u = 1) && (match vrun 128 7 false (u.strided 7 1 2) t u with | .exc _ _ _ => true | _ => false)) = true := by decide +kernel

/-- UliarFloats: every function with its fields, and one with a field too many. -/
theorem witness_UliarFloats :
    (∀ k ∈ List.range 16, meets (.uFop 128 0 0 0 0 (BitVec.ofNat 6 k) 0 0) ctx0 none (fun _ _ => true) = true) ∧ meets (.uFop 128 0 63 62 61 2 0 0) ctx0 none (fun _ _ => true) = true ∧
      meets (.uFop 128 0 63 62 61 2 1 0) ctx0 none (fun _ _ => true) = true ∧ meets (.uFop 128 0 63 0 0 12 1 1) ctx0 none (fun _ _ => true) = true := by decide +kernel

/-- An invocation of service 3 of Camp 0 that waits for nothing, with execution 9 to wait for. -/
def inv0 : Invocation := ⟨0, none, 1, 3, 0, 1, 100, 0, 0, 0, false, [9], none⟩
def calls (g : List (Nat × Nat)) : UCtx := { ctxWith g with inv := some inv0 }
/-- The context's state with bytes at its data aperture. -/
def callState (i : Instr) (g : List (Nat × Nat)) (b : Bytes) : State := (withPlan (uState (wordOf i) (calls g)) noPlan).memPut 0x300000 b
/-- UliarCalls: calls without an invocation, and each call with one, with operands that it takes and with others. -/
theorem witness_UliarCalls :
    (∀ i ∈ [Instr.ecallPlanLoad 128 0 0, .ecallPlanDrop 128 0, .ecallExecute 128 0 [], .ecallExecWait 128 0, .ecallDigest 128 0, .ecallRetain 128 0, .ecallHandler 128 0, .ecallDevtime 128 0],
      meets i ctx0 none (fun _ u => u.inv.isNone) = true) ∧
    (∀ n ∈ [0, 65536, 65537], meets (.ecallExit 128 0) (calls [(1, 7), (2, n)]) none (fun t u => decide (n = 65537) || ((t.setU (ctxKey 128 0) u).ecallRead 128 u (5 * 2 ^ 32) (n / 16384)).toBool) = true) ∧
    meetsIn (callState (.ecallPlanLoad 128 0 0x900000) [(1, 2 ^ 32), (2, 160)] image) (.ecallPlanLoad 128 0 0x900000) none (fun t u =>
      decide ((t.ecallRead 128 u (2 ^ 32) 8).toOption = some (image.take 8) ∧ imageLen (image.take 8) = some 160 ∧ (ecallLen 160 160).toOption = some 0 ∧ (t.ecallRead 128 u (2 ^ 32) 160).toOption = some image) &&
        (t.loadPlan 0 image 0x900000).toBool) = true ∧
    meetsIn (callState (.ecallExecute 128 0 []) [(1, handle0), (2, 2 ^ 32), (3, 8)] (wbytes [0, 8])) (.ecallExecute 128 0 []) none (fun t u =>
      decide ((t.ecallRead 128 u (2 ^ 32) 8).toOption = some (wbytes [0, 8])) && (ecallLen 8 8).toBool && blockHeadOk (wbytes [0, 8]) && u.resultOk 0 0 && (match t.bindPlan 0 handle0 (wbytes [0, 8]) with
        | .ok (ps, q, p, m) => (t.planLost ps q).isNone && (t.tablesLost 0 p m).isNone && (t.startRun 0 ps p m (.service 128 0 0 0) 0 0xFFFF false []).toBool
        | .error _ => false)) = true ∧
    meets (.ecallExecWait 128 0) (calls [(1, 8)]) none (fun _ _ => decide (8 ∉ inv0.execs)) = true ∧
    meets (.ecallExecWait 128 0) (calls [(1, 9)]) none (fun t _ => decide (9 ∈ inv0.execs ∧ mget 9 t.ulr.results = none)) = true ∧
    (let s := callState (.ecallExecWait 128 0) [(1, 9)] []
     meetsIn { s with ulr := { s.ulr with results := [(9, ⟨0, 0, 0, 0⟩)] } } (.ecallExecWait 128 0) none (fun t _ => decide (mget 9 t.ulr.results = some ⟨0, 0, 0, 0⟩))) = true := by decide +kernel
/-- UliarCalls: a digest fed, a record retained and one that finds no room, a handler set, cleared and beyond the code aperture. -/
theorem witness_UliarCalls_more :
    (let i : Instr := .ecallDigest 128 0
     let k := 16 * engineOf 128 + 5
     let s := (callState i [(1, 1024), (2, 5), (3, 2 ^ 32), (4, 2)] []).rs .DGE_STAT_state k 2
     meetsIn (s.setDctx k { DgeCtx.empty with owner := .thread 128 0 }) i none (fun t u => decide ((1024 : Nat) < 2 ^ 11 ∧ 1024 % 4 ≠ 3 ∧ 1024 / 512 % 4 = 2) && (t.ecallRead 128 u (2 ^ 32) 2).toBool &&
       decide ((t.dctx k).owner = .thread 128 0 ∧ t.rg .DGE_CTL_camp k = 0 ∧ t.rg .DGE_STAT_state k = 2 ∧ (t.dctx k).gen = 5 / 16 % 16 ∧ (t.dctx k).finish = false))) = true ∧
    meets (.ecallRetain 128 0) (calls [(2, 2 ^ 32), (3, 4)]) none (fun t u => (t.ecallRead 128 u (2 ^ 32) (min 4 (t.storeCapacity 0 + 1))).toBool) = true ∧
    (∀ a ∈ [0, 9, 2 ^ 32], meets (.ecallHandler 128 0) (calls [(1, a)]) none (fun _ u => decide (a = 0 ∨ 2 ^ 32 ≤ a) || (u.aperture a 9 .fetch false).toBool) = true) := by decide +kernel

/-- UliarEventRequests: a request that the highest core may take, one it may not, and one that finds no room on the return stack. -/
theorem witness_UliarEventRequests : ∀ x ∈ [(8, 64), (0, 64), (8, 1)],
    let q : CoreReq := ⟨511, 15, 90, 0⟩
    let s0 := svc.rs .ULR_CORE_CTL_enable 131 1
    let s : State := { s0 with ulr := { s0.ulr with ctxs := [(ctxKey 131 0, (ctx0.setCreg 0 x.1).setCreg 0xB x.2)] }, io := { s0.io with reqs := [(3, q)] } }
    let u := s.uctx (ctxKey 131 0)
    s.coreRuns (128 + 3) = true ∧ mhas (ctxKey (128 + 3) 0) s.ulr.ctxs = true ∧ mget 3 s.io.reqs = some q ∧ (u.creg 0 / 8 % 2 = x.1 / 8 ∧ u.creg 0 / 4 % 2 = 0 ∧ u.xfer = none ∧ u.creg 0 / 16 % 32 < q.priority + 1) ∧
      (x.2 = 64 → u.creg 0x0A + 2 ≤ u.creg 0x0B) ∧ (x.2 = 1 → u.creg 0x0B < u.creg 0x0A + 2) := by decide +kernel

/-- UliarDecode: words written out from Table 14-4, a code of each format, and an illegal one. -/
theorem witness_UliarDecode :
    isIllegal 0 false = true ∧ (∀ i ∈ [Instr.uAdd 128 0 3 1 2, .uLil 128 0 3 5, .uFop 128 0 1 2 3 0 0 0, .ecallPlanLoad 128 0 7], (uCode i).any (fun c => c.2.2.stands (wordOf i) false) = true) := by decide +kernel

/-- ModesWithoutEngines: a step in HALTED and one in RESET. -/
theorem witness_ModesWithoutEngines : ∀ m ∈ [Mode.halted, .reset],
    ({ svc with mode := m, pending := [Instr.xltInvalDone] } : State).pending = [Instr.xltInvalDone] ∧ ({ svc with mode := m } : State).mode = m := by decide +kernel

/-- DeviceMemory: two ranges side by side, a management core, two digits of one byte, and the memory after reset. -/
theorem witness_DeviceMemory : (512 / 2 + 4 ≤ 520 / 2) ∧ 128 ≤ 131 ∧ (513 : Nat) ≠ 512 ∧ Memory.wf State.reset.m.mem = true := by decide +kernel

/-! ### Ill-formed operands: one command for each check of WellFormed, refused, beside the largest it takes -/

theorem test_wf_places :
    (Instr.functionLevelReset 127).wf = true ∧ (Instr.functionLevelReset 128).wf = false ∧
    (Instr.resultBatch 1 65535).wf = true ∧ (Instr.resultBatch 2 0).wf = false ∧ (Instr.resultBatch 0 65536).wf = false ∧
    (Instr.retainedCompletionPost 1023).wf = true ∧ (Instr.retainedCompletionPost 1024).wf = false ∧
    (Instr.cacheMaintDone 15).wf = true ∧ (Instr.cacheMaintDone 16).wf = false ∧ (Instr.dmaReset 95).wf = true ∧ (Instr.dmaReset 96).wf = false ∧
    (Instr.dgeBlock 16).wf = true ∧ (Instr.dgeBlock 17).wf = false ∧ (Instr.evrPendWrite 31 0).wf = true ∧ (Instr.evrPendWrite 32 0).wf = false ∧
    (Instr.evrMaskWindowClose 511).wf = true ∧ (Instr.evrMaskWindowClose 512).wf = false ∧ (Instr.patrolScrub (2 ^ 46 - 1) .ok).wf = true ∧ (Instr.patrolScrub (2 ^ 46) .ok).wf = false := by decide

/-- An invocation's place. -/
def placed (core slot tag : Nat) : SvcEnv := ⟨core, slot, tag, none, [], [], 0, 0⟩
theorem test_wf_contexts :
    (Instr.uNop 127 31).wf = true ∧ (Instr.uNop 127 32).wf = false ∧ (Instr.uNop 131 0).wf = true ∧ (Instr.uNop 131 1).wf = false ∧ (Instr.uNop 132 0).wf = false ∧
    (Instr.ecallPlanLoad 128 0 (2 ^ 46)).wf = false ∧ (Instr.eventDeliveryCommit 515 (placed 127 31 65535)).wf = true ∧ (Instr.eventDeliveryCommit 516 (placed 0 0 0)).wf = false ∧
    (Instr.eventDeliveryCommit 0 (placed 128 0 0)).wf = false ∧ (Instr.eventDeliveryCommit 0 (placed 0 32 0)).wf = false ∧ (Instr.eventDeliveryCommit 0 (placed 0 0 65536)).wf = false ∧
    (Instr.eventRequestTake 4).wf = false ∧ (Instr.evrClaimRead 4).wf = false ∧ (Instr.evrDoneWrite 4 0).wf = false := by decide

theorem test_wf_values :
    (Instr.identify ⟨127, 65535, 65535⟩).wf = true ∧ (Instr.identify ⟨128, 0, 0⟩).wf = false ∧ (Instr.identify ⟨0, 65536, 0⟩).wf = false ∧ (Instr.identify ⟨0, 0, 65536⟩).wf = false ∧
    (Instr.endOfReset 0 4 false).wf = false ∧ (Instr.gpioEdge 8 0 false false false).wf = false ∧ (Instr.vfEnable 128).wf = false ∧ (Instr.sqFetch [0] []).wf = false ∧
    (Instr.resultRingPostDoorbell 0 0 0 0 [[0]]).wf = false ∧ (Instr.rationExhausted 0 0 6).wf = false ∧ (Instr.avsComplete 2).wf = false ∧ (Instr.avsTimeout 0 2).wf = false ∧
    (Instr.heapCompare 0 0 0 4096).wf = false ∧ (Instr.stringCast 0 0 0 4096).wf = false ∧ (Instr.exchangeFlushTimeout 0 0 0 128 0).wf = false ∧
    (Instr.cacheFlush 0 0 (2 ^ 15) false).wf = false ∧ (Instr.cacheAccess 0 0 0 0 4 none .ok).wf = false ∧ (Instr.dmaRingEnable 0 0 32 0).wf = false ∧
    (Instr.dmaBusError 0 3).wf = false ∧ (Instr.dmaBusError 0 4).wf = true ∧ (Instr.dgeFinish 0 16).wf = false ∧ (Instr.dgeFeed 0 0 0 (2 ^ 18)).wf = false ∧
    (Instr.provisionOwner [] (2 ^ 32) (List.replicate 48 0)).wf = false ∧ (Instr.provisionOwner [] 0 [0]).wf = false ∧ (Instr.pldmSetPowerCap (2 ^ 32)).wf = false ∧
    (Instr.spillPass 0 0 [0, 2 ^ 46]).wf = false := by decide

/-! ### Values that the manual gives -/

/-- The next state, where there is one. -/
def nextOf (r : Res) : Option State :=
  match r with
  | .next s => some s
  | .fault _ | .refused _ => none

/-- R33: CRC-32C over the ASCII bytes "123456789". -/
theorem test_crc32c : crc32c [0x31, 0x32, 0x33, 0x34, 0x35, 0x36, 0x37, 0x38, 0x39] = 0xE3069283 := by decide +kernel
/-- The worked encodings of chapter 02: INT32 −42 and +42, a date, and −1234.56, −1234.57 and +1234.56 as DECIMAL(9,2). -/
theorem test_stored_forms :
    digsNat (intStored ⟨0x04, 0, 0⟩ (-42)) = 0x7FFFFFD6 ∧ digsNat (intStored ⟨0x04, 0, 0⟩ 42) = 0x8000002A ∧ digsNat (intStored ⟨0x0B, 0, 0⟩ 19797) = 0x80004D55 ∧
    decStored 9 (-123456) = [0, 9, 9, 9, 8, 7, 6, 5, 4, 3] ∧ decStored 9 (-123457) = [0, 9, 9, 9, 8, 7, 6, 5, 4, 2] ∧ decStored 9 123456 = [1, 0, 0, 0, 1, 2, 3, 4, 5, 6] ∧
    cmpDigs (decStored 9 (-123457)) (decStored 9 (-123456)) = .lt := by decide
/-- Chapter 02: the heap record of "NORTH ATLANTIC REINSURANCE LTD" (30 bytes) is 32 bytes and begins with 14. -/
theorem test_heap_record : heapBytes 30 = 32 ∧ (heapRecord (lz 14)).length = 32 ∧ leNat ((heapRecord (lz 14)).take 4) = 14 := by decide +kernel
/-- Table 04-7: the four rounding modes at digit boundaries, and a rounding that overflows. -/
theorem test_rounding :
    ([0, 1, 2, 3].map (scaleTo 2345 3 2)) = [234, 235, 234, 234] ∧ ([0, 1, 2, 3].map (scaleTo (-2345) 3 2)) = [-234, -235, -234, -235] ∧
    ([0, 1, 2, 3].map (scaleTo (-23451) 4 2)) = [-235, -235, -234, -235] ∧ ([0, 1, 2, 3].map (scaleTo 999995 3 2)) = [100000, 100000, 99999, 99999] ∧
    ([0, 1, 2, 3].map (scaleTo (-3037725) 4 2)) = [-30377, -30377, -30377, -30378] ∧ (ColType.mk tDecimal 5 2).fits 100000 = false ∧
    decStored 18 (-30377) = 0 :: decDigs 18 999999999999969622 := by decide +kernel
/-- Chapter 05: the key digits of (17, "EUR"), and tag, bucket and partition digits of a hash. -/
theorem test_key_digits :
    keyDigs (.dig (intStored ⟨0x04, 0, 0⟩ 17)) [] ++ keyDigs (.str 3 [] 0) [0x45, 0x55, 0x52] = [1, 8, 0, 0, 0, 0, 0, 1, 1, 1, 0, 0, 0, 0, 3, 4, 5, 5, 5, 5, 2] ∧
    hashTag 0x9C410B7E25D3A6F8 = 0x9C41 ∧ bucketOf 20 0x9C410B7E25D3A6F8 = 0xE25D3 ∧ spillDigit 0x9C410B7E25D3A6F8 0 = 8 ∧ spillDigit 0x9C410B7E25D3A6F8 1 = 0xF ∧
    partPath 1 8 0xF = 0xF8 := by decide
/-- Chapter 06: sort key forms of "EUR" and of the amounts 12.34, −5.00, null and 7.00, descending with nulls first, and of a null currency, nulls last. -/
theorem test_sort_forms :
    let amount (v : ColVal) : Digits := sortForm ⟨tDecimal, 5, 2⟩ true false v
    amount (.dig (decStored 5 1234)) = [1, 0xE, 0xF, 0xE, 0xD, 0xC, 0xB] ∧ amount (.dig (decStored 5 (-500))) = [1, 0xF, 6, 6, 0xB, 6, 6] ∧ amount .null = [0, 0, 0, 0, 0, 0, 0] ∧
    amount (.dig (decStored 5 700)) = [1, 0xE, 0xF, 0xF, 8, 0xF, 0xF] ∧ sortForm ⟨tUtf8, 0, 0⟩ false true .null = 1 :: List.replicate 32 0 ∧
    sortForm ⟨tUtf8, 0, 0⟩ false true (.str 3 ([0x45, 0x55, 0x52] ++ lz 13) 0) = 0 :: ([4, 5, 5, 5, 5, 2] ++ List.replicate 26 0) := by decide
/-- Chapter 07: the segment of three entries that classifies INT32 quantities: SEARCH and the STEPs of 100, and SEARCH of 5,000. -/
theorem test_ternary_example :
    let e (v c : Nat) : TernEntry := ⟨v * 16 ^ 32, c * 16 ^ 32, true, false, 0⟩
    let s0 := (svc.rs .MAT_SEG_valid 3 1).rs .MAT_SEG_size 3 3
    let s : State := { s0 with run := { s0.run with tern := [(0, e 0x80000000 0xFFFFF000), (1, e 0x80000064 0xFFFFFFFF), (2, e 0x80000000 0x80000000)] } }
    let k := natDigs 8 0x80000064
    ([0, 1, 2, 3].map (fun i => ternWord (s.ternMatches 3 k i))) = [0x0003C000, 0x0002C001, 0x00014002, 0] ∧ ternWord (s.ternMatches 3 (natDigs 8 0x80001388) 0) = 0x00014002 := by decide +kernel
/-- Chapter 07: two inserts at the same place move 11 and then 28 slots, and one after the last entry none. -/
theorem test_span_insert :
    let y : DictSlot := ⟨[], 0, 0, 0⟩
    let m : Map DictSlot := (List.range 16 ++ (List.range 16).map (· + 17) ++ (List.range 8).map (· + 34)).map (fun i => (i, y))
    (spanInsert m 5 y).map (·.2) = some 11 ∧ ((spanInsert m 5 y).bind (fun r => spanInsert r.1 5 y)).map (·.2) = some 28 ∧ (spanInsert m 42 y).map (·.2) = some 0 := by decide +kernel
/-- R127: bucket bits of row estimates at the bounds of 16 and of 2^30 buckets. -/
theorem test_bucket_bits : ([0, 96, 97, 192, 193, 6 * 2 ^ 30, 2 ^ 40].map bucketBits) = [4, 4, 5, 5, 6, 30, 30] := by decide +kernel
/-- Table 14-4: ADD G3, G1, G2 and NOP in one word; LIL G5; an opcode of 0; a reserved one; a long form at half 1. -/
theorem test_uliar_words :
    uDecode 0 0 0 [] 0x08C481000 false = .uAdd 0 0 3 1 2 ∧ uDecode 0 0 0 [] 0x08C481000 true = .uNop 0 0 ∧ uDecode 0 0 0 [] 0xE14000007 false = .uLil 0 0 5 7 ∧
    uDecode 0 0 0 [] 0 false = .uIllegal 0 0 ∧ uDecode 0 0 0 [] 0x16000 true = .uIllegal 0 0 ∧ uDecode 0 0 0 [] 0x38000 true = .uIllegal 0 0 := by decide
/-- ADD wraps at 36 bits, and control goes to half 1 of the word. -/
theorem test_uliar_add : (nextOf (exec (.uAdd 128 0 4 1 2) (uState (wordOf (.uAdd 128 0 4 1 2)) (ctxWith [(1, 2 ^ 36 - 1), (2, 2)])))).map (fun s =>
    ((s.uctx (ctxKey 128 0)).greg 4, (s.uctx (ctxKey 128 0)).pos)) = some (1, ⟨0, true⟩) := by decide +kernel
/-- An empty queue: one tick of the 25 MHz clock passes. -/
theorem test_idle : (nextOf (step svc)).map (fun s => s.ticks) = some (svc.ticks + 1) := by decide +kernel
/-- Binary64: 1 + 2 = 3, 0.5 × 3 = 1.5, and the square root of 4. -/
theorem test_floats : f64Add 0x3FF0000000000000 0x4000000000000000 = 0x4008000000000000 ∧ f64Mul 0x3FE0000000000000 0x4008000000000000 = 0x3FF8000000000000 ∧
    f64Sqrt 0x4010000000000000 = 0x4000000000000000 := by decide +kernel
/-- The SHA-256 of "abc" (FIPS 180-4) begins BA7816BF. -/
theorem test_sha256 : (sha .sha256 [0x61, 0x62, 0x63]).take 4 = [0xBA, 0x78, 0x16, 0xBF] := by decide +kernel
/-- AES-256 (FIPS 197, appendix C.3). -/
theorem test_aes256 : aesBlock (aesKeys (beBytes 32 0x000102030405060708090a0b0c0d0e0f101112131415161718191a1b1c1d1e1f)) (beBytes 16 0x00112233445566778899aabbccddeeff) =
    beBytes 16 0x8ea2b7ca516745bfeafc49904b496089 := by decide +kernel
/-- ECDSA P-384 with SHA-384 over "sample" (RFC 6979, A.2.6). -/
theorem test_ecdsa : ownerPub = beBytes 96 0xEC3A4E415B4E19A4568618029F427FA5DA9A8BC4AE92E02E06AAE5286B300C64DEF8F0EA9055866064A254515480BC138015D9B72D7D57244EA8EF9AC0C621896708A59367F9DFB9F54CA84B3F1C9DB1288B231C3AE0D4FE7344FD2533264720 ∧
    ecdsaVerify ownerPub (sha .sha384 (label "sample")) (beBytes 48 0x94EDBB92A5ECB8AAD4736E56C691916B3F88140666CE9FA73D64C4EA95AD133C81A648152E44ACF96E36DD1E80FABE46)
      (beBytes 48 0x99EF4AEB15F178CEA1FE40DB2603138F130E740A19624526203B6351D0A3A94FA329C145786E679E7B82C71A38628AC8) = true := by decide +kernel

end Sys2Proof.Test
end

section
/-! PROOFS. Register access by code (R8): the fields of a register share no bit, so what an access does to a bit is
what the access code of the bit's one field says. -/

namespace Sys2Proof.Machine

/-- The bits of a register that a field takes. -/
def Fld.allBits (f : Fld) : BitVec 64 := f.mask (BitVec.allOnes 64)

theorem Fld.mask_allOnes (f : Fld) : f.mask (BitVec.allOnes 64) = f.allBits := rfl

/-- Two fields share no bit. -/
abbrev Fld.Apart (f g : Fld) : Prop := f.allBits &&& g.allBits = 0

/-- The fields of every register share no bit. -/
theorem Reg.fields_apart (r : Reg) : r.fields.Pairwise Fld.Apart := by
  cases r <;> decide

/-- A bit of one field is no bit of a field apart from it. -/
theorem Fld.Apart.bit_left {f g : Fld} (h : g.Apart f) {i : Nat} (hi : f.allBits.getLsbD i = true) : g.allBits.getLsbD i = false := by
  simpa [hi] using congrArg (·.getLsbD i) h

theorem Fld.Apart.bit_right {f g : Fld} (h : f.Apart g) {i : Nat} (hi : f.allBits.getLsbD i = true) : g.allBits.getLsbD i = false := by
  simpa [hi] using congrArg (·.getLsbD i) h

/-- Two values agree inside a mask when they agree at each of its bits. -/
theorem and_eq_of_bits {x y b : BitVec 64} (h : ∀ i, b.getLsbD i = true → x.getLsbD i = y.getLsbD i) : x &&& b = y &&& b := by
  refine BitVec.eq_of_getLsbD_eq fun i _ => ?_
  rw [BitVec.getLsbD_and, BitVec.getLsbD_and]
  cases hb : b.getLsbD i with
  | false => simp
  | true => rw [h i hb]

/-- A value is zero inside a mask when no bit of the mask is set in it. -/
theorem and_eq_zero_of_bits {x b : BitVec 64} (h : ∀ i, b.getLsbD i = true → x.getLsbD i = false) : x &&& b = 0 :=
  (and_eq_of_bits fun i hi => (h i hi).trans BitVec.getLsbD_zero.symm).trans BitVec.zero_and

section
variable {step : BitVec 64 → Fld → BitVec 64} {i : Nat} {bit : Access → Bool → Bool}
  (hstep : ∀ a g, (step a g).getLsbD i = if g.allBits.getLsbD i then bit g.acc (a.getLsbD i) else a.getLsbD i)
include hstep

/-- An access leaves a bit that none of the fields takes. -/
theorem foldl_bit_of_no_field : ∀ (fs : List Fld) (a : BitVec 64), (∀ g ∈ fs, g.allBits.getLsbD i = false) →
    (fs.foldl step a).getLsbD i = a.getLsbD i
  | [], _, _ => rfl
  | g :: fs, a, h => by
    rw [List.foldl_cons, foldl_bit_of_no_field fs _ fun k hk => h k (List.mem_cons_of_mem g hk), hstep,
      h g List.mem_cons_self, if_neg Bool.false_ne_true]

/-- An access does to a bit what the access code of its field says. -/
theorem foldl_bit_of_field {fs : List Fld} {f : Fld} (hf : f ∈ fs) (ha : fs.Pairwise Fld.Apart) (hi : f.allBits.getLsbD i = true)
    (a : BitVec 64) : (fs.foldl step a).getLsbD i = bit f.acc (a.getLsbD i) := by
  obtain ⟨pre, post, rfl⟩ := List.append_of_mem hf
  obtain ⟨-, hpost, hpre⟩ := List.pairwise_append.mp ha
  have before := foldl_bit_of_no_field hstep pre a fun g hg => (hpre g hg f List.mem_cons_self).bit_left hi
  have after := foldl_bit_of_no_field hstep post (step (pre.foldl step a) f) fun g hg => ((List.pairwise_cons.mp hpost).1 g hg).bit_right hi
  rw [List.foldl_append, List.foldl_cons, after, hstep, if_pos hi, before]

end

/-- A bit after a write of `v` (R8). -/
def Access.writeBit (locked v : Bool) (c : Access) (old : Bool) : Bool :=
  match c with
  | .rw => v
  | .rwl => if locked then old else v
  | .w1c => old && !v
  | .w1s => old || v
  | .ro | .rc | .wo | .rz => old

/-- A bit that a read answers (R8), beside what other fields have put there. -/
def Access.readBit (old : Bool) (c : Access) (acc : Bool) : Bool :=
  match c with
  | .wo | .rz => acc
  | .ro | .rw | .rwl | .w1c | .w1s | .rc => acc || old

/-- A bit after a clearing read (R8, R531). -/
def Access.clearBit (c : Access) (old : Bool) : Bool :=
  match c with
  | .rc => false
  | .ro | .rw | .rwl | .w1c | .w1s | .wo | .rz => old

section
variable {fs : List Fld} {f : Fld} (hf : f ∈ fs) (ha : fs.Pairwise Fld.Apart) {i : Nat} (hi : f.allBits.getLsbD i = true)
include hf ha hi

theorem swWriteVal_bit (locked : Bool) (v old : BitVec 64) :
    (swWriteVal locked fs (BitVec.allOnes 64) v old).getLsbD i = f.acc.writeBit locked (v.getLsbD i) (old.getLsbD i) := by
  refine foldl_bit_of_field (bit := Access.writeBit locked (v.getLsbD i)) (fun a g => ?_) hf ha hi old
  have hlt := BitVec.lt_of_getLsbD hi
  simp only [Fld.mask_allOnes]
  cases g.acc <;> cases hb : g.allBits.getLsbD i <;> cases locked <;> simp [Access.writeBit, hb, hlt, -BitVec.getLsbD_eq_getElem]

theorem swReadVal_bit (old : BitVec 64) :
    (swReadVal fs (BitVec.allOnes 64) old).getLsbD i = f.acc.readBit (old.getLsbD i) false := by
  refine (foldl_bit_of_field (bit := Access.readBit (old.getLsbD i)) (fun a g => ?_) hf ha hi 0).trans (by simp)
  simp only [Fld.mask_allOnes]
  cases g.acc <;> cases hb : g.allBits.getLsbD i <;> simp [Access.readBit, hb]

theorem rcClearVal_bit (old : BitVec 64) :
    (rcClearVal fs (BitVec.allOnes 64) old).getLsbD i = f.acc.clearBit (old.getLsbD i) := by
  refine foldl_bit_of_field (bit := Access.clearBit) (fun a g => ?_) hf ha hi old
  have hlt := BitVec.lt_of_getLsbD hi
  simp only [Fld.mask_allOnes]
  cases g.acc <;> cases hb : g.allBits.getLsbD i <;> simp [Access.clearBit, hb, hlt, -BitVec.getLsbD_eq_getElem]

end

/-- Settles O44: the fields of a register share no bit, so each bit of a field goes by the field's own access code. -/
theorem registerAccessCodes : Obligations.RegisterAccessCodes := by
  intro r _ f hf locked v old
  refine ⟨and_eq_of_bits fun i hi => ?_, ?_, ?_⟩
  · have hlt := BitVec.lt_of_getLsbD hi
    rw [swWriteVal_bit hf r.fields_apart hi]
    cases f.acc <;> cases locked <;> simp [Access.writeBit, hlt, -BitVec.getLsbD_eq_getElem]
  · have hb := fun i hi => swReadVal_bit hf r.fields_apart (i := i) hi old
    cases h : f.acc with
    | wo | rz =>
      rw [h] at hb
      exact and_eq_zero_of_bits hb
    | ro | rw | rwl | w1c | w1s | rc =>
      rw [h] at hb
      exact and_eq_of_bits fun i hi => (hb i hi).trans (Bool.false_or _)
  · have hb := fun i hi => rcClearVal_bit hf r.fields_apart (i := i) hi old
    cases h : f.acc with
    | rc =>
      rw [h] at hb
      exact and_eq_zero_of_bits hb
    | ro | rw | rwl | w1c | w1s | wo | rz =>
      rw [h] at hb
      exact and_eq_of_bits hb

end Sys2Proof.Machine
end

section
/-! PROOFS. Device memory by bytes and by digits (R5): a read is the list of the bytes at its addresses, and a management
core, which has no cluster cache, reads and writes halves of the bytes of memory itself. -/

namespace Sys2Proof.Machine

theorem memRead_eq_map (m : List Host.Cell) : ∀ (n a : Nat), memRead m a n = (List.range n).map (fun i => memByte m (a + i))
  | 0, _ => rfl
  | n + 1, a => by
    rw [memRead, memRead_eq_map m n (a + 1), List.range_succ_eq_map, List.map_cons, List.map_map]
    simp [Function.comp_def, Nat.add_comm, Nat.add_left_comm]

/-- What is written reads back. -/
theorem memRead_memWrite_self (m : List Host.Cell) (a : Nat) (b : Bytes) : memRead (memWrite m a b) a b.length = b := by
  rw [memRead_eq_map]
  refine List.ext_getElem (by simp) fun i _ hi => ?_
  simpa using memByte_memWrite_inside b m a i hi

/-- A read beside what is written answers as before. -/
theorem memRead_memWrite_outside (m : List Host.Cell) (b : Bytes) {a c n : Nat} (h : c + n ≤ a ∨ a + b.length ≤ c) :
    memRead (memWrite m a b) c n = memRead m c n := by
  rw [memRead_eq_map, memRead_eq_map]
  refine List.map_congr_left fun i hi => memByte_memWrite_outside b m a ?_
  have := List.mem_range.mp hi
  omega

/-- A byte of memory as it is seen without a cluster cache. -/
theorem viewGet_none_byte (s : State) (da : Nat) : s.viewGet none da 1 1 = [memByte s.m.mem (da / 2)] := by
  have inLine : da % 256 / 2 < 128 := by omega
  have place : 256 * (da / 256) / 2 + da % 256 / 2 = da / 2 := by omega
  have byte : (memRead s.m.mem (256 * (da / 256) / 2) 128)[da % 256 / 2]? = some (memByte s.m.mem (da / 2)) := by
    rw [memRead_eq_map, List.getElem?_map, List.getElem?_range inLine, Option.map_some, place]
  have one : min 1 (128 - da % 256 / 2) = 1 := by omega
  simp only [State.viewGet, State.lineView, State.memGet, lineOf, one, Nat.one_ne_zero, if_false]
  rw [List.take_one, List.head?_drop, byte]
  rfl

/-- The digit that a byte holds for an address: its low half at an even one, its high half at an odd one. -/
def digitOf (b : Byte) (pa : Nat) : Digit := BitVec.ofNat 4 (if pa % 2 = 0 then b.toNat else b.toNat / 16)

/-- The byte of a low and a high digit. -/
def byteOf (lo hi : Digit) : Byte := BitVec.ofNat 8 (lo.toNat + 16 * hi.toNat)

theorem digitOf_byteOf (lo hi : Digit) (pa : Nat) : digitOf (byteOf lo hi) pa = if pa % 2 = 0 then lo else hi := by
  have := lo.isLt
  have := hi.isLt
  unfold digitOf byteOf
  split <;> apply BitVec.eq_of_toNat_eq <;> simp only [BitVec.toNat_ofNat] <;> omega

section
variable {core : Nat} (hc : 128 ≤ core) (s : State) (pa : Nat)
include hc

theorem coreCluster_management : coreCluster core = none := if_neg (by omega)

/-- A management core reads digits of memory. -/
theorem digitAt_management : s.digitAt core pa = digitOf (memByte s.m.mem (pa / 2)) pa := by
  have half : (pa - pa % 2) / 2 = pa / 2 := by omega
  rw [State.digitAt, coreCluster_management hc, viewGet_none_byte, half]
  rfl

/-- A management core's write of a digit changes its half of the byte and keeps the other. -/
theorem digitPut_management (d : Digit) : s.digitPut core pa d = s.memPut (pa - pa % 2)
    [byteOf (if pa % 2 = 0 then d else s.digitAt core (pa - pa % 2)) (if pa % 2 = 1 then d else s.digitAt core (pa - pa % 2 + 1))] := by
  rw [State.digitPut, State.bytePut, coreCluster_management hc]
  rfl

/-- What a management core reads at a digit of memory after it wrote one. -/
theorem digitAt_digitPut (d : Digit) (pb : Nat) : (s.digitPut core pa d).digitAt core pb = if pb = pa then d else s.digitAt core pb := by
  rw [digitAt_management hc, digitPut_management hc, State.memPut_mem, show (pa - pa % 2) / 2 = pa / 2 by omega]
  by_cases byte : pb / 2 = pa / 2
  · rw [byte, memWrite, memWrite, memByte_memSet, digitOf_byteOf]
    by_cases same : pb = pa
    · rcases Nat.mod_two_eq_zero_or_one pa with ha | ha <;> simp [same, ha]
    · rcases Nat.mod_two_eq_zero_or_one pa with ha | ha
      · obtain rfl : pb = pa + 1 := by omega
        simp [ha, show (pa + 1) % 2 = 1 by omega]
      · obtain rfl : pa = pb + 1 := by omega
        simp [ha, show pb % 2 = 0 by omega]
  · rw [memWrite, memWrite, memByte_memSet_ne _ _ byte, if_neg (by rintro rfl; exact byte rfl), digitAt_management hc]

end

/-- Changing one byte as a core does keeps the canonical form, whether a line of its cluster, memory or both take it. -/
theorem bytePut_wf {s : State} (h : Memory.wf s.m.mem = true) (core pa : Nat) (b : Byte) : Memory.wf (s.bytePut core pa b).m.mem = true := by
  unfold State.bytePut
  split
  · exact memPut_wf s pa [b] h
  · dsimp only
    split
    · split
      · exact memPut_wf _ pa [b] h
      · exact h
    · exact memPut_wf _ pa [b] h

/-- Settles O60: reads and writes of bytes by the bytes of memory, and of digits by the halves of those bytes. -/
theorem deviceMemory : Obligations.DeviceMemory := by
  refine ⟨fun s da b => ⟨memRead_memWrite_self .., fun da' n h => memRead_memWrite_outside _ b (by omega)⟩,
    fun s core pa d hc => ⟨?_, fun pb hb => ?_⟩,
    fun s da b core d h => ⟨memPut_wf s da b h, bytePut_wf h .., wipe_wf s da b.length h⟩, rfl⟩
  · rw [digitAt_digitPut hc, if_pos rfl]
  · rw [digitAt_digitPut hc, if_neg hb]

end Sys2Proof.Machine
end

section
/-! PROOFS. The state after reset (R8, R516). -/

namespace Sys2Proof.Machine

/-- A field of the state after reset: no register is listed, so it reads its Reset value. -/
theorem State.reset_rg (f : Fld) (i : Nat) : State.reset.rg f i = f.reg.resetVal.toNat / 2 ^ f.lo % 2 ^ f.w := rfl

/-- Settles O1: the state after reset is empty and lists no register. -/
theorem resetState : Obligations.ResetState := by
  have source : Reg.EVR_SRC.resetVal.toNat / 2 ^ Fld.EVR_SRC_pending.lo % 2 ^ Fld.EVR_SRC_pending.w = 0 := by decide
  exact ⟨rfl, rfl, rfl, rfl, rfl, rfl, rfl, rfl, rfl, rfl, rfl, rfl, fun _ _ => rfl, fun n => (State.reset_rg _ n).trans source⟩

end Sys2Proof.Machine
end

section
/-! PROOFS. Scan reads (R35, R56, R58, R61, R63) and the tile core's part of FILTER (R73, R76, R86, R534): one lemma for each outcome of a command. -/

namespace Sys2Proof.Machine

section Scan

variable {s : State} {die tag c : Nat} {t : Task} (ht : s.task die tag = some t)
include ht

/-- R58: a block's DA that is not aligned is condition 1, and nothing is read. -/
theorem scanHeaderRead_misaligned {k : ColScan} (hk : t.scanCol c true = some k) (hda : k.da % 256 ≠ 0) :
    exec (.scanHeaderRead die tag c) s = .next (s.dropBatch t t.w .malformed 1 k.da) := by
  have guard : (k.da % 256 != 0) = true := bne_iff_ne.mpr hda
  simp only [exec, execScanHeaderRead, ht, hk, guard, if_true]

/-- R58, R63: what a read of an aligned header comes to, by its poison, its own checks and its agreement with the schema. -/
theorem scanHeaderRead_aligned {k : ColScan} (hk : t.scanCol c true = some k) (hda : k.da % 256 = 0) :
    let u := s.chargeTask t.w k.da 128
    let b := u.viewGet (some t.w.cluster) k.da 2 128
    (u.memPoisoned k.da 128 = true → exec (.scanHeaderRead die tag c) s = .next (u.dropBatch t t.w .poisoned 0xF k.da)) ∧
    (u.memPoisoned k.da 128 = false → hdrFault b = some 2 → exec (.scanHeaderRead die tag c) s = .next (u.dropBatch t t.w .crc 2 k.da)) ∧
    (u.memPoisoned k.da 128 = false → hdrFault b = none → t.agrees c (hdrRead b) = true →
      exec (.scanHeaderRead die tag c) s =
        .next ((u.ra .SCN_BLOCKS_scanned t.w.tile 1).goOn t.key { t.w with cols := lset t.w.cols c { k with hdr := some (hdrRead b) } })) := by
  have guard : (k.da % 256 != 0) = false := bne_eq_false_iff_eq.mpr hda
  simp only [exec, execScanHeaderRead, ht, hk, guard, Bool.false_eq_true, if_false]
  refine ⟨fun poisoned => ?_, fun clean crc => ?_, fun clean sound agree => ?_⟩
  · simp only [poisoned, if_true]
  · simp only [clean, crc, Bool.false_eq_true, if_false]
  · simp only [clean, sound, agree, Bool.not_true, Bool.false_eq_true, if_false]

/-- R58, R35: a check table that is not poisoned is kept when it meets its check, and otherwise drops the batch by condition 7. -/
theorem checkTableRead_clean {k : ColScan} {h : Hdr} (hk : t.scanCol c false = some k) (hh : k.hdr = some h) :
    let u := s.chargeTask t.w (k.da + h.tableOff) (h.tableDigits / 2)
    let b := u.viewGet (some t.w.cluster) (k.da + h.tableOff) 5 (h.tableDigits / 2)
    u.memPoisoned (k.da + h.tableOff) (h.tableDigits / 2) = false →
    exec (.checkTableRead die tag c) s = .next (if crc32c b = h.tableCrc then u.goOn t.key { t.w with cols := lset t.w.cols c { k with table := some b } }
      else u.dropBatch t t.w .crc 7 k.da) := by
  intro u b clean
  simp only [exec, execCheckTableRead, ht, hk, hh, clean, u, b, Bool.false_eq_true, if_false, bne_iff_ne, ne_eq, ite_not]
  exact (apply_ite Host.Outcome.next _ _ _).symm

/-- R58, R61: a needed plane that meets its check is kept, and the block's digits are tested with it. -/
theorem planeFetch_sound {i : Nat} {k : ColScan} {h : Hdr} {tb b : Bytes} (hk : t.w.cols[c]? = some k) (hh : k.hdr = some h) (htb : k.table = some tb)
    (hneed : (s.needs t).contains (.plane c i) = true) :
    let u := s.chargeTask t.w (k.da + h.planeOff i) (h.planeLen i / 2)
    let k' := { k with planes := mput i (bytesDigits b) k.planes }
    u.memPoisoned (k.da + h.planeOff i) (h.planeLen i / 2) = false → u.planeRead (some t.w.cluster) k.da h tb i = some b →
    exec (.planeFetch die tag c i) s = .next (match k'.fault h with
      | some n => (u.ra .SCN_PLANES_fetched t.w.tile 1).dropBatch t { t.w with cols := lset t.w.cols c k' } .malformed n k.da
      | none => (u.ra .SCN_PLANES_fetched t.w.tile 1).goOn t.key { t.w with cols := lset t.w.cols c k' }) := by
  intro u k' clean sound
  simp only [exec, execPlaneFetch, ht, hk, hh, htb, hneed, clean, sound, u, Bool.not_true, Bool.false_eq_true, if_false]
  cases hf : k'.fault h <;> simp only [k', hh, htb] at hf ⊢ <;> simp only [hf]

end Scan

section Filter

/-- The string that a heap compare reads on a term's own side (R73). -/
def Side.strAt (sd : Side) (row : Nat) : Option (Nat × Bytes × Nat) :=
  match sd with
  | .vals _ vs => (Planes.ofVals vs).strAt row
  | .blk c k h => (Planes.ofBlock c k h).strAt row

/-- How the bytes of a row's record stand to each constant of a term (R73). -/
def FilterCtx.orders (x : FilterCtx) (ft : FTerm) (a : Bytes) : List Ordering := (x.lanesOf ft).2.map (fun c => cmpBytes a (match c with | .str y => y | .dig _ | .null => []))

/-- The tile core reads the string of a row and settles the states that it has with the constants of a term (R73); a record that fails drops the row (R50). -/
def State.compareOwn (s : State) (t : Task) (x : FilterCtx) (ft : FTerm) (term row : Nat) (v : Nat × Bytes × Nat) : Res :=
  let u := (s.ra .FLT_HEAP_compares t.w.tile 1).chargeTask t.w v.2.2 (heapBytes v.1)
  match u.strFor t.w.cluster v with
  | .error (e, da) => .next ((u.dropRow t t.w row e da).settleWork t.key)
  | .ok a => .next (u.goOn t.key
      { t.w with heap := (x.orders ft a).zipIdx.foldl (fun (m : Map Ordering) q => mput (heapKey term row q.2) q.1 m) t.w.heap })

variable {s : State} {die tag term i : Nat} {t : Task} {o : PlanOp} {b : Batch} {ts : List FTerm} {steps : List Nat} {ft : FTerm}
  (hw : s.working die tag t i o b) (hbody : o.body = .filter ts steps) (hft : ts[term]? = some ft) (hcol : ft.colcol = false)
include hw hbody hft hcol

/-- R76, R534: a term on a DICT column is reduced on its dictionary's entries, the records it reads charged. -/
theorem dictTermReduction_reduced {c : Nat} {k : ColScan} {h : Hdr} {u : State} {w : Work} {d : DictDesc} {bs : List Bytes}
    (hneed : (s.needs t).contains (.reduce term 0) = true) (hside : ((s.filterCtx t o ts steps).sides t.w b ft).1 = .blk c k h)
    (hload : s.loadDict t.w c k h = (u, some (w, d))) (hfault : (w.cols.getD c k).fault h = none) :
    let x := s.filterCtx t o ts steps
    let es := ((w.cols.getD c k).dict).getD []
    let like := ft.op == 10 || ft.op == 11
    let v := (reductionReads like (x.lanesOf ft).2 es).foldl (fun (s : State) r => s.chargeTask w r.1 r.2) u
    es.mapM (v.entryBytes w.cluster like (x.lanesOf ft).2) = .ok bs →
    exec (.dictTermReduction die tag term 0) s = .next (v.goOn t.key
      { w with codes := mput (2 * term) (codeSet d.sorted ft x.lanes h.stored (bs.map (entryTruth t.p ft (x.lanesOf ft).1 (x.lanesOf ft).2))) w.codes }) := by
  obtain ⟨ht, hhead⟩ := hw
  intro x es like v hbytes
  simp only [exec, execDictTermReduction, ht, hhead, hbody, hft, hneed, hside, hload, hfault, hcol, Bool.not_true, Bool.false_eq_true, if_false, if_true]
  simp only [x, es, like, v] at hbytes
  simp only [hbytes, x, es, like, v]

section HeapCompare

variable {row : Nat} {v : Nat × Bytes × Nat} (hneed : (s.needs t).contains (.heap term row) = true)
  (hsearch : mget (term * 4096 + row) t.w.search = none) (hstr : ((s.filterCtx t o ts steps).sides t.w b ft).1.strAt row = some v)
include hneed hsearch hstr

/-- R73: a heap compare that no search has asked for compares the row's own string with the term's constants. -/
theorem heapCompare_eq_compareOwn : exec (.heapCompare die tag term row) s = s.compareOwn t (s.filterCtx t o ts steps) ft term row v := by
  obtain ⟨ht, hhead⟩ := hw
  simp only [exec, execHeapCompare, ht, hhead, hbody, hft, hneed, hsearch, hcol, Bool.not_true, Bool.false_eq_true, if_false]
  cases hside : ((s.filterCtx t o ts steps).sides t.w b ft).1 with
  | vals z vs =>
    rw [hside] at hstr
    simp only [show (Planes.ofVals vs).strAt row = some v from hstr]
    rfl
  | blk c k h =>
    rw [hside] at hstr
    simp only [show (Planes.ofBlock c k h).strAt row = some v from hstr]
    rfl

/-- R73, R50: what a heap compare of a row's own string comes to, by the record's read. -/
theorem heapCompare_own_outcome :
    let u := (s.ra .FLT_HEAP_compares t.w.tile 1).chargeTask t.w v.2.2 (heapBytes v.1)
    match u.strFor t.w.cluster v with
    | .error (e, da) => exec (.heapCompare die tag term row) s = .next ((u.dropRow t t.w row e da).settleWork t.key)
    | .ok a => exec (.heapCompare die tag term row) s = .next (u.goOn t.key
        { t.w with heap := ((s.filterCtx t o ts steps).orders ft a).zipIdx.foldl (fun (m : Map Ordering) q => mput (heapKey term row q.2) q.1 m) t.w.heap }) := by
  intro u
  rw [heapCompare_eq_compareOwn hw hbody hft hcol hneed hsearch hstr]
  cases hread : u.strFor t.w.cluster v <;> simp only [State.compareOwn, hread, u]

end HeapCompare

end Filter

/-- Settles O30: each clause is one command's outcome under the checks that its premises name. -/
theorem scansAndFilters : Obligations.ScansAndFilters := by
  refine ⟨fun s die tag c t ht => ⟨?header, ?misaligned, ?table, ?plane⟩, fun s die tag term t i o b ts steps ft hw hbody hft => ⟨?reduction, ?values, ?block⟩⟩
  case header => exact fun k => scanHeaderRead_aligned ht
  case misaligned => exact fun k => scanHeaderRead_misaligned ht
  case table => exact fun k h => checkTableRead_clean ht
  case plane => exact fun i k h tb b => planeFetch_sound ht
  case reduction => exact fun c k h u w d bs hneed hside hload hfault hcol => dictTermReduction_reduced hw hbody hft hcol hneed hside hload hfault
  case values =>
    exact fun row z vs v hneed hsearch hcol hside hstr => heapCompare_own_outcome hw hbody hft hcol hneed hsearch (by rw [hside]; exact hstr)
  case block =>
    exact fun row c k h v hneed hsearch hcol hside hstr => heapCompare_own_outcome hw hbody hft hcol hneed hsearch (by rw [hside]; exact hstr)

end Sys2Proof.Machine
end

section
/-! PROOFS. COMPUTE strips (R90, R91, R95, R100, R103, R107, R108) and HASH groups (R116, R119, R121): one lemma for each outcome of a command. -/

namespace Sys2Proof.Machine

/-! ### Row groups and string casts -/

/-- The row group in hand through its strip (R90, R95): its lanes with the number of rows nulled, or the first exception. -/
def Task.runRows (t : Task) (x : StripRun) (o : PlanOp) (b : Batch) : Except (Nat × Nat × ArithExc) (Lanes × Nat) :=
  let rows := groupRows b t.w.pos
  let sel := rows.map b.live
  runGroup x.strip x.types rows.length sel (fun i r => mgetD none (castKey i (256 * t.w.pos + r)) t.w.casts) x.strip.ops.zipIdx ⟨t.sourceLanes x o b rows, [], sel⟩ 0

/-- The columns made so far, with the results of the row group in hand behind them (R95, R100); a row that is not selected is null. -/
def Task.joinGroup (t : Task) (x : StripRun) (b : Batch) (l : Lanes) : List Column :=
  let rows := groupRows b t.w.pos
  x.strip.outs.zipIdx.map (fun q =>
    let y := mgetD [] (0xD0 + q.2) l.vals
    ⟨q.1, none, ((t.w.made[q.2]?).map (·.vals)).getD [] ++
      (List.range rows.length).map (fun r => if (rows.map b.live).getD r false then laneStored q.1 (y.getD r none) else ColVal.null)⟩)

section Compute

variable {s u : State} {die tag i off len : Nat} {t : Task} {o : PlanOp} {b b' : Batch} {w : Work}
  (hw : s.working die tag t i o b) (hbody : o.body = .compute off len)
include hw hbody

section RowGroup

variable {ecc : Ecc} (hecc : ecc ≠ .uncorrectable) (hready : (s.scratchEcc t ecc).colsReady t o.ins b u w b')
  (hcasts : (({ t with w := w } : Task).castsMissing (({ t with w := w } : Task).stripRun o b' off len).strip o b' (groupRows b' w.pos)).isEmpty = true)
include hecc hready hcasts

/-- R107, R108, R110: the first exception of a row group is counted and latched, and fails the task. -/
theorem stripRowGroup_raises {op r : Nat} {e : ArithExc} :
    let t' := { t with w := w }
    t'.runRows (t'.stripRun o b' off len) o b' = .error (op, r, e) →
    exec (.stripRowGroup die tag ecc) s = .next (((((u.ra .ARU_STRIPS_row_groups w.tile 1).ra .ARU_STRIPS_tasks w.tile 1).countExc w.camp e).latchExc t'
      op (256 * w.pos + r) e).failTask t' w e.status) := by
  obtain ⟨ht, hhead⟩ := hw
  intro t' hrun
  simp only [Task.runRows, t'] at hrun
  simp only [exec, execStripRowGroup, ht, hhead, hbody, beq_eq_false_iff_ne.mpr hecc, hready _, hcasts, hrun, t', Bool.not_true, Bool.false_eq_true, if_false]

/-- R90, R95, R100: the results of a row group join the columns made; after the last group the batch passes on with them. -/
theorem stripRowGroup_runs {l : Lanes} {nulled : Nat} :
    let t' := { t with w := w }
    let x := t'.stripRun o b' off len
    let v := (u.ra .ARU_STRIPS_row_groups w.tile 1).ra .ARU_NULLED_rows w.camp nulled
    let w' := { w with made := t'.joinGroup x b' l, pos := w.pos + 1 }
    t'.runRows x o b' = .ok (l, nulled) →
    exec (.stripRowGroup die tag ecc) s = .next (if b'.rows ≤ 256 * (w.pos + 1) then (v.ra .ARU_STRIPS_tasks w.tile 1).passOn t' w' o b' w'.made
      else v.setWork t'.key w') := by
  obtain ⟨ht, hhead⟩ := hw
  intro t' x v w' hrun
  simp only [Task.runRows, t', x] at hrun
  simp only [exec, execStripRowGroup, ht, hhead, hbody, beq_eq_false_iff_ne.mpr hecc, hready _, hcasts, hrun, Bool.not_true, Bool.false_eq_true, if_false]
  exact (apply_ite Host.Outcome.next _ _ _).symm

end RowGroup

section StringCast

variable {op row : Nat} {y : Bytes} {c : StripOp} (hready : s.colsReady t o.ins b u w b')
  (hmissing : (({ t with w := w } : Task).castsMissing (({ t with w := w } : Task).stripRun o b' off len).strip o b' (groupRows b' w.pos)).contains (op, row) = true)
  (hop : (({ t with w := w } : Task).stripRun o b' off len).strip.ops[op]? = some c)
include hready hmissing hop

/-- R91, R103: a missing cast of a column's string reads the string, charged, and keeps its parse. -/
theorem stringCast_column {n da : Nat} {pre : Bytes} (hcol : c.a < 0x80) :
    let t' := { t with w := w }
    let v := u.chargeTask w da (heapBytes n)
    t'.castSource (t'.stripRun o b' off len).strip o b' c.a row = some (.str n pre da) → v.strBytes (some w.cluster) n pre da = .ok y →
    exec (.stringCast die tag op row) s = .next (v.setWork t.key { w with casts := mput (castKey op row) (parseNumber (stripBase c.code == 0x38) y) w.casts }) := by
  obtain ⟨ht, hhead⟩ := hw
  intro t' v hsrc hread
  simp only [t'] at hsrc
  simp only [v] at hread
  simp only [exec, execStringCast, ht, hhead, hbody, hready _, hmissing, hop, hcol, hsrc, hread, v, Bool.not_true, Bool.false_eq_true, if_false, if_true]

/-- R91, R103: a missing cast of a constant or a parameter has its bytes at hand, and keeps their parse. -/
theorem stringCast_literal (hlit : 0x80 ≤ c.a) :
    let t' := { t with w := w }
    t'.stripLit (t'.stripRun o b' off len).strip c.a = .str y →
    exec (.stringCast die tag op row) s = .next (u.setWork t.key { w with casts := mput (castKey op row) (parseNumber (stripBase c.code == 0x38) y) w.casts }) := by
  obtain ⟨ht, hhead⟩ := hw
  intro t' hsrc
  simp only [t'] at hsrc
  simp only [exec, execStringCast, ht, hhead, hbody, hready _, hmissing, hop, Nat.not_lt.mpr hlit, hsrc, Bool.not_true, Bool.false_eq_true, if_false]

end StringCast

end Compute

/-! ### Hash groups -/

/-- The next rows of a batch, up to 128 of them, hashed in row order (R116, R119). -/
def State.hashNext (u : State) (key : Nat) (cols : List Nat) (w : Work) (b : Batch) : State :=
  ((List.range (min 128 (b.rows - w.hashes.length))).map (· + w.hashes.length)).foldl (hashRow key cols) (u.setWork key w)

section HashGroup

variable {s u : State} {die tag i : Nat} {t : Task} {o : PlanOp} {b b' : Batch} {w : Work}
  (hw : s.working die tag t i o b) (hcols : o.hashCols ≠ []) (hleft : t.w.hashed b = false) (hready : s.colsReady t o.hashCols b u w b')
include hw hcols hleft hready

/-- R121: with any operator but HASH the batch stays in hand. -/
theorem hashGroup_other (hbody : o.body ≠ .hash) : exec (.hashGroup die tag) s = .next (u.hashNext t.key o.hashCols w b') := by
  obtain ⟨ht, hhead⟩ := hw
  have guard : o.hashCols.isEmpty = false := List.isEmpty_eq_false_iff.mpr hcols
  simp only [exec, execHashGroup, ht, hhead, guard, hleft, hready _, Bool.or_self, Bool.false_eq_true, if_false, State.hashNext]
  split
  case h_1 => rfl
  case h_2 =>
    split
    case h_1 hhash => exact absurd hhash hbody
    case h_2 => rfl

/-- R116, R119, R121: with HASH the batch passes on exactly when each of its rows has its hash. -/
theorem hashGroup_hash {j : Nat} {t' : Task} {b'' : Batch} {l : List (Nat × Batch)} (hbody : o.body = .hash) :
    let v := u.hashNext t.key o.hashCols w b'
    v.taskAt t.key = some t' → t'.w.failed = none → t'.w.todo = (j, b'') :: l →
    exec (.hashGroup die tag) s = .next (if t'.w.hashed b'' = true then v.passOn t' t'.w o b'' t'.w.made else v) := by
  obtain ⟨ht, hhead⟩ := hw
  have guard : o.hashCols.isEmpty = false := List.isEmpty_eq_false_iff.mpr hcols
  intro v ht' hfailed htodo
  simp only [v, State.hashNext] at ht'
  simp only [exec, execHashGroup, ht, hhead, guard, hleft, hready _, ht', hfailed, htodo, hbody, Option.isSome_none, Bool.or_self, Bool.false_eq_true, if_false]
  exact (apply_ite Host.Outcome.next _ _ _).symm

end HashGroup

/-- Settles O31: each clause is one command's outcome under the checks that its premises name. -/
theorem computeAndHashRows : Obligations.ComputeAndHashRows := by
  refine ⟨fun s die tag t i o b off len hw hbody => ⟨?rowGroup, ?column, ?literal⟩, fun s die tag t i o b u w b' hw hcols hleft hready => ?hash⟩
  case rowGroup =>
    intro ecc u w b' hecc hready t' x rows hcasts v
    split
    next op r e hrun => exact stripRowGroup_raises hw hbody hecc hready hcasts hrun
    next l nulled hrun => exact stripRowGroup_runs hw hbody hecc hready hcasts hrun
  case column =>
    exact fun u w b' op row n da pre y c hready hmissing hop hcol hsrc hread => stringCast_column hw hbody hready hmissing hop hcol hsrc hread
  case literal => exact fun u w b' op row y c hready hmissing hop hlit hsrc => stringCast_literal hw hbody hready hmissing hop hlit hsrc
  case hash =>
    refine ⟨fun t' j b'' l ht' hfailed htodo hbody hdone => ?last, fun t' j b'' l ht' hfailed htodo hbody hmore => ?more, hashGroup_other hw hcols hleft hready⟩
    case last => exact (hashGroup_hash hw hcols hleft hready hbody ht' hfailed htodo).trans (congrArg _ (if_pos hdone))
    case more => exact (hashGroup_hash hw hcols hleft hready hbody ht' hfailed htodo).trans (congrArg _ (if_neg (ne_true_of_eq_false hmore)))

end Sys2Proof.Machine
end

section
/-! PROOFS. Joins (R122 to R133): build rows, probe rows and the scan of unmatched rows, one lemma for each outcome of a command. -/

namespace Sys2Proof.Machine

section Build

/-- The table of a build side as a row finds it: the row is noted, and whether its key holds a null (R128). -/
def Task.notedTab (t : Task) (x : BuildSpec) (null : Bool) : JoinTab :=
  let tab := (mget (buildKey x.id (t.buildCopy x)) t.e.joins).getD (JoinTab.fresh 0 0 (bucketBits x.estimate))
  { tab with anyRow := true, nullKey := tab.nullKey || null }

/-- The build record of a row (Table 05-3): its hash, and the stored forms of its key and of its payload (R125). -/
def Work.buildRec (w : Work) (x : BuildSpec) (cols : List Column) (r : Nat) : Rec :=
  ⟨w.hashOf r, rowKeyForm (cols.take x.keys) r, rowKeyForm (cols.drop x.keys) r, false⟩

variable {s u : State} {die tag da i id kind k est bud r : Nat} {bc : Bool} {t : Task} {o : PlanOp} {b b' : Batch} {w : Work} {cols : List Column}
  (hw : s.working die tag t i o b) (hbody : o.body = .joinBuild id kind bc k est bud) (hhash : t.w.hashed b = true)
  (hready : s.colsReady t o.ins b u w b') (hrow : nextLive b' w.pos = some r) (hcols : cols = o.ins.filterMap (fun i => b'.cols[i]?))
include hw hbody hhash hready hrow hcols

/-- R128: a row with a null key is noted and not kept, unless unmatched build rows are wanted. -/
theorem bucketInsert_null (hnull : nullKey (cols.take k) r = true) (hright : kind ≠ 2) (hfull : kind ≠ 3) :
    let x : BuildSpec := ⟨id, kind, bc, k, est, bud⟩
    exec (.bucketInsert die tag da false) s =
      .next ((u.setTab w.exec (buildKey id (t.buildCopy x)) (t.notedTab x (nullKey (cols.take k) r))).goOn t.key (w.after b' r)) := by
  obtain ⟨ht, hhead⟩ := hw
  subst hcols
  simp only [exec, execBucketInsert, ht, hhead, hbody, hhash, hready _, hrow, hnull, bne_iff_ne.mpr hright, bne_iff_ne.mpr hfull, Task.notedTab,
    Bool.and_true, Bool.not_true, Bool.false_eq_true, if_false, if_true]

section Kept

variable (hkept : nullKey (cols.take k) r = false ∨ kind = 2 ∨ kind = 3)
include hkept

omit hw hbody hhash hready hrow hcols in
/-- The test by which a row with a null key is left out fails for a row that is kept. -/
theorem build_keeps : (nullKey (cols.take k) r && kind != 2 && kind != 3) = false := by
  obtain h | rfl | rfl := hkept
  · rw [h]; rfl
  · simp
  · simp

/-- R122 to R127, R132: a row whose partition is resident goes into its bucket within the budget, counted and charged. -/
theorem bucketInsert_fits {v : State} {tab' : JoinTab} :
    let x : BuildSpec := ⟨id, kind, bc, k, est, bud⟩
    let tab := t.notedTab x (nullKey (cols.take k) r)
    partAt tab.parts 0 0 (spillDigit (w.hashOf r) 0) = none → u.fitInsert w.exec bud w.camp tab (w.buildRec x cols r) = some (v, tab') →
    exec (.bucketInsert die tag da false) s = .next ((((v.ra .JNU_STAT_built w.tile 1).charge w.camp 1
      (insertBytes (mgetD [] (bucketOf tab.b (w.hashOf r)) tab.chains).length (w.buildRec x cols r).len)).setTab w.exec (buildKey id (t.buildCopy x)) tab').goOn
        t.key (w.after b' r)) := by
  obtain ⟨ht, hhead⟩ := hw
  have guard := build_keeps hkept
  subst hcols
  intro x tab hpart hfit
  simp only [tab, x, Task.notedTab, Work.buildRec] at hpart hfit ⊢
  simp only [exec, execBucketInsert, ht, hhead, hbody, hhash, hready _, hrow, guard, hpart, hfit, Bool.not_true, Bool.false_eq_true, if_false]

/-- R133: a row of a partition that has spilled goes to the partition's build pages. -/
theorem bucketInsert_spilled {part : Part} {v : State} {q : PageSet} {l : List Nat} :
    let x : BuildSpec := ⟨id, kind, bc, k, est, bud⟩
    let tab := t.notedTab x (nullKey (cols.take k) r)
    partAt tab.parts 0 0 (spillDigit (w.hashOf r) 0) = some part → u.putRec w 0 part.level part.path part.build (w.buildRec x cols r) [da] = .ok v q l →
    exec (.bucketInsert die tag da false) s =
      .next ((v.setTab w.exec (buildKey id (t.buildCopy x)) { tab with parts := partSet tab.parts { part with build := q } }).goOn t.key (w.after b' r)) := by
  obtain ⟨ht, hhead⟩ := hw
  have guard := build_keeps hkept
  subst hcols
  intro x tab hpart hput
  simp only [tab, x, Task.notedTab, Work.buildRec] at hpart hput ⊢
  simp only [exec, execBucketInsert, ht, hhead, hbody, hhash, hready _, hrow, guard, hpart, hput, Bool.not_true, Bool.false_eq_true, if_false]

end Kept

end Build

section Probe

/-- After a probe row: the pairs that it gives join those made so far, full batches go on, and the next row is in hand (R128). -/
def Work.probed (w : Work) (x : ProbeSpec) (o : PlanOp) (i : Nat) (b : Batch) (r : Nat) (out : List (Option Rec)) : Work :=
  (({ w with pairs := w.pairs ++ out.map (fun q => (r, q)) } : Work).flushPairs x o i b (nextLive b (r + 1)).isNone).after b r

variable {s u : State} {die tag da i id kind r : Nat} {t : Task} {o : PlanOp} {b b' : Batch} {w : Work} {x : ProbeSpec} {keys : List Column}
  (hw : s.working die tag t i o b) (hbody : o.body = .joinProbe id kind) (hspec : t.probeSpec (t.opIx i) = some x) (hhash : t.w.hashed b = true)
  (hready : s.colsReady t o.reads b u w b') (hrow : nextLive b' w.pos = some r) (hkeys : keys = o.ins.filterMap (fun i => b'.cols[i]?))
include hw hbody hspec hhash hready hrow hkeys

/-- R128: a probe row with a null key matches nothing. -/
theorem probeLookup_null (hnull : nullKey keys r = true) :
    exec (.probeLookup die tag da false) s = .next (u.goOn t.key (w.probed x o i b' r (emitNull kind (!t.e.anyBuildRow id)))) := by
  obtain ⟨ht, hhead⟩ := hw
  subst hkeys
  simp only [exec, execProbeLookup, ht, hhead, hbody, hspec, hhash, hready _, hrow, hnull, Work.probed, Bool.not_true, Bool.false_eq_true, if_false, if_true]

/-- R128 to R131: a probe row of a resident partition is looked up, charged; its matches are marked where the kind keeps marks, and give its pairs. -/
theorem probeLookup_resident {ms : List Rec} (hnull : nullKey keys r = false) :
    let t' := { t with w := w }
    let tab := (t'.e.tabAt x.op id (t'.probeCopy id)).getD (JoinTab.fresh 0 0 4)
    let cs := candidates x.keys tab (w.hashOf r) (keys.map (fun c => c.at r))
    let v := (u.ra .JNU_STAT_probed w.tile 1).chargeLookup w tab (w.hashOf r) cs
    partAt tab.parts 0 0 (spillDigit (w.hashOf r) 0) = none → v.matchRecs w.cluster kind cs = .ok ms →
    exec (.probeLookup die tag da false) s = .next (State.goOn (if keepsMatched kind && !ms.isEmpty then
        (v.charge w.camp 1 (128 * ms.length)).setTab w.exec (probeKey x.op (t'.probeCopy id)) (tab.mark (w.hashOf r) ms) else v)
      t.key (w.probed x o i b' r (emitFor kind (t.e.anyNullKey id) ms))) := by
  obtain ⟨ht, hhead⟩ := hw
  subst hkeys
  intro t' tab cs v hpart hmatch
  simp only [v, cs, tab, t'] at hpart hmatch ⊢
  simp only [exec, execProbeLookup, ht, hhead, hbody, hspec, hhash, hready _, hrow, hnull, hpart, hmatch, Work.probed, Bool.not_true, Bool.false_eq_true, if_false]

end Probe

/-- R131: a RIGHT or FULL join's final task emits the records of its table that were never matched, the scan charged, and the table is empty. -/
theorem unmatchedScan_scans {s : State} {die tag copy : Nat} {t : Task} {x : ProbeSpec} {o : PlanOp} {bs : BuildSpec} {tab : JoinTab} (ht : s.task die tag = some t)
    (hfinal : t.probeFinal = some (x, o, bs, copy, tab)) (hkind : keepsMatched x.kind = true) (hchains : tab.chains ≠ []) (htodo : t.w.todo = []) :
    exec (.unmatchedScan die tag) s = .next ((s.charge t.w.camp 1 (128 * 2 ^ tab.b + (tab.recs.map Rec.len).sum)).endPass t
      (t.w.emitRows x o t.f.first copy ((tab.recs.filter (fun r => !r.matched)).map (fun r => ⟨none, none, some r⟩))) x copy { tab with chains := [] }) := by
  have filled : tab.chains.isEmpty = false := List.isEmpty_eq_false_iff.mpr hchains
  simp only [exec, execUnmatchedScan, ht, hfinal, hkind, filled, htodo, List.isEmpty_nil, Bool.not_true, Bool.or_self, Bool.false_eq_true, if_false]

/-- Settles O32: each clause is one command's outcome under the checks that its premises name. -/
theorem joinRows : Obligations.JoinRows := by
  refine ⟨fun s die tag da t i o b u w b' id kind bc k est bud r hw hbody hhash hready hrow => ⟨?null, ?fits, ?spilled⟩,
    fun s die tag da t i o b u w b' id kind r x hw hbody hspec hhash hready hrow => ⟨?noKey, ?resident⟩, ?scan⟩
  case null => exact bucketInsert_null hw hbody hhash hready hrow rfl
  case fits => exact fun hkept hpart v tab' hfit => bucketInsert_fits hw hbody hhash hready hrow rfl hkept hpart hfit
  case spilled => exact fun part v q l hkept hpart hput => bucketInsert_spilled hw hbody hhash hready hrow rfl hkept hpart hput
  case noKey => exact probeLookup_null (t := t) hw hbody hspec hhash hready hrow rfl
  case resident => exact fun ms hnull hpart hmatch => probeLookup_resident (t := t) hw hbody hspec hhash hready hrow rfl hnull hpart hmatch
  case scan => exact fun s die tag t x o bs copy tab ht hfinal hkind hchains htodo => unmatchedScan_scans ht hfinal hkind hchains htodo

end Sys2Proof.Machine
end

section
/-! PROOFS. Spilling (R133 to R135, R146, R147) and aggregates (R139 to R144, R146): one lemma for each outcome of a command. -/

namespace Sys2Proof.Machine

/-! ### SPILL_PARTITION -/

section SpillPartition

variable {s u : State} {die tag : Nat} {das l : List Nat} {t : Task} (ht : s.task die tag = some t)
include ht

/-- R133: a build that waits gives its table's largest partition to pages, and the units that the table no longer needs back. -/
theorem spillPartition_build {key : Nat} {tab tab' : JoinTab} {tys : List ColType} (hwaits : s.buildWaits t = some (key, tab, tys))
    (hon : s.rg .JNU_CTL_spill_en t.w.cluster ≠ 0) (hspill : s.spillTab t.w tys tab das = .ok (some (.ok u tab' l))) :
    exec (.spillPartition die tag das) s =
      .next ((u.execGive t.w.exec (tab.units - units64k tab'.bytes)).setTab t.w.exec key { tab' with units := units64k tab'.bytes }) := by
  simp only [exec, execSpillPartition, State.spillBuild, ht, hwaits, hon, hspill, if_false]

/-- R133, R146: a merge that waits gives its group table's largest partition to pages, and the table's units follow its entries. -/
theorem spillPartition_group {x : AggSpec} {tab tab' tab'' : GroupTab} {v : State} (hbuild : s.buildWaits t = none)
    (hwaits : s.groupWaits t = some (x, tab)) (hspill : s.spillGroup t.w x tab das = .ok (some (.ok u tab' l)))
    (hunits : u.groupUnits t.w.exec x tab' = some (v, tab'')) :
    exec (.spillPartition die tag das) s = .next (v.setGroup t.w.exec (groupKey x.op t.w.cluster) tab'') := by
  simp only [exec, execSpillPartition, State.spillBuild, ht, hbuild, hwaits, hspill, hunits]

end SpillPartition

/-! ### Passes over spilled partitions -/

/-- The build rows of a table that a RIGHT or FULL join has not matched, as the rows it emits (R131). -/
def JoinTab.unmatchedRows (tab : JoinTab) (kind : Nat) : List JRow :=
  if keepsMatched kind then (tab.recs.filter (fun r => !r.matched)).map (fun r => ⟨none, none, some r⟩) else []

section JoinPass

variable {s u : State} {die tag copy : Nat} {das : List Nat} {t : Task} {x : ProbeSpec} {o : PlanOp} {b : BuildSpec} {tab : JoinTab} {q q' : Part} {rest : List Part}
  {build probe : List Rec} (ht : s.task die tag = some t) (hfinal : t.probeFinal = some (x, o, b, copy, tab)) (hparts : tab.parts = q :: rest) (htodo : t.w.todo = [])
  (hrecs : s.partRecs t q = (u, some (q', build, probe)))
include ht hfinal hparts htodo hrecs

/-- R134: a join's final task rebuilds its first partition one level down and probes it; what that spilled again stands before the rest. -/
theorem spillPass_join {v v' : State} {a a' : PassAcc} (hpos : t.w.pos = 0) :
    let nest := decide (q.level < s.maxLevel t.w.cluster)
    rebuild t.w b x.keys nest build u ⟨JoinTab.fresh (q.level + 1) q.path (bucketBits b.estimate), [], das⟩ = .ok (some (v, a)) →
    reprobe t.w x (t.e.anyNullKey x.id) nest probe v a = .ok (v', a') →
    exec (.spillPass die tag das) s = .next (v'.endPass t (t.w.emitRows x o t.f.first copy (a'.rows ++ a'.tab.unmatchedRows x.kind)) x copy
      { tab with parts := a'.tab.parts ++ rest }) := by
  intro nest hbuild hprobe
  simp only [nest] at hbuild hprobe
  simp only [exec, execSpillPass, State.joinPass, ht, hfinal, hparts, htodo, hpos, hrecs, hbuild, hprobe, JoinTab.unmatchedRows, List.isEmpty_nil, bne_self_eq_false,
    Bool.not_true, Bool.or_self, Bool.false_eq_true, if_false]

/-- R135: the last chunk of a partition that exceeds its budget at the last level, of an INNER or RIGHT join: the partition is done with. -/
theorem chunkJoin_last {v v' : State} {maps l : List Nat} {chunk : JoinTab} {rows : List JRow} {marks : List Bool} (hlevel : s.maxLevel t.w.cluster ≤ q.level)
    (hbitmap : keepsBitmap x.kind = false) :
    let fresh := JoinTab.fresh (q'.level + 1) q'.path (bucketBits b.estimate)
    (t.w.pos ≠ 0 ∨ s.buildBudget t.w.camp b.budget 0 < (build.foldl JoinTab.insert fresh).bytes) → u.openPages t.w.exec 0 t.w.maps das = .ok v maps l →
    let c := chunkOf v t.w.camp b fresh (build.drop t.w.pos)
    chunkProbe t.w x (List.zip probe (if t.w.marks.isEmpty then List.replicate probe.length false else t.w.marks)) v c.1 [] [] = (v', .ok (chunk, rows, marks)) →
    c.2 = [] →
    exec (.chunkJoin die tag das) s = .next (v'.endPass t
      { t.w.emitRows x o t.f.first copy (rows ++ chunk.unmatchedRows x.kind) with pos := 0, marks := [], maps := [] } x copy { tab with parts := rest }) := by
  intro fresh hover hpages c hchunk hlast
  have guard : (decide (t.w.pos = 0) && decide ((build.foldl JoinTab.insert fresh).bytes ≤ s.buildBudget t.w.camp b.budget 0)) = false := by
    rw [Bool.and_eq_false_iff, decide_eq_false_iff_not, decide_eq_false_iff_not, Nat.not_le]
    exact hover
  have bare : (x.kind == 1 || x.kind == 3 || x.kind == 5 || (x.kind == 6 && !t.e.anyNullKey x.id)) = false := by
    have kind : x.kind = 0 ∨ x.kind = 2 := by simpa only [keepsBitmap, Bool.and_eq_false_iff, bne_eq_false_iff_eq] using hbitmap
    rcases kind with h | h <;> simp [h]
  simp only [fresh] at guard hpages hchunk
  simp only [c, fresh] at hchunk hlast
  simp only [exec, execChunkJoin, ht, hfinal, hparts, htodo, hrecs, guard, hbitmap, hpages, hchunk, hlast, bare, JoinTab.unmatchedRows, decide_eq_false (Nat.not_lt.mpr hlevel),
    List.isEmpty_nil, List.append_nil, Bool.false_and, Bool.and_false, Bool.not_true, Bool.or_self, Bool.false_eq_true, if_false, if_true]

end JoinPass

section GroupPass

variable {s u v v' v'' : State} {k : Nat} {das l : List Nat} {t : Task} {x : AggSpec} {tab g g' : GroupTab} {q left : Part} {rest : List Part} {b : PageSet} {last : Bool}
  (hfinal : t.aggFinal = some (x, k, tab)) (hparts : tab.parts = q :: rest) (hentries : tab.entries = []) (htodo : t.w.todo = [])
  (hlast : last = decide (s.maxLevel t.w.cluster ≤ q.level)) (hclose : s.pageClose t.w 2 q.level q.path q.build (.groups []) = (u, b))
  (hread : readPages t.w b.full u = (v, none))
include hfinal hparts hentries htodo hlast hclose hread

/-- R134, R146, R147: the first partition of a group table is merged again, at the next level or past the last one; what that left for pages stands before the rest. -/
theorem groupPassAt_merges :
    let gs := b.full.flatMap (fun g => g.body.groupList)
    regroup t.w x (!last) gs v ⟨q.level + 1, q.path, [], [], tab.units⟩ (Part.fresh q.level q.path (.groups [])) das (17 * gs.length + 1) = .ok (v', g, left, l) →
    v'.groupUnits t.w.exec x { g with parts := g.parts ++ (if left.build.da.isSome then [left] else []) ++ rest } = some (v'', g') →
    s.groupPassAt t das last = some (.next ((v''.setGroup t.w.exec (groupKey x.op k) g').goOn t.key { t.w with hold := !groupOver x g' t.w.emitted })) := by
  intro gs hgroup hunits
  simp only [gs] at hgroup
  simp only [State.groupPassAt, hfinal, hparts, hentries, htodo, ← hlast, hclose, hread, hgroup, hunits, List.isEmpty_nil, bne_self_eq_false, Bool.not_true, Bool.or_self,
    Bool.false_eq_true, if_false]

end GroupPass

/-- A pass over a group partition is GROUP_PASS_MERGE's at the last level and SPILL_PASS's below it (R146, R147). -/
theorem exec_groupPass {s : State} {die tag : Nat} {das : List Nat} {t : Task} {last : Bool} {r : Res} (ht : s.task die tag = some t) (hjoin : t.probeFinal = none)
    (hpass : s.groupPassAt t das last = some r) : exec (if last then .groupPassMerge die tag das else .spillPass die tag das) s = r := by
  cases last with
  | true => simp only [if_true, exec, execGroupPassMerge, ht, hpass, Option.getD_some]
  | false => simp only [Bool.false_eq_true, if_false, exec, execSpillPass, State.joinPass, ht, hjoin, hpass, Option.getD_some]

/-! ### Folding and merging -/

section BatchFold

variable {s u : State} {die tag i : Nat} {t t' : Task} {o : PlanOp} {b b' : Batch} {x : AggSpec} {w : Work} (hw : s.working die tag t i o b)
  (hspec : t.aggSpec (t.opIx i) = some x) (hhash : x.keys = 0 ∨ t.w.hashed b = true) (hpos : t.w.pos = 0) (hready : s.colsReady t o.ins b u w b')
include hw hspec hhash hpos hready

/-- R142: after the rows of a batch are folded without a failure, an empty batch is done with, a final aggregate's entries wait for their merges, and a keyless partial
aggregate keeps its one entry (R144). -/
theorem batchFold_folds :
    let v := b'.liveRows.foldl (foldRow t.key x o) (u.setWork t.key w)
    v.taskAt t.key = some t' → t'.w.failed = none →
    (t'.w.folded = [] → exec (.batchFold die tag) s = .next (v.goOn t'.key t'.w.pop)) ∧
    (t'.w.folded ≠ [] → x.final = true → exec (.batchFold die tag) s = .next (v.setWork t'.key { t'.w with pos := 1 })) ∧
    (∀ g l, t'.w.folded = g :: l → x.final = false → t'.w.partly = none →
      exec (.batchFold die tag) s = .next (v.goOn t'.key { t'.w.pop with partly := some (b'.seq, g) })) := by
  obtain ⟨ht, hhead⟩ := hw
  intro v ht' hfailed
  have guard : ((x.keys != 0 && !t.w.hashed b) || t.w.pos != 0) = false := by
    rcases hhash with h | h <;> simp [h, hpos]
  simp only [v] at ht'
  simp only [exec, execBatchFold, ht, hhead, hspec, guard, hready _, ht', hfailed, Option.isSome_none, Bool.false_eq_true, if_false, v]
  refine ⟨fun hnil => ?_, fun hsome hfinal => ?_, fun g l hfolded hpartial hfirst => ?_⟩
  · simp only [hnil, List.isEmpty_nil, if_true]
  · simp only [List.isEmpty_eq_false_iff.mpr hsome, hfinal, Bool.false_eq_true, if_false, if_true]
  · simp only [hfolded, hpartial, hfirst, List.isEmpty_cons, List.headD_cons, Bool.false_eq_true, if_false]

end BatchFold

section GroupMerge

variable {s : State} {die tag da i d : Nat} {t : Task} {o : PlanOp} {b : Batch} {x : AggSpec} {g : GEntry} {l : List GEntry} (hw : s.working die tag t i o b)
  (hspec : t.aggSpec (t.opIx i) = some x) (hfolded : t.w.folded = g :: l) (hpos : t.w.pos = 1) (hfinal : x.final = true)
  (hdigit : s.groupDigit t.w.cluster x 0 g = .ok d) (hpart : partAt (t.groupTab x).parts 0 0 d = none)
include hw hspec hfolded hpos hfinal hdigit hpart

/-- R142: a folded entry is merged into the resident entry of its key, charged. -/
theorem groupMerge_into {es : List GEntry} (hmerge : s.mergeInto t.w.cluster x g (t.groupTab x).entries = .into es) :
    exec (.groupMerge die tag da false) s = .next (((s.chargeMerge t.w x (t.groupTab x).entries g false).setGroup t.w.exec (groupKey x.op t.w.cluster)
      { t.groupTab x with entries := es }).goOn t.key t.w.merged) := by
  obtain ⟨ht, hhead⟩ := hw
  simp only [exec, execGroupMerge, ht, hhead, hspec, hfolded, hpos, hfinal, hdigit, hpart, hmerge, bne_self_eq_false, Bool.not_true, Bool.or_self, Bool.false_eq_true,
    if_false]

/-- R142, R146: a folded entry of a new key joins the table within the budget, charged, and the table's units follow. -/
theorem groupMerge_absent {u : State} {tab' : GroupTab} (hmerge : s.mergeInto t.w.cluster x g (t.groupTab x).entries = .absent) :
    let grown : GroupTab := { t.groupTab x with entries := (t.groupTab x).entries ++ [g] }
    (x.keys = 0 ∨ grown.bytes x ≤ s.groupBudget t.w.cluster t.w.camp x.budget) → s.groupUnits t.w.exec x grown = some (u, tab') →
    exec (.groupMerge die tag da false) s =
      .next (((u.chargeMerge t.w x (t.groupTab x).entries g true).setGroup t.w.exec (groupKey x.op t.w.cluster) tab').goOn t.key t.w.merged) := by
  obtain ⟨ht, hhead⟩ := hw
  intro grown hfits hunits
  have guard : (x.keys != 0 && decide (s.groupBudget t.w.cluster t.w.camp x.budget < grown.bytes x)) = false := by
    rcases hfits with h | h <;> simp [h]
  simp only [grown] at guard hunits
  simp only [exec, execGroupMerge, ht, hhead, hspec, hfolded, hpos, hfinal, hdigit, hpart, hmerge, guard, hunits, bne_self_eq_false, Bool.not_true, Bool.or_self,
    Bool.false_eq_true, if_false]

end GroupMerge

/-! ### Finalising -/

/-- Batches hold at most 4,096 rows. -/
theorem chop_le {α : Type} : ∀ (n : Nat) (l : List α), ∀ c ∈ chop n l, c.length ≤ 4096
  | 0, _, _, h => absurd h List.not_mem_nil
  | n + 1, l, c, h => by
    rw [chop] at h
    split at h
    · exact absurd h List.not_mem_nil
    · obtain rfl | h := List.mem_cons.mp h
      · exact List.length_take_le 4096 l
      · exact chop_le n _ c h

/-- Cutting rows into enough batches keeps every row. -/
theorem chop_length_sum {α : Type} : ∀ (n : Nat) (l : List α), l.length ≤ 4096 * n → ((chop n l).map List.length).sum = l.length
  | 0, l, h => by simp [chop, List.length_eq_zero_iff.mp (Nat.le_zero.mp h)]
  | n + 1, l, h => by
    rw [chop]
    split
    next hnil => simp [List.isEmpty_iff.mp hnil]
    next =>
      rw [List.map_cons, List.sum_cons, chop_length_sum n _ (by rw [List.length_drop]; omega), List.length_take, List.length_drop]
      omega

/-- A map that can fail answers a value for each member. -/
theorem length_of_mapM_ok {α β ε : Type} {f : α → Except ε β} : ∀ {l : List α} {r : List β}, l.mapM f = .ok r → r.length = l.length
  | [], _, h => by cases h; rfl
  | a :: l, r, h => by
    rw [List.mapM_cons] at h
    cases ha : f a with
    | error e => rw [ha] at h; cases h
    | ok b =>
      cases hl : l.mapM f with
      | error e => rw [ha, hl] at h; cases h
      | ok bs =>
        rw [ha, hl] at h
        cases h
        rw [List.length_cons, List.length_cons, length_of_mapM_ok hl]

/-- Giving near memory back leaves memory as it is. -/
@[simp] theorem State.execGive_m (s : State) (id u : Nat) : (s.execGive id u).m = s.m := by
  unfold State.execGive
  split <;> rfl

/-- A table without entries gives all its units back. -/
theorem groupUnits_empty (s : State) (id : Nat) (x : AggSpec) (tab : GroupTab) :
    s.groupUnits id x { tab with entries := [] } = some (s.execGive id tab.units, { tab with entries := [], units := 0 }) := by
  simp [State.groupUnits, GroupTab.bytes, units64k]

/-- One batch of the results of group entries (R139): the key and the values of each, by the operator's output vector. -/
def AggSpec.resultBatch (x : AggSpec) (o : PlanOp) (seq : Nat) (rows : List (List ColVal)) : Batch :=
  let tys := x.keyTys ++ x.fns.map (fun f => finalType f.1 f.2)
  Batch.full seq rows.length (o.outs.map (fun r => ⟨if r.produced then tys.getD r.idx ⟨0, 0, 0⟩ else ⟨0, 0, 0⟩, none,
    rows.map (fun v => if r.produced then v.getD r.idx .null else .null)⟩)) []

/-- The results of group entries with their finalised values, in batches numbered from `seq` on (R141). -/
def AggSpec.results (x : AggSpec) (o : PlanOp) (seq : Nat) (es : List GEntry) (vs : List (List ColVal)) : List Batch :=
  let rows := (List.zip es vs).map (fun q => keyUnforms x.keyTys q.1.key ++ q.2)
  (chop (rows.length / 4096 + 1) rows).zipIdx.map (fun l => x.resultBatch o (seq + l.2) l.1)

/-- The results have a row for each entry. -/
theorem results_rows_sum (x : AggSpec) (o : PlanOp) (seq : Nat) {es : List GEntry} {vs : List (List ColVal)} (h : vs.length = es.length) :
    ((x.results o seq es vs).map (·.rows)).sum = vs.length := by
  simp only [AggSpec.results, List.map_map]
  set rows := (List.zip es vs).map (fun q => keyUnforms x.keyTys q.1.key ++ q.2) with hrows
  calc (((chop (rows.length / 4096 + 1) rows).zipIdx.map ((fun b : Batch => b.rows) ∘ fun l => x.resultBatch o (seq + l.2) l.1)).sum)
      = (((chop (rows.length / 4096 + 1) rows).zipIdx.map (List.length ∘ Prod.fst)).sum) := rfl
    _ = ((chop (rows.length / 4096 + 1) rows).map List.length).sum := by rw [← List.map_map, List.zipIdx_map_fst]
    _ = rows.length := chop_length_sum _ _ (by omega)
    _ = vs.length := by simp [hrows, h]

theorem results_rows_le (x : AggSpec) (o : PlanOp) (seq : Nat) (es : List GEntry) (vs : List (List ColVal)) : ∀ y ∈ x.results o seq es vs, y.rows ≤ 4096 := by
  intro y hy
  obtain ⟨l, hl, rfl⟩ := List.mem_map.mp hy
  exact chop_le _ _ _ (List.fst_mem_of_mem_zipIdx hl)

/-- R139, R141: a final task charges its table's entries, emits their results, and empties the table. -/
theorem aggregateFinalise_finalises {s : State} {die tag k : Nat} {t : Task} {x : AggSpec} {tab : GroupTab} {o : PlanOp} {vs : List (List ColVal)}
    (ht : s.task die tag = some t) (hfinal : t.aggFinal = some (x, k, tab)) (hop : t.p.lastOp t.w.frag = some o) (htodo : t.w.todo = []) (hentries : tab.entries ≠ [])
    (hvals : tab.entries.mapM (fun g => finalVals x.fns g.accs 0) = .ok vs) :
    let v := ((s.charge t.w.camp 1 (tab.entries.map x.size).sum).execGive t.w.exec tab.units).setGroup t.w.exec (groupKey x.op k) { tab with entries := [], units := 0 }
    let bs := x.results o (k * 2 ^ 25 + t.w.emitted) tab.entries vs
    exec (.aggregateFinalise die tag) s =
      .next (v.goOn t.key { t.w with out := t.w.out ++ bs, emitted := t.w.emitted + bs.length, hold := !groupOver x { tab with entries := [] } (t.w.emitted + bs.length) }) := by
  have filled : tab.entries.isEmpty = false := List.isEmpty_eq_false_iff.mpr hentries
  simp only [exec, execAggregateFinalise, ht, hfinal, hop, htodo, filled, hvals, groupUnits_empty, List.isEmpty_nil, Bool.not_true, Bool.false_and, Bool.and_false,
    Bool.or_self, Bool.false_eq_true, if_false]
  rfl

/-- Settles O33: each clause is one command's outcome under the checks that its premises name; the batches of the results share out the entries. -/
theorem spillAndAggregateRows : Obligations.SpillAndAggregateRows := by
  refine ⟨fun s die tag das t ht => ⟨?build, ?group, ?joinPass, ?groupPass, ?chunk⟩, ?fold,
    fun s die tag da t i o b x g l d hw hspec hfolded hpos hfinal hdigit hpart => ⟨?into, ?absent⟩, ?finalise⟩
  case build => exact fun key tab tys u tab' l hwaits hon hspill => spillPartition_build ht hwaits hon hspill
  case group => exact fun x tab u tab' l v tab'' hbuild hwaits hspill hunits => spillPartition_group ht hbuild hwaits hspill hunits
  case joinPass =>
    exact fun x o b copy tab q rest u q' build probe v a v' a' hfinal hparts htodo hpos hrecs hbuild hprobe =>
      spillPass_join ht hfinal hparts htodo hrecs hpos hbuild hprobe
  case groupPass =>
    exact fun x k tab q rest u b v g left l v' g' last hjoin hfinal hparts hentries htodo hlast hclose hread hgroup v'' hunits =>
      exec_groupPass ht hjoin (groupPassAt_merges hfinal hparts hentries htodo hlast hclose hread hgroup hunits)
  case chunk =>
    exact fun x o b copy tab q rest u q' build probe v maps l v' chunk rows marks hfinal hparts htodo hlevel hrecs hbitmap hover hpages hchunk hlast _ _ _ _ =>
      chunkJoin_last ht hfinal hparts htodo hrecs hlevel hbitmap hover hpages hchunk hlast
  case fold => exact fun s die tag t i o b x u w b' t' hw hspec hhash hpos hready => batchFold_folds hw hspec hhash hpos hready
  case into => exact fun es hmerge => groupMerge_into hw hspec hfolded hpos hfinal hdigit hpart hmerge
  case absent => exact fun u tab' hmerge hfits hunits => groupMerge_absent hw hspec hfolded hpos hfinal hdigit hpart hmerge hfits hunits
  case finalise =>
    exact fun s die tag t x k tab o vs ht hfinal hop htodo hentries hvals =>
      ⟨_, _, aggregateFinalise_finalises ht hfinal hop htodo hentries hvals, results_rows_sum x o _ (length_of_mapM_ok hvals), results_rows_le x o _ _ vs,
        State.execGive_m _ _ _⟩

end Sys2Proof.Machine
end

section
/-! PROOFS. Sorts (R154, R155, R157 to R164): run formation and merge passes, one lemma for each outcome of a command, and what ordering keeps. -/

namespace Sys2Proof.Machine

/-! ### Ordering keeps the count of records -/

/-- A record put among ordered ones adds one record to what is in order and what is lost (R154, R50). -/
theorem place1_length (s : State) (cl : Nat) (x : SortSpec) (r : SortRec) :
    ∀ l : List SortRec, (s.place1 cl x r l).recs.length + (s.place1 cl x r l).lost.length = l.length + 1
  | [] => rfl
  | y :: l => by
    have ih := place1_length s cl x r l
    simp only [State.place1]
    split
    next => rfl
    next => simp only [List.length_cons]; omega
    next => rfl
    next => simp only [List.length_cons]; omega

/-- Ordering one record more puts it among those in order before it. -/
theorem sortRecs_append_singleton (s : State) (cl : Nat) (x : SortSpec) (l : List SortRec) (r : SortRec) :
    s.sortRecs cl x (l ++ [r]) =
      let o := s.sortRecs cl x l
      let p := s.place1 cl x r o.recs
      ⟨p.recs, o.lost ++ p.lost, o.reads ++ p.reads⟩ := by
  simp only [State.sortRecs, List.foldl_append, List.foldl_cons, List.foldl_nil]

/-- Each record given is in order or lost. -/
theorem sortRecs_length (s : State) (cl : Nat) (x : SortSpec) (l : List SortRec) :
    (s.sortRecs cl x l).recs.length + (s.sortRecs cl x l).lost.length = l.length := by
  induction l using List.reverseRecOn with
  | nil => rfl
  | append_singleton l r ih =>
    have placed := place1_length s cl x r (s.sortRecs cl x l).recs
    simp only [sortRecs_append_singleton, List.length_append, List.length_singleton]
    omega

/-! ### Run formation -/

/-- The heap reads of an ordering charged to a task's tile. -/
def State.chargeReads (s : State) (w : Work) (l : List (Nat × Nat)) : State := l.foldl (fun (s : State) (h : Nat × Nat) => s.chargeTask w h.1 h.2) s

/-- RUN_FORMATION's meaning (R157 to R162). -/
theorem exec_runFormation (s : State) (die tag : Nat) (das : List Nat) : exec (.runFormation die tag das) s = execRunFormation die tag das s := rfl

section RunFormation

variable {s u : State} {die tag i : Nat} {das : List Nat} {t : Task} {o : PlanOp} {b b' : Batch} {x : SortSpec} {w : Work} {all : Ordered}
  (hw : s.working die tag t i o b) (hspec : t.sortSpec (t.opIx i) = some x) (hready : s.colsReady t o.reads b u w b')
  (hall : all = u.sortRecs w.cluster x (b'.liveRows.map (x.record o.ins b'))) (hlost : all.lost = [])
include hw hspec hready hall hlost

/-- R157: a batch of which nothing is kept makes no run. -/
theorem runFormation_empty (hnone : x.cut all.recs = []) : exec (.runFormation die tag das) s = .next (u.goOn t.key w.pop) := by
  obtain ⟨ht, hhead⟩ := hw
  simp only [exec_runFormation, execRunFormation, ht, hhead, hspec, hready _, ← hall, hlost, hnone, List.isEmpty_nil, Bool.and_self, if_true]

/-- R157 to R161: the records kept become one more run of the destination, its pages written, and the batch is done with. -/
theorem runFormation_stores {v : State} {q : SortDest} {ps : List Page} {l : List Nat} {t' : Task} (hsome : x.cut all.recs ≠ []) :
    let q0 := t.e.sortAt x.op t.sortDest
    u.storeRun w x q0 0 q0.runs.length (x.cut all.recs) das = .ok v (q, ps) l →
    let v' := (((v.chargeReads w all.reads).setSort w.exec x.op t.sortDest { q with runs := q.runs ++ [ps] }).ra .SRT_STAT_runs w.tile 1).setWork t.key w
    v'.taskAt t.key = some t' → t'.w.failed = none → exec (.runFormation die tag das) s = .next (v'.goOn t.key w.pop) := by
  obtain ⟨ht, hhead⟩ := hw
  intro q0 hstore v' ht' hfailed
  have kept : (x.cut all.recs).isEmpty = false := List.isEmpty_eq_false_iff.mpr hsome
  simp only [q0] at hstore
  simp only [v', State.chargeReads] at ht' ⊢
  simp only [exec_runFormation, execRunFormation, ht, hhead, hspec, hready _, ← hall, hlost, kept, hstore, List.foldl_nil, ht', hfailed, Option.isSome_none, Bool.false_and,
    Bool.false_eq_true, if_false]

end RunFormation

/-! ### Merge passes -/

/-- MERGE_PASS's meaning (R159, R161 to R164). -/
theorem exec_mergePass (s : State) (die tag : Nat) (das : List Nat) : exec (.mergePass die tag das) s = execMergePass die tag das s := rfl

section MergePass

variable {s u v : State} {die tag op d : Nat} {das : List Nat} {t t' : Task} {o : PlanOp} {x : SortSpec} {q : SortDest} {pages : List Page} {all : Ordered}
  {p : State × SortDest} {rs : List SortRec}
  (ht : s.task die tag = some t) (hbody : t.w.body = .final op d) (hop : t.p.lastOp t.w.frag = some o) (hspec : t.sortSpec op = some x)
  (hq : q = t.e.sortAt op d) (hpages : pages = (q.runs.take 64).flatten) (hopen : q.finished = false) (hruns : q.runs ≠ []) (hread : readRuns t.w pages s = (u, none))
  (hall : all = u.sortRecs t.w.cluster x (pages.flatMap (fun p => p.body.sortList))) (hv : v = u.chargeReads t.w all.reads) (hlost : all.lost = [])
  (ht' : v.taskAt t.key = some t') (hfailed : t'.w.failed = none) (hrs : rs = x.cut all.recs) (hp : p = v.freeRuns t.w pages q)
include ht hbody hop hspec hq hpages hopen hruns hread hall hv hlost ht' hfailed hrs hp

/-- R162 to R164: when the runs read are all there are and no pass has made more, their records in order, cut at the limit, are the result's batches. -/
theorem mergePass_finishes (hfew : p.2.runs.length ≤ 64) (hfirst : p.2.next = []) (hroom : (x.batches o d rs).length ≤ 2 ^ 25) :
    exec (.mergePass die tag das) s = .next (((p.1.ra .SRT_STAT_merged t.w.tile rs.length).setSort t.w.exec op d
      { p.2 with runs := [], emitted := (x.batches o d rs).length, finished := true }).goOn t.key { t.w with out := t.w.out ++ x.batches o d rs, hold := false }) := by
  have filled : q.runs.isEmpty = false := List.isEmpty_eq_false_iff.mpr hruns
  simp only [State.chargeReads] at hv
  simp only [exec_mergePass, execMergePass, ht, hbody, hop, hspec, ← hq, ← hpages, hopen, filled, hread, ← hall, hlost, ← hv, ht', hfailed, ← hrs, ← hp, hfew, hfirst,
    Nat.not_lt.mpr hroom, List.foldl_nil, Option.map_some, Option.isSome_none, Option.getD_some, List.isEmpty_nil, Bool.or_self, Bool.and_self, decide_true,
    Bool.false_eq_true, if_false, if_true]

/-- R159, R161: otherwise the records are one run of the next pass, which begins when no run of this one is left. -/
theorem mergePass_stores {w' : State} {q' : SortDest} {ps : List Page} {l : List Nat} (hmore : 64 < p.2.runs.length ∨ p.2.next ≠ [])
    (hstore : (p.1.ra .SRT_STAT_merged t.w.tile rs.length).storeRun t.w x p.2 (p.2.pass + 1) p.2.next.length rs das = .ok w' (q', ps) l) :
    exec (.mergePass die tag das) s = .next (w'.setSort t.w.exec op d (if (q'.runs.drop 64).isEmpty then { q' with runs := q'.next ++ [ps], next := [], pass := q'.pass + 1 }
      else { q' with runs := q'.runs.drop 64, next := q'.next ++ [ps] })) := by
  have filled : q.runs.isEmpty = false := List.isEmpty_eq_false_iff.mpr hruns
  have guard : (decide (p.2.runs.length ≤ 64) && p.2.next.isEmpty) = false := by
    rw [Bool.and_eq_false_iff, decide_eq_false_iff_not, Nat.not_le, List.isEmpty_eq_false_iff]
    exact hmore
  simp only [State.chargeReads] at hv
  simp only [exec_mergePass, execMergePass, ht, hbody, hop, hspec, ← hq, ← hpages, hopen, filled, hread, ← hall, hlost, ← hv, ht', hfailed, ← hrs, ← hp, guard, hstore,
    List.foldl_nil, Option.map_some, Option.isSome_none, Option.getD_some, Bool.or_self, Bool.false_eq_true, if_false]

end MergePass

/-- Settles O34: the clauses of a command are its outcomes under the checks that their premises name; an ordering keeps the count of its records. -/
theorem sortRows : Obligations.SortRows := by
  refine ⟨fun s die tag das t i o b x u w b' v q ps l hw hspec hready => ⟨?none, ?run⟩,
    fun s die tag das t op d o x u ht hbody hop hspec hopen hruns hread hlost t' ht' hfailed => ⟨?finish, ?pass⟩, sortRecs_length⟩
  case none => exact fun hnone hlost => runFormation_empty hw hspec hready rfl hlost hnone
  case run => exact fun hsome hlost hstore t' ht' hfailed => runFormation_stores hw hspec hready rfl hlost hsome hstore ht' hfailed
  case finish => exact mergePass_finishes ht hbody hop hspec rfl rfl hopen hruns hread rfl rfl hlost ht' hfailed rfl rfl
  case pass =>
    exact fun w' q' ps l hmore hstore => mergePass_stores ht hbody hop hspec rfl rfl hopen hruns hread rfl rfl hlost ht' hfailed rfl rfl hmore hstore

end Sys2Proof.Machine
end

section
/-! PROOFS. EXCHANGE_SEND and its packing timeout (R165, R168 to R172), and RESULT_BATCH (R230, R339, R50): one lemma for each command. -/

namespace Sys2Proof.Machine

/-! ### EXCHANGE_SEND -/

/-- R165: under HASH every row has a destination. -/
theorem hashDest_lt {h d : Nat} (hd : 0 < d) (hh : h < 2 ^ 64) : hashDest h d < d := by
  have head : h / 2 ^ 48 < 2 ^ 16 := by omega
  rw [hashDest, Nat.div_lt_iff_lt_mul (by decide), Nat.mul_comm d]
  exact Nat.mul_lt_mul_of_pos_right head hd

/-- The destination of a row (R165): by its hash, by its range, or the only one. -/
def Work.destOf (w : Work) (mode n : Nat) (splits : List Digits) (form : Nat → Digits) (r : Nat) : Nat :=
  if mode = 0 then hashDest (w.hashOf r) n else if mode = 1 then rangeDest splits (form r) else 0

/-- A batch divided by destination (R165): whole to every destination of a BROADCAST, otherwise each live row packed for its own. -/
def State.divide (u : State) (x : Xchg) (w : Work) (b out : Batch) (dest : Nat → Nat) : Sent :=
  if x.whole then
    sendFold (fun (s : State) k => s.offer x w.tile k { out with origin := if x.carry then (List.range b.rows).map b.originOf else [] }) (List.range x.places.length) u
  else
    sendFold (fun (s : State) k => State.packRows x w.tile k out ((b.liveRows.filter (fun r => dest r == k)).length + 1) s (b.liveRows.filter (fun r => dest r == k)))
      (List.range x.places.length) u

/-- EXCHANGE_SEND's meaning (R165, R168 to R171). -/
theorem exec_exchangeSend (s : State) (die tag : Nat) : exec (.exchangeSend die tag) s = execExchangeSend die tag s := rfl

/-- R165, R169 to R171: a batch that is sent is done with; without credit and room it stays; beyond the quota its task fails. -/
theorem exchangeSend_divides {s u : State} {die tag i mode win sk flags : Nat} {tiles carry : Bool} {dests : List Nat} {splits : List Digits} {t : Task} {o : PlanOp}
    {b b' : Batch} {x : Xchg} {w : Work} (hw : s.working die tag t i o b) (hbody : o.body = .exchange mode tiles carry win sk flags dests splits)
    (hx : s.xchgOf t.w.exec (t.opIx i) = some x) (hhash : mode ≠ 0 ∨ t.w.hashed b = true) (hready : s.colsReady t o.reads b u w b') :
    let keys := (o.ins.take sk).filterMap (fun c => b'.cols[c]?)
    let sent := u.divide x w b' { b' with cols := o.outCols [] b' } (w.destOf mode x.places.length splits (rowForm flags keys))
    exec (.exchangeSend die tag) s = .next (match sent with
      | .ok v => v.goOn t.key w.pop
      | .wait => s
      | .quota => s.failTask t w stQuotaExhausted) := by
  obtain ⟨ht, hhead⟩ := hw
  intro keys sent
  have guard : (decide (mode = 0) && !t.w.hashed b) = false := by
    rcases hhash with h | h <;> simp [h]
  simp only [exec_exchangeSend, execExchangeSend, ht, hhead, hbody, hx, guard, hready _, Bool.false_eq_true, if_false]
  change (match sent with
    | .ok v => Host.Outcome.next (v.goOn t.key w.pop)
    | .wait => .next s
    | .quota => .next (s.failTask t w stQuotaExhausted)) = _
  clear_value sent
  cases sent <;> rfl

/-! ### The packing timeout -/

/-- EXCHANGE_FLUSH_TIMEOUT's meaning (R168). -/
theorem exec_exchangeFlushTimeout (s : State) (dt id op tile dest : Nat) :
    exec (.exchangeFlushTimeout dt id op tile dest) s = execExchangeFlushTimeout dt id op tile dest s := rfl

/-- R168: a port whose packing timeout has passed at the tick that `dt` leads to sends what it has packed. -/
theorem exchangeFlushTimeout_emits {s : State} {dt id op tile dest : Nat} {e : Exec} {x : Xchg} (halive : s.alive = true) (he : mget id s.execs = some e)
    (hrunning : e.cancelled = false) (hx : (s.advance dt).xchgOf id op = some x) :
    let q := s.port id (portKey op tile dest)
    q.packRows ≠ 0 → q.lastTick + s.rg .XCH_CTL_flush_ticks tile ≤ (s.advance dt).ticks →
    exec (.exchangeFlushTimeout dt id op tile dest) s = .next (match (s.advance dt).emitPack x tile dest with
      | .ok v => v
      | .wait => s.advance dt
      | .quota => (s.advance dt).failRun id stQuotaExhausted) := by
  intro q hpacked hdue
  have alive : (s.advance dt).alive = true := halive
  have port : (s.advance dt).port id (portKey op tile dest) = q := rfl
  have flush : (s.advance dt).rg .XCH_CTL_flush_ticks tile = s.rg .XCH_CTL_flush_ticks tile := rfl
  simp only [exec_exchangeFlushTimeout, execExchangeFlushTimeout, alive, port, flush, hpacked, Nat.not_lt.mpr hdue, State.advance_execs, he, hx, hrunning, Bool.not_true,
    decide_false, Bool.or_self, Bool.false_eq_true, if_false]
  cases (s.advance dt).emitPack x tile dest <;> rfl

/-! ### RESULT_BATCH -/

/-- RESULT_BATCH's meaning (R230, R339). -/
theorem exec_resultBatch (s : State) (die tag : Nat) : exec (.resultBatch die tag) s = execResultBatch die tag s := rfl

/-- The batch that a task has in hand after its rows were read: without the rows dropped (R50). -/
def Work.inHand (w : Work) (b : Batch) : Batch :=
  match w.todo with
  | (_, y) :: _ => y
  | [] => b

/-- The columns of values of a batch's live rows whose strings can be read. -/
def State.resultCols (s : State) (cl : Nat) (cols : List Column) (b : Batch) : List (List Lit) :=
  rowsCols cols.length (b.liveRows.filterMap (fun r => match s.litRow (some cl) cols r with | .ok y => some y | .error _ => none))

/-- What becomes of a batch under ORDERED, by the turn that the delivery has come to (R230): delivered in its turn, with the held batches that follow it; discarded past the
limit; otherwise held within the quota, and left in hand (state `s`) beyond it. -/
def State.returnTurn (s z : State) (t : Task) (op : Nat) (b : Batch) (rows : List (List Lit)) : Res :=
  let e := mget t.w.exec z.execs
  if b.seq = (e.map (·.nextOut)).getD 0 then
    .next ((drainHeld t.w.exec t.p op (t.e.held.length + 1) (z.deliverTurn t.w.exec t.p op rows)).goOn t.key t.w.pop)
  else if t.p.limitOf op != 0 && t.p.limitOf op ≤ (e.map (·.rowsOut)).getD 0 then
    .next ((z.modExec t.w.exec (fun (e : Exec) => { e with held := mput b.seq ([], 0) e.held })).goOn t.key t.w.pop)
  else match z.execTake t.w.exec b.units with
    | none => .next s
    | some y => .next ((y.modExec t.w.exec (fun (e : Exec) => { e with held := mput b.seq (rows, b.units) e.held })).goOn t.key t.w.pop)

/-- What becomes of a batch whose rows have been read: delivered at once without ORDERED, by its turn under it (R230). -/
def State.returnBatch (s v : State) (t : Task) (i : Nat) (b : Batch) (rows : List (List Lit)) : Res :=
  match t.p.ordered, (t.p.fragOf (t.opIx i)).bind (t.p.sortAbove t.p.frags.length) with
  | true, some op => s.returnTurn (drainHeld t.w.exec t.p op (t.e.held.length + 1) v) t op b rows
  | _, _ => .next ((v.deliver t.w.exec t.p rows).goOn t.key t.w.pop)

/-- R339, R50: with room in the Camp's staging, the batch in hand is read, the rows whose heap records fail are dropped, and the rest is returned. -/
theorem resultBatch_returns {s u : State} {die tag i : Nat} {t t' : Task} {o : PlanOp} {b b' : Batch} {k : List (Nat × Bool)} {w : Work} (hw : s.working die tag t i o b)
    (hbody : o.body = .result k) (hstaging : t.e.ring = 0xFFFF ∨ s.stagingFull t.w.camp = false) (hready : s.colsReady t o.ins b u w b') :
    let cols := o.ins.filterMap (fun c => b'.cols[c]?)
    let v := b'.liveRows.foldl (dropIfBad t.key cols) (u.setWork t.key w)
    let b'' := t'.w.inHand b'
    v.taskAt t.key = some t' → t'.w.failed = none →
    exec (.resultBatch die tag) s = s.returnBatch v t' i b'' (v.resultCols t'.w.cluster cols b'') := by
  obtain ⟨ht, hhead⟩ := hw
  intro cols v b'' ht' hfailed
  have guard : (t.e.ring != 0xFFFF && s.stagingFull t.w.camp) = false := by
    rcases hstaging with h | h <;> simp [h]
  simp only [v, cols] at ht'
  simp only [exec_resultBatch, execResultBatch, ht, hhead, hbody, guard, hready _, ht', hfailed, Option.isSome_none, Bool.false_eq_true, if_false]
  rfl

section Return

variable {s v z y : State} {t : Task} {i op : Nat} {b : Batch} {rows : List (List Lit)}

/-- Without ORDERED a batch is delivered at once. -/
theorem returnBatch_unordered (hordered : t.p.ordered = false) : s.returnBatch v t i b rows = .next ((v.deliver t.w.exec t.p rows).goOn t.key t.w.pop) := by
  simp only [State.returnBatch, hordered]

/-- R230: under ORDERED what is held is delivered as far as its turn has come, and the batch is returned by the turn after it. -/
theorem returnBatch_ordered (hordered : t.p.ordered = true) (hsort : (t.p.fragOf (t.opIx i)).bind (t.p.sortAbove t.p.frags.length) = some op) :
    s.returnBatch v t i b rows = s.returnTurn (drainHeld t.w.exec t.p op (t.e.held.length + 1) v) t op b rows := by
  simp only [State.returnBatch, hordered, hsort]

/-- R230: a batch whose turn has come is delivered, and the held batches that follow it. -/
theorem returnTurn_due (hturn : b.seq = ((mget t.w.exec z.execs).map (·.nextOut)).getD 0) :
    s.returnTurn z t op b rows = .next ((drainHeld t.w.exec t.p op (t.e.held.length + 1) (z.deliverTurn t.w.exec t.p op rows)).goOn t.key t.w.pop) :=
  if_pos hturn

/-- R230: without a limit a batch that comes before its turn is held, its units taken from the quota. -/
theorem returnTurn_early (hearly : b.seq ≠ ((mget t.w.exec z.execs).map (·.nextOut)).getD 0) (hlimit : t.p.limitOf op = 0) (hroom : z.execTake t.w.exec b.units = some y) :
    s.returnTurn z t op b rows =
      .next ((y.modExec t.w.exec (fun (e : Exec) => { e with held := mput b.seq (rows, b.units) e.held })).goOn t.key t.w.pop) := by
  simp only [State.returnTurn, hearly, hlimit, hroom, bne_self_eq_false, Bool.false_and, Bool.false_eq_true, if_false]

end Return

/-- Settles O35: a send, a timeout and a return each come to what the premises of their clauses leave of the command. -/
theorem exchangeAndResultRows : Obligations.ExchangeAndResultRows := by
  refine ⟨⟨?send, ?timeout, fun h d hd hh => hashDest_lt hd hh⟩, fun s die tag t i o b k u w b' t' hw hbody hstaging hready ht' hfailed => ?result⟩
  case send =>
    exact fun s die tag t i o b mode win sk flags tiles carry dests splits x u w b' hw hbody hx hhash hready => exchangeSend_divides hw hbody hx hhash hready
  case timeout => exact fun s dt id op tile dest e x halive he hrunning hx hpacked hdue => exchangeFlushTimeout_emits halive he hrunning hx hpacked hdue
  case result =>
    have hreturn := resultBatch_returns hw hbody hstaging hready ht' hfailed
    refine ⟨fun hordered => ?unordered, fun op y hordered hsort hearly hlimit hroom => ?early, fun op hordered hsort hturn => ?due⟩
    case unordered => exact hreturn.trans (returnBatch_unordered hordered)
    case early => exact hreturn.trans ((returnBatch_ordered hordered hsort).trans (returnTurn_early hearly hlimit hroom))
    case due => exact hreturn.trans ((returnBatch_ordered hordered hsort).trans (returnTurn_due hturn))

end Sys2Proof.Machine
end

section
/-! PROOFS. The ternary array (R182, R185 to R190): searches, steps and scrubs, one lemma for each outcome of a command. -/

namespace Sys2Proof.Machine

theorem exec_ternarySearch (s : State) (q : MatchReq) (p : TernParity) : exec (.ternarySearch q p) s = execTernarySearch q p s := rfl
theorem exec_ternaryStep (s : State) (q : MatchReq) (above : Nat) (p : TernParity) : exec (.ternaryStep q above p) s = execTernaryStep q above p s := rfl
theorem exec_ternaryScrub (s : State) (cl : Nat) (p : TernParity) : exec (.ternaryScrub cl p) s = execTernaryScrub cl p s := rfl

/-- A request of a Camp has gone through a cluster's array (R190, R204): the entries' parity is seen to, and one search is charged and counted in `f`. -/
def State.searched (s : State) (cl camp : Nat) (p : TernParity) (f : Fld) : State := ((s.ternParity cl p).chargeSearch camp 1).ra f cl 1

/-! ### A core's own request -/

section Core

variable {s : State} {cl camp seg len heap : Nat} {key : Digits} {p : TernParity} (halive : s.alive = true) (hseg : seg < 64) (hvalid : s.rg .MAT_SEG_valid seg ≠ 0)
include halive hseg hvalid

/-- R179: a search of another Camp's segment is a violation. -/
theorem ternarySearch_core_foreign (hcamp : s.rg .MAT_SEG_camp seg ≠ camp) :
    exec (.ternarySearch (.core cl camp seg key len heap) p) s = .next (s.matViolation cl camp none) := by
  rw [exec_ternarySearch]
  simp [execTernarySearch, halive, hseg, hvalid, hcamp]

variable (hcamp : s.rg .MAT_SEG_camp seg = camp) (hsound : p.isLost = false)
include hcamp hsound

/-- R185: a search of a Camp's own segment answers the result word of all its matches. -/
theorem ternarySearch_core_own :
    let u := s.searched cl camp p .MAT_STAT_searches
    exec (.ternarySearch (.core cl camp seg key len heap) p) s = .next (u.emit (.matchWords [ternWord (u.ternMatches seg key 0)])) := by
  rw [exec_ternarySearch]
  simp [execTernarySearch, State.searched, halive, hseg, hvalid, hcamp, hsound]

/-- R185, R186: a step answers the result word of the matches above an index. -/
theorem ternaryStep_core_own (above : Nat) :
    let u := s.searched cl camp p .MAT_STAT_steps
    exec (.ternaryStep (.core cl camp seg key len heap) above p) s = .next (u.emit (.matchWords [ternWord (u.ternMatches seg key (above + 1))])) := by
  rw [exec_ternaryStep]
  simp [execTernaryStep, State.searched, halive, hseg, hvalid, hcamp, hsound]

end Core

/-! ### A row of an IN term -/

/-- The term's answer for a row that the search of a segment gives, kept with the task (R187, R188). -/
def State.keepFound (x : State) (t : Task) (term row seg : Nat) (ms : List Nat) : State :=
  x.goOn t.key { t.w with search := mput (searchKey term row) (x.inSearch seg ms) t.w.search }

/-- A task searches the segment of its own Camp that its execution keeps for the operator: the matches from `n` on are handed on (R185, R204). -/
theorem taskSearch_own {s : State} {t : Task} {op term seg : Nat} {p : TernParity} (hkept : mget (segKey op term) t.e.segs = some seg)
    (hcamp : s.rg .MAT_SEG_camp seg = t.w.camp) (hsound : p.isLost = false) (key : Digits) (n : Nat) (step : Bool) (k : State → Nat → List Nat → Res) :
    let x := s.searched t.w.cluster t.w.camp p (if step then .MAT_STAT_steps else .MAT_STAT_searches)
    s.taskSearch t op term key n step p k = k x seg (x.ternMatches seg key n) := by
  cases step <;> simp [State.taskSearch, State.searched, hkept, hcamp, hsound]

section Row

variable {s : State} {die tag term row i seg : Nat} {p : TernParity} {t : Task} {o : PlanOp} {b : Batch} {ft : FTerm} {v : ColVal}
  (hw : s.working die tag t i o b) (hval : s.termValue t term row = some (ft, v)) (hkept : mget (segKey (t.opIx i) term) t.e.segs = some seg)
  (hcamp : s.rg .MAT_SEG_camp seg = t.w.camp) (hsound : p.isLost = false)
include hw hval hkept hcamp hsound

/-- R187: the first search of an IN term's row keeps what the whole segment gives for its value. -/
theorem ternarySearch_row {ts : List FTerm} {steps : List Nat} (hbody : o.body = .filter ts steps) (hin : ft.op = 7) (hfirst : mget (searchKey term row) t.w.search = none) :
    let x := s.searched t.w.cluster t.w.camp p .MAT_STAT_searches
    exec (.ternarySearch (.row die tag term row) p) s = .next (x.keepFound t term row seg (x.ternMatches seg (ternKey v) 0)) := by
  obtain ⟨ht, hhead⟩ := hw
  have guard : (ft.op != 7 || mhas (searchKey term row) t.w.search) = false := by simp [hin, mhas, hfirst]
  rw [exec_ternarySearch]
  simp only [execTernarySearch, ht, hhead, hbody, hval, guard, taskSearch_own hkept hcamp hsound, Bool.false_eq_true, if_false, State.keepFound]

/-- R188: a row whose candidate failed its compare keeps what the segment gives above that candidate. -/
theorem ternaryStep_row {word : Nat} (hcand : mget (searchKey term row) t.w.search = some (.step word)) (above : Nat) :
    let x := s.searched t.w.cluster t.w.camp p .MAT_STAT_steps
    exec (.ternaryStep (.row die tag term row) above p) s = .next (x.keepFound t term row seg (x.ternMatches seg (ternKey v) (bits word 0 14 + 1))) := by
  obtain ⟨ht, hhead⟩ := hw
  rw [exec_ternaryStep]
  simp only [execTernaryStep, ht, hhead, hval, hcand, taskSearch_own hkept hcamp hsound, if_true, State.keepFound]

end Row

/-- R190: with scrubbing on, the parity of an idle entry is seen to. -/
theorem ternaryScrub_enabled {s : State} {cl : Nat} (halive : s.alive = true) (hscrub : s.rg .MAT_CTL_scrub_en cl ≠ 0) (p : TernParity) :
    exec (.ternaryScrub cl p) s = .next (s.ternParity cl p) := by
  rw [exec_ternaryScrub]
  simp [execTernaryScrub, halive, hscrub]

/-- Settles O36: each clause is one command's outcome under the checks that its premises name. -/
theorem ternaryRows : Obligations.TernaryRows := by
  refine ⟨fun s cl camp seg len heap key p halive hseg hvalid => ⟨?foreign, ?search, ?step⟩,
    fun s die tag term row p t i o b ts steps ft v seg hw hbody hval hin hkept hcamp hsound => ⟨?row, ?stepRow⟩, ?scrub⟩
  case foreign => exact ternarySearch_core_foreign halive hseg hvalid
  case search => exact ternarySearch_core_own halive hseg hvalid
  case step => exact fun above hcamp hsound => ternaryStep_core_own halive hseg hvalid hcamp hsound above
  case row => exact ternarySearch_row hw hval hkept hcamp hsound hbody hin
  case stepRow => exact fun word above hcand => ternaryStep_row hw hval hkept hcamp hsound hcand above
  case scrub => exact fun s cl p halive hscrub => ternaryScrub_enabled halive hscrub p

end Sys2Proof.Machine
end

section
/-! PROOFS. Gapped dictionaries (R192 to R196, R204): one lemma for each outcome of a request that is answered. -/

namespace Sys2Proof.Machine

theorem exec_dictLookup (s : State) (q : MatchReq) (lost : Bool) : exec (.dictLookup q lost) s = execDictLookup q lost s := rfl
theorem exec_dictFloor (s : State) (q : MatchReq) (lost : Bool) : exec (.dictFloor q lost) s = execDictFloor q lost s := rfl
theorem exec_dictInsert (s : State) (q : MatchReq) (lost : Bool) : exec (.dictInsert q lost) s = execDictInsert q lost s := rfl
theorem exec_dictDelete (s : State) (q : MatchReq) (lost : Bool) : exec (.dictDelete q lost) s = execDictDelete q lost s := rfl
theorem exec_dictScan (s : State) (q : MatchReq) (span : Nat) (lost : Bool) : exec (.dictScan q span lost) s = execDictScan q span lost s := rfl

/-- An entry as an answer gives it: its key and its payload. -/
def DictSlot.answer (y : DictSlot) : Nat × Nat := (digsNat y.key, y.payload)

/-- An answer reaches its row or its core whatever it is. -/
theorem dictReply_next (s : State) (a : DictAsk) (r : Option (Nat × Nat)) : ∃ t : State, s.dictReply a r = .next t := by
  unfold State.dictReply
  split
  case h_1 => exact ⟨_, rfl⟩
  case h_2 => exact ⟨_, rfl⟩

section Asked

variable {s u : State} {q : MatchReq} {a : DictAsk}

/-- R196: FLOOR answers the entry at or below the key, or a miss. -/
theorem dictFloor_answers (hq : s.asks q 3 u a) {r : Option (DictSlot × Bool)} (hfloor : (u.chargeDict a 64).dictFloor a.dict a.value = .ok r) :
    exec (.dictFloor q false) s = (u.chargeDict a 64).dictReply a (r.map (·.1.answer)) := by
  rw [exec_dictFloor, execDictFloor, hq]
  simp only [hfloor, Bool.false_eq_true, if_false]
  rfl

/-- R196: LOOKUP answers the entry at or below the key exactly when it is equal to it. -/
theorem dictLookup_answers (hq : s.asks q 2 u a) {r : Option (DictSlot × Bool)} (hfloor : (u.chargeDict a 64).dictFloor a.dict a.value = .ok r) :
    exec (.dictLookup q false) s = (u.chargeDict a 64).dictReply a ((r.filter (·.2)).map (·.1.answer)) := by
  rw [exec_dictLookup, execDictLookup, hq]
  simp only [hfloor, Bool.false_eq_true, if_false]
  match r with
  | none => rfl
  | some (_, true) => rfl
  | some (_, false) => rfl

/-- INSERT without a span or memory left (R195): the command that asked fails. -/
def State.insertFailed (v : State) (a : DictAsk) : Res :=
  match a.back with
  | some (t, w, _, _, _, _) => .next (v.failTask t w stMatchResource)
  | none => .next ((v.countErr 3).failExec a.dict.exec stMatchResource)

/-- What INSERT's outcome comes to (R194, R195), `put` replacing the dictionary within its quota. It is a parameter so that an outcome's equation does not evaluate it. -/
def State.insertReply (v : State) (a : DictAsk) (put : GDict → Option State) (r : Except (HeapFault × Nat) Inserted) : Res :=
  match r with
  | .error (e, da) => v.dictHeap a e da
  | .ok (.had payload) => v.dictReply a (some (digsNat (dictKey a.value), payload))
  | .ok .full => v.insertFailed a
  | .ok (.ok d n split) => match put d with
    | none => v.insertFailed a
    | some w =>
      let x := (w.chargeDict a n).ra .MAT_DICT_inserts d.home 1
      (if split then x.ra .MAT_DICT_splits d.home 1 else x).dictReply a (some (digsNat (dictKey a.value), a.dict.inserted))

/-- R194, R204: INSERT is answered by its outcome; where nothing is put, a search is charged on the state that was asked. -/
theorem dictInsert_answers (hq : s.asks q 1 u a) :
    exec (.dictInsert q false) s = (u.chargeDict a 64).insertReply a (u.putDict a.num) (u.dictInsert a.dict a.value) := by
  rw [exec_dictInsert, execDictInsert, hq]
  rfl

/-- R194, R195, R204: a new key that the quota can hold is put, the bytes it moved charged, it and a split counted, and the answer is how many were inserted before. -/
theorem insertReply_new {v w : State} {put : GDict → Option State} {d : GDict} (hput : put d = some w) (a : DictAsk) (n : Nat) (split : Bool) :
    let x := (w.chargeDict a n).ra .MAT_DICT_inserts d.home 1
    v.insertReply a put (.ok (.ok d n split)) =
      (if split then x.ra .MAT_DICT_splits d.home 1 else x).dictReply a (some (digsNat (dictKey a.value), a.dict.inserted)) := by
  simp only [State.insertReply, hput]

/-- What DELETE's outcome comes to (R196), `put` replacing the dictionary within its quota. -/
def State.deleteReply (v : State) (a : DictAsk) (put : GDict → Option State) (r : Except (HeapFault × Nat) (Option GDict)) : Res :=
  match r with
  | .error (e, da) => v.dictHeap a e da
  | .ok none => v.dictReply a none
  | .ok (some d) => match put d with
    | some w => w.dictReply a (some (digsNat (dictKey a.value), 0))
    | none => .next v

/-- R196: DELETE of a key that is there answers once the dictionary is without its slot. -/
theorem deleteReply_held {v w : State} {put : GDict → Option State} {d : GDict} (hput : put d = some w) (a : DictAsk) :
    v.deleteReply a put (.ok (some d)) = w.dictReply a (some (digsNat (dictKey a.value), 0)) := by
  simp only [State.deleteReply, hput]

section Core

variable {cl camp handle len heap : Nat} {key : Digits} (hq : s.asks (.core cl camp handle key len heap) 4 u a)
include hq

/-- R196, R204: DELETE is answered by its outcome, with a search charged. -/
theorem dictDelete_answers :
    let v := u.chargeDict a 64
    exec (.dictDelete (.core cl camp handle key len heap) false) s = v.deleteReply a (v.putDict a.num) (v.dictDelete a.dict a.value) := by
  rw [exec_dictDelete, execDictDelete, hq]
  rfl

/-- R196, R204: SCAN answers the entries of a span in the order of their slots, charged by their number. -/
theorem dictScan_answers (span : Nat) :
    let es := a.dict.spans.getD span []
    exec (.dictScan (.core cl camp handle key len heap) span false) s = .next ((u.chargeDict a (32 + 32 * es.length)).emit (.dictEntries (es.map (·.2.answer)))) := by
  rw [exec_dictScan, execDictScan, hq]
  simp only [Bool.false_eq_true, if_false]
  rfl

end Core

end Asked

/-- Settles O37: each clause is one request's outcome under what the dictionary holds; an answer always completes the command. -/
theorem dictionaryRows : Obligations.DictionaryRows := by
  refine ⟨fun s q u a => ⟨fun hq => ⟨?equal, ?miss, ?below⟩, fun hq => ?floor, fun hq => ⟨?held, ?new⟩, fun hq _ hcore => ?core⟩, dictReply_next⟩
  case equal => exact fun y hfloor => dictLookup_answers hq hfloor
  case miss => exact fun hfloor => dictLookup_answers hq hfloor
  case below => exact fun y hfloor => dictLookup_answers hq hfloor
  case floor => exact fun r hfloor => dictFloor_answers hq hfloor
  case held => exact fun payload hheld => (dictInsert_answers hq).trans (by rw [hheld]; rfl)
  case new => exact fun d n split w hnew hput => (dictInsert_answers hq).trans (by rw [hnew]; exact insertReply_new hput a n split)
  case core =>
    obtain ⟨cl, camp, handle, key, len, heap, rfl⟩ := hcore
    refine ⟨fun d w hheld hput => ?delete, fun habsent => ?absent, fun span => dictScan_answers hq span⟩
    case delete => exact (dictDelete_answers hq).trans (by rw [hheld]; exact deleteReply_held hput a)
    case absent => exact (dictDelete_answers hq).trans (by rw [habsent]; rfl)

end Sys2Proof.Machine
end

section
/-! PROOFS. Automata (R199 to R201): a core's run and step, and the run of a LIKE or REGEXP term's row, one lemma for each outcome. -/

namespace Sys2Proof.Machine

theorem exec_automatonSearch (s : State) (q : MatchReq) (off : Nat) (lost : Bool) : exec (.automatonSearch q off lost) s = execAutomatonSearch q off lost s := rfl
theorem exec_automatonStep (s : State) (q : MatchReq) (off stop pattern : Nat) (lost : Bool) :
    exec (.automatonStep q off stop pattern lost) s = execAutomatonStep q off stop pattern lost s := rfl

/-- The bytes that a run to its first match takes (R201): up to the match's end, or all that were consumed. -/
def runBytes (m : List (Nat × Nat)) (consumed : Nat) : Nat :=
  match m with
  | (e, _) :: _ => e
  | [] => consumed

/-- The matches after the one that ends at `stop` with a pattern (R200). -/
def matchesAfter (stop pattern : Nat) (m : List (Nat × Nat)) : List (Nat × Nat) := m.filter (fun x => decide (stop < x.1) || (x.1 == stop && decide (pattern < x.2)))

/-- What a row's term keeps of a run (R199): its first match's pattern, or a miss. -/
def firstHit (m : List (Nat × Nat)) : Search :=
  match m with
  | (_, p) :: _ => .hit p
  | [] => .miss

/-- The answer of a core's run or step (Table 07-16). -/
def autWords (m : List (Nat × Nat)) : Out := .matchWords [(autResult m).1, (autResult m).2]

/-! ### A core's own request -/

section Core

variable {s : State} {cl camp id off len heap : Nat} {key : Digits} {e : Exec} {a : Automaton} (halive : s.alive = true) (he : mget id s.execs = some e)
  (ha : s.autOf id off = some a)
include halive he ha

/-- R179: a run of another Camp's automaton is a violation. -/
theorem automatonSearch_core_foreign (hcamp : e.camp ≠ camp) : exec (.automatonSearch (.core cl camp id key len heap) off false) s = .next (s.matViolation cl camp none) := by
  rw [exec_automatonSearch]
  simp [execAutomatonSearch, halive, he, ha, hcamp]

variable (hcamp : e.camp = camp)
include hcamp

/-- R199, R201: a run answers the first match and its pattern, the bytes up to it charged and counted. -/
theorem automatonSearch_core_own :
    let r := autMatches a (hexBytes key)
    let used := runBytes r.1 r.2
    exec (.automatonSearch (.core cl camp id key len heap) off false) s =
      .next ((((s.chargeSearch camp (runCharge used)).ra .MAT_AUT_runs cl 1).ra .MAT_AUT_bytes cl used).emit (autWords r.1)) := by
  have guard : (e.camp != camp) = false := bne_eq_false_iff_eq.mpr hcamp
  rw [exec_automatonSearch]
  simp only [execAutomatonSearch, halive, he, ha, guard, Bool.not_true, Bool.false_eq_true, if_false]
  rfl

/-- R200: a step answers the next match after one, the bytes from that one on charged and counted. -/
theorem automatonStep_core_own (stop pattern : Nat) :
    let r := autMatches a (hexBytes key)
    let l := matchesAfter stop pattern r.1
    let used := runBytes l r.2 - stop
    exec (.automatonStep (.core cl camp id key len heap) off stop pattern false) s =
      .next (((s.chargeSearch camp (runCharge used)).ra .MAT_AUT_bytes cl used).emit (autWords l)) := by
  have guard : (e.camp != camp) = false := bne_eq_false_iff_eq.mpr hcamp
  rw [exec_automatonStep]
  simp only [execAutomatonStep, halive, he, ha, guard, Bool.not_true, Bool.false_eq_true, if_false]
  rfl

end Core

/-! ### A row of a LIKE or REGEXP term -/

/-- The state after a term's string was asked for (R201): its heap record is charged unless the string is short or the run is dead within the prefix. -/
def State.stringCharged (s : State) (w : Work) (n da : Nat) (early : Bool) : State := if 16 < n && !early then s.chargeTask w da (heapBytes n) else s

/-- R199, R201: the first run of a row's string keeps the hit or the miss with the task; a run that is dead within the prefix reads no more of the string. -/
theorem automatonSearch_row {s : State} {die tag term row n da : Nat} {t : Task} {ft : FTerm} {pre v : Bytes} {a : Automaton} (ht : s.task die tag = some t)
    (hval : s.termValue t term row = some (ft, .str n pre da)) (hop : ft.op = 10 ∨ ft.op = 11) (hfirst : mget (searchKey term row) t.w.search = none)
    (ha : s.autOf t.w.exec ft.first = some a) (off : Nat) :
    let early := autDeadIn a (pre.take (min n 16)) 0
    let u := s.stringCharged t.w n da early
    (early = true → v = pre.take (min n 16)) → (early = false → u.strBytes (some t.w.cluster) n pre da = .ok v) →
    let r := autRun a n v 0 0
    let used := runBytes r.1 r.2
    exec (.automatonSearch (.row die tag term row) off false) s =
      .next ((((u.chargeSearch t.w.camp (runCharge used)).ra .MAT_AUT_runs t.w.cluster 1).ra .MAT_AUT_bytes t.w.cluster used).goOn t.key
        { t.w with search := mput (searchKey term row) (firstHit r.1) t.w.search }) := by
  intro early u hshort hread
  have guard : ((ft.op != 10 && ft.op != 11) || mhas (searchKey term row) t.w.search) = false := by
    rcases hop with h | h <;> simp [h, mhas, hfirst]
  have read : (if early then .ok (pre.take (min n 16)) else u.strBytes (some t.w.cluster) n pre da) = .ok v := by
    cases hearly : early with
    | true => exact congrArg Except.ok (hshort hearly).symm
    | false => exact hread hearly
  simp only [early, u, State.stringCharged] at read
  rw [exec_automatonSearch]
  simp only [execAutomatonSearch, ht, hval, guard, ha, read, Bool.false_eq_true, if_false]
  rfl

/-- Settles O38: each clause is one command's outcome under the checks that its premises name. -/
theorem automatonRows : Obligations.AutomatonRows := by
  refine ⟨fun s cl camp id off len heap key e a halive he ha => ⟨?foreign, ?run, ?step⟩, ?row⟩
  case foreign => exact automatonSearch_core_foreign halive he ha
  case run => exact automatonSearch_core_own halive he ha
  case step => exact fun stop pattern hcamp => automatonStep_core_own halive he ha hcamp stop pattern
  case row =>
    exact fun s die tag term row off t ft n da pre v a ht hval hop hfirst ha hshort hread => automatonSearch_row ht hval hop hfirst ha off hshort hread

end Sys2Proof.Machine
end

section
/-! PROOFS. PLAN_LOAD and PLAN_DROP (R221 to R223, R239, R301): one lemma for each outcome of a command. -/

namespace Sys2Proof.Machine

/-! ### A command's data -/

/-- Taking a command's data in changes registers only: its host-link bytes are charged. -/
theorem dataIn_regs (s : State) (c : Cmd) (d : Bytes) : s.regsOnly (s.dataIn c d).2 :=
  regsOnly_ite (regsOnly_refl s) (chargeHost_regs ..)

/-- Data of the length that is declared is taken whole. -/
theorem dataIn_whole (s : State) {c : Cmd} {d : Bytes} (h : c.avail = d.length) : s.dataIn c d = (d, (s.dataIn c d).2) := by
  simp only [State.dataIn, h, List.take_length]

/-! ### PLAN_LOAD -/

/-- The lowest plan slot that holds no plan (log 44). -/
def State.freePlanSlot (s : State) : Option Nat :=
  (List.range 16384).find? (fun k => match mget k s.plans.plans with | some q => q.plan.isNone | none => true)

/-- The generation that the next plan in a slot takes. -/
def State.nextPlanGen (s : State) (k : Nat) : Nat := nextGen 8 (((mget k s.plans.plans).map (·.gen)).getD 0)

/-- A plan's copy stored at a DA, and the plan in a slot with its next generation (R221). -/
def State.storePlan (s : State) (camp : Nat) (d : Bytes) (da k : Nat) (p : Plan) : State :=
  { s.memPut da d with plans := { s.plans with plans := mput k ⟨s.nextPlanGen k, camp, da, units64k d.length, false, some p⟩ s.plans.plans } }

theorem le_of_imageLen {d : Bytes} {n : Nat} (h : imageLen d = some n) : 64 ≤ n := by
  simp only [imageLen] at h
  split at h
  next => cases h
  next hn =>
    obtain rfl := Option.some.inj h
    simp only [Bool.or_eq_true, decide_eq_true_eq, not_or] at hn
    omega

/-- R221: an image that passes its checks, within the quota, the allotment and the free slots, is stored in the lowest free slot. -/
theorem loadPlan_stores {s u : State} {camp da k : Nat} {d : Bytes} {p : Plan} (hnear : s.takeNear camp (units64k d.length) = some u) (hplan : planLoad d = .ok p)
    (hslot : u.freePlanSlot = some k) (hallot : u.planCount camp < u.planAllot camp) :
    s.loadPlan camp d da = .ok (u.storePlan camp d da k p, planHandle camp k (u.nextPlanGen k)) := by
  delta State.loadPlan
  simp only [hnear, hplan]
  split
  case h_1 hnone => cases hnone.symm.trans hslot
  case h_2 j hj =>
    obtain rfl : j = k := Option.some.inj (hj.symm.trans hslot)
    exact if_neg (Nat.not_le.mpr hallot)

/-- R221: PLAN_LOAD of an image of its declared length answers the handle of the plan that it stores. -/
theorem planLoad_completes {s u : State} {r : CmdRef} {c : Cmd} {da k : Nat} {d : Bytes} {p : Plan} (hruns : s.runs r 0x40 c) (hwhole : c.avail = d.length)
    (hlen : imageLen d = some d.length) (hnear : (s.dataIn c d).2.takeNear c.camp (units64k d.length) = some u) (hplan : planLoad d = .ok p)
    (hslot : u.freePlanSlot = some k) (hallot : u.planCount c.camp < u.planAllot c.camp) :
    exec (.planLoad r d da) s = .next ((u.storePlan c.camp d da k p).completeCmd c c.okStatus (planHandle c.camp k (u.nextPlanGen k))) := by
  have long : ¬d.length < 8 := by have := le_of_imageLen hlen; omega
  refine (withCmd_runs hruns _).trans (congrArg _ ?_)
  delta State.doPlanLoad
  rw [dataIn_whole s hwhole]
  simp only [long, hlen, wholeLen_exact hwhole, List.take_length, loadPlan_stores hnear hplan hslot hallot, if_false]

/-! ### PLAN_DROP -/

section
variable {s : State} {r : CmdRef} {c : Cmd} (hruns : s.runs r 0x41 c)
include hruns

/-- R239: a plan of the Camp is dropped, unless something refers to it. -/
theorem planDrop_found {slot : Nat} {q : PlanSlot} {p : Plan} (hplan : s.planAt c.camp (c.w 9) = some (slot, q, p)) :
    exec (.planDrop r) s = .next (if s.planBusy slot then s.failCmd c stPlanBusy else (s.dropPlan slot q).completeCmd c c.okStatus 0) := by
  refine (withCmd_runs hruns _).trans (congrArg _ ?_)
  delta State.doPlanDrop
  simp only [hplan]
  cases s.planBusy slot <;> rfl

/-- A handle that names no plan of the Camp. -/
theorem planDrop_notFound (hplan : s.planAt c.camp (c.w 9) = none) : exec (.planDrop r) s = .next (s.failCmd c stPlanNotFound) := by
  refine (withCmd_runs hruns _).trans (congrArg _ ?_)
  delta State.doPlanDrop
  simp only [hplan]
  rfl

end

/-- Settles O20: each clause is one command's outcome under the checks that its premises name. -/
theorem planCommandsComplete : Obligations.PlanCommandsComplete := by
  refine fun s r c => ⟨?load, ?drop, ?unknown⟩
  case load =>
    exact fun d da k u p hruns hwhole hlen hnear hplan hslot hallot => planLoad_completes hruns hwhole hlen hnear hplan hslot hallot
  case drop => exact fun slot q p hruns hplan => planDrop_found hruns hplan
  case unknown => exact fun hruns hplan => planDrop_notFound hruns hplan

end Sys2Proof.Machine
end

section
/-! PROOFS. Standing queries (R242 to R246): one lemma for each outcome of a command, and the due times by the Galois connection of a division rounded up. -/

namespace Sys2Proof.Machine

/-! ### Due times -/

/-- R242: the first due time not before `now`: due time `k` is at or after it exactly for `k` no less than the first one. -/
theorem firstDue_le_iff {now start interval k : Nat} (h : 0 < interval) : firstDue now start interval ≤ k ↔ now ≤ start + k * interval := by
  unfold firstDue
  split
  next hle => exact iff_of_true (Nat.zero_le k) (by omega)
  next =>
    rw [← Nat.ceilDiv_eq_add_pred_div, ceilDiv_le_iff_le_mul h, Nat.mul_comm, Nat.sub_le_iff_le_add']

/-- The latest of the due times that have come is no earlier than the next one (R243). -/
theorem le_latestDue {now start next interval : Nat} (h : 0 < interval) (hdue : start + next * interval ≤ now) : next ≤ (now - start) / interval :=
  (Nat.le_div_iff_mul_le h).mpr (by omega)

/-! ### STANDING_SET -/

/-- Two data words of a command as one number. -/
def Cmd.w64 (c : Cmd) (i : Nat) : Nat := c.w i + 2 ^ 32 * c.w (i + 1)

/-- The standing query that STANDING_SET asks for, set at `now` (R242). -/
def Cmd.standing (c : Cmd) (now slot : Nat) (m : Map Bound) : Standing :=
  ⟨c.camp, slot, m, c.w64 10, c.w64 12, if c.w 14 = 0 then none else some (c.w 14), c.strict, firstDue now (c.w64 10) (c.w64 12), 0, none, false⟩

/-- A binding block of its declared length with a legal head is taken as it is. -/
theorem block_whole {c : Cmd} {d : Bytes} (hwhole : c.avail = d.length) (hlen : word32 d 1 = d.length) (hhead : blockHeadOk d = true) : c.block d = .ok (c, d) := by
  have long : ¬d.length < 8 := by
    simp only [blockHeadOk, Bool.and_eq_true, decide_eq_true_eq] at hhead
    omega
  simp only [Cmd.block, long, hlen, wholeLen_exact hwhole, hhead, List.take_length, if_false, if_true]

theorem dataIn_plans (s : State) (c : Cmd) (d : Bytes) : (s.dataIn c d).2.plans = s.plans := by obtain ⟨r, h⟩ := dataIn_regs s c d; rw [h]
theorem dataIn_devtime (s : State) (c : Cmd) (d : Bytes) : (s.dataIn c d).2.devtime = s.devtime := by obtain ⟨r, h⟩ := dataIn_regs s c d; rw [h]
theorem dataIn_standingAllot (s : State) (c : Cmd) (d : Bytes) (camp : Nat) : (s.dataIn c d).2.standingAllot camp = s.standingAllot camp := by
  obtain ⟨r, h⟩ := dataIn_regs s c d; rw [h]; rfl

/-- R242: a legal query takes the lowest free ID and answers it. -/
theorem standingSet_completes {s : State} {r : CmdRef} {c : Cmd} {d : Bytes} {slot id : Nat} {q : PlanSlot} {p : Plan} {m : Map Bound} (hruns : s.runs r 0x46 c)
    (hwhole : c.avail = d.length) (hlen : word32 d 1 = d.length) (hhead : blockHeadOk d = true) (hlow : 1000000 ≤ c.w64 12) (hhigh : c.w64 12 ≤ 2 ^ 48)
    (hbind : (s.dataIn c d).2.bindPlan c.camp (c.w 9) d = .ok (slot, q, p, m)) (hid : mfree s.plans.standing 0 1024 = some id)
    (hallot : (s.plans.standing.filter (fun q => q.2.camp == c.camp)).length < s.standingAllot c.camp) :
    exec (.standingSet r d) s = .next (((s.dataIn c d).2.setStanding id (c.standing s.devtime.toNat slot m)).completeCmd c c.okStatus id) := by
  refine (withCmd_runs hruns _).trans (congrArg _ ?_)
  simp only [Cmd.w64] at hlow hhigh
  delta State.doStandingSet
  rw [dataIn_whole s hwhole]
  simp only [Nat.not_lt.mpr hlow, Nat.not_lt.mpr hhigh, block_whole hwhole hlen hhead, hbind, dataIn_plans, dataIn_devtime, dataIn_standingAllot, hid, Nat.not_le.mpr hallot,
    decide_false, Bool.or_self, Bool.false_eq_true, if_false]
  rfl

/-! ### STANDING_CLEAR -/

/-- R243: the Camp's own query ends at once, or, while its run is in progress, once that has ended. -/
theorem standingClear_completes {s : State} {r : CmdRef} {c : Cmd} {q : Standing} (hruns : s.runs r 0x47 c) (hq : mget (bits (c.w 9) 0 10) s.plans.standing = some q)
    (hcamp : q.camp = c.camp) (hcleared : q.cleared = false) :
    exec (.standingClear r) s = .next (if q.exec = none then (s.delStanding (bits (c.w 9) 0 10)).completeCmd c c.okStatus 0
      else (s.setStanding (bits (c.w 9) 0 10) { q with cleared := true }).completeCmd c c.okStatus 0) := by
  refine (withCmd_runs hruns _).trans (congrArg _ ?_)
  delta State.doStandingClear
  simp only [hq, hcamp, hcleared, bne_self_eq_false, Bool.or_self, Bool.false_eq_true, if_false]
  cases q.exec <;> rfl

/-! ### Due times that have come -/

/-- Time that passes leaves the mode, and with it whether an engine runs. -/
theorem State.advance_alive (s : State) (dt : Nat) : (s.advance dt).alive = s.alive := rfl

/-- STANDING_DUE's meaning (R243). -/
theorem exec_standingDue (s : State) (dt id : Nat) (homes : List Nat) : exec (.standingDue dt id homes) s = execStandingDue dt id homes s := rfl

/-- R243: of the due times that have come the latest starts the query's run, when it is at most 100 us past and nothing forbids it, and is skipped otherwise; the earlier ones
are skipped. -/
theorem standingDue_takes {s : State} {dt id : Nat} {homes : List Nat} {q : Standing} (halive : s.alive = true) (hq : mget id s.plans.standing = some q)
    (hcleared : q.cleared = false) (hcount : q.count = none) (hinterval : 0 < q.interval) (hdue : q.start + q.next * q.interval ≤ (s.advance dt).devtime.toNat) :
    let w := s.advance dt
    let k := (w.devtime.toNat - q.start) / q.interval
    exec (.standingDue dt id homes) s = .next (if w.devtime.toNat ≤ q.start + k * q.interval + 100000 ∧ w.mayRun q = true then
        w.startStanding id { q with next := k + 1, skips := q.skips + (k - q.next) } k homes
      else w.setStanding id { q with next := k + 1, skips := q.skips + (k + 1 - q.next) }) := by
  intro w k
  have latest : ¬k + 1 ≤ q.next := by have : q.next ≤ k := le_latestDue hinterval hdue; omega
  rw [exec_standingDue]
  delta execStandingDue
  simp only [halive, State.advance_alive, State.advance_plans, hq, hcleared, hcount, Nat.not_lt.mpr hdue, Nat.add_sub_cancel, latest, k, w,
    Bool.not_true, decide_false, Bool.or_self, Bool.and_eq_true, decide_eq_true_eq, Bool.false_eq_true, if_false]
  exact (apply_ite Host.Outcome.next _ _ _).symm

/-- Settles O22: each clause is one command's outcome under the checks that its premises name, the due times' by where the first and the latest of them lie. -/
theorem standingQueries : Obligations.StandingQueries := by
  refine ⟨fun s r c => ⟨?set, ?clear, ?first⟩, fun s dt id homes q halive hq hcleared hcount hinterval hdue => ⟨?runs, ?skips⟩, fun s camp x => rfl⟩
  case set =>
    exact fun d slot q p m id hruns hwhole hlen hhead hlow hhigh hbind hid hallot => standingSet_completes hruns hwhole hlen hhead hlow hhigh hbind hid hallot
  case clear => exact fun q hruns hq hcamp hcleared => standingClear_completes hruns hq hcamp hcleared
  case first =>
    exact fun now start interval h => ⟨(firstDue_le_iff h).mp le_rfl, fun k hk => Nat.lt_of_not_le fun hle => Nat.not_le.mpr hk ((firstDue_le_iff h).mpr hle)⟩
  case runs => exact fun hrun => (standingDue_takes halive hq hcleared hcount hinterval hdue).trans (congrArg _ (if_pos hrun))
  case skips => exact fun hrun => (standingDue_takes halive hq hcleared hcount hinterval hdue).trans (congrArg _ (if_neg hrun))

end Sys2Proof.Machine
end

section
/-! PROOFS. RESULT_FETCH (R245, R366) and INGEST (R234, R354, R367): one lemma for each outcome of a command. -/

namespace Sys2Proof.Machine

/-! ### RESULT_FETCH -/

/-- The records of a Camp's store that an acknowledgement leaves (R245). -/
def State.unacknowledged (s : State) (c : Cmd) : List Record :=
  (mgetD Store.empty c.camp s.records).recs.filter (fun r => decide (c.w 10 < r.num))

/-- The records up to the acknowledged number are freed (R245). -/
def State.acknowledge (s : State) (c : Cmd) : State :=
  { s with records := mput c.camp { mgetD Store.empty c.camp s.records with recs := s.unacknowledged c } s.records }

section ResultFetch

variable {s : State} {r : CmdRef} {c : Cmd} {x : Record} {l : List Record} (hruns : s.runs r 0x43 c)
include hruns

/-- R366: with acknowledge-only the oldest record left is answered. -/
theorem resultFetch_acknowledges (hack : bits (c.w 11) 0 1 = 1) :
    exec (.resultFetch r) s = .next ((s.acknowledge c).completeCmd c c.okStatus (((s.unacknowledged c).head?).elim 0 (·.num))) := by
  refine (withCmd_runs hruns _).trans (congrArg _ ?_)
  delta State.doResultFetch
  simp only [hack, Nat.one_ne_zero, decide_false, Bool.false_and, Bool.false_eq_true, if_false, if_true]
  rfl

section Fetches

variable (hfetch : bits (c.w 11) 0 1 = 0)
include hfetch

/-- R366: an empty store answers 0. -/
theorem resultFetch_empty (hring : bits (c.w 9) 0 16 = 0xFFFF) (hrecs : s.unacknowledged c = []) :
    exec (.resultFetch r) s = .next ((s.acknowledge c).completeCmd c c.okStatus 0) := by
  refine (withCmd_runs hruns _).trans (congrArg _ ?_)
  delta State.acknowledge State.doResultFetch State.unacknowledged at *
  simp only [hfetch, hring, hrecs, beq_self_eq_true, Bool.true_or, Bool.not_true, Bool.and_false, Bool.false_eq_true,
    Nat.zero_ne_one, if_false]

/-- R366: without a ring the oldest record's descriptor is returned. -/
theorem resultFetch_descriptor (hring : bits (c.w 9) 0 16 = 0xFFFF) (hrecs : s.unacknowledged c = x :: l) :
    exec (.resultFetch r) s = .next (((s.acknowledge c).dataOut c x.descriptor).completeCmd c c.okStatus x.num) := by
  refine (withCmd_runs hruns _).trans (congrArg _ ?_)
  delta State.acknowledge State.doResultFetch State.unacknowledged at *
  simp only [hfetch, hring, hrecs, beq_self_eq_true, Bool.true_or, Bool.not_true, Bool.and_false, Bool.false_eq_true,
    Nat.zero_ne_one, decide_true, if_false, if_true]

/-- R366: with a ring of the Camp the oldest record's stream follows its descriptor. -/
theorem resultFetch_stream {g : Ring} (hnamed : bits (c.w 9) 0 16 ≠ 0xFFFF) (hring : mget (fq c.ref.fn (bits (c.w 9) 0 16)) s.host.rings = some g) (hcamp : g.camp = c.camp)
    (hrecs : s.unacknowledged c = x :: l) (hstream : x.stream ≠ []) :
    exec (.resultFetch r) s = .next (((((s.acknowledge c).dataOut c x.descriptor).modCmd c.uid (fun d => { d with wait := .stream, result := x.num })).streamMsgs c
      (bits (c.w 9) 0 16) x.stream).endStream c.uid 0) := by
  refine (withCmd_runs hruns _).trans (congrArg _ ?_)
  have filled : x.stream.isEmpty = false := List.isEmpty_eq_false_iff.mpr hstream
  delta State.acknowledge State.doResultFetch State.unacknowledged at *
  simp only [hfetch, hring, hcamp, hrecs, hnamed, filled, beq_self_eq_true, Bool.or_true, Bool.not_true, Bool.and_false,
    Bool.or_false, Bool.false_eq_true, Nat.zero_ne_one, decide_false, if_false]

end Fetches

end ResultFetch

/-! ### INGEST -/

/-- What a stream has brought before its first message: nothing, with the places that firmware chose for what it will write. -/
def TableChoice.ingest (ch : TableChoice) : Ingest := ⟨none, [], [], 0, 0, 0, ch.blocks, ch.dicts⟩

/-- R367: INGEST into an existing table of its Camp, its options legal, takes its stream's messages. -/
theorem ingest_streams {s u : State} {r : CmdRef} {c : Cmd} {d b : Bytes} {msgs : List ArrowMsg} {ch : TableChoice} {hl slot : Nat} {opts : List Nat} {t : Table}
    (hruns : s.runs r 0x44 c) (hdata : s.dataIn c d = (b, u)) (hopts : ingestOptions b = some (hl, opts)) (hnamed : c.w 9 ≠ 0) (hhead : hl ≤ c.avail) (hlen : 8 ≤ c.avail)
    (htable : u.tableAt c.camp (c.w 9) = some (slot, t)) (hlist : u.listLost slot t = none) :
    exec (.ingest r d msgs ch) s = .next (s.ingestStream u c (some t) hl opts msgs ch) := by
  refine (withCmd_runs hruns _).trans (congrArg _ ?_)
  delta State.doIngest
  rw [hdata]
  simp only [hopts, htable, hlist, hnamed, Nat.not_lt.mpr hhead, Nat.not_lt.mpr hlen, Option.isNone_some, Bool.and_false, decide_false, Bool.or_self, Bool.false_eq_true,
    if_false]

section Stream

variable {s u v : State} {c : Cmd} {tab : Option Table} {hl n st : Nat} {opts : List Nat} {msgs : List ArrowMsg} {ch : TableChoice} {g : Ingest} {e : IngestEnd}
  (hmsgs : State.ingestMsgs c.camp c.strict opts tab msgs (c.avail - hl) u ch.ingest = (v, g, e))
include hmsgs

/-- R354: a message's fault fails the command in either policy, with nothing committed. -/
theorem ingestStream_fault (he : e = .error (.status st)) : s.ingestStream u c tab hl opts msgs ch = u.failIngest c g st := by
  subst he
  delta State.ingestStream TableChoice.ingest at *
  simp only [hmsgs]
  rfl

/-- R354: under STRICT what stands behind the end of the stream fails the command. -/
theorem ingestStream_long (he : e = .eos n) (hstrict : c.strict = true) (hn : 0 < n) : s.ingestStream u c tab hl opts msgs ch = u.failIngest c g stLengthLong := by
  subst he
  delta State.ingestStream TableChoice.ingest at *
  simp only [hmsgs]
  simp [hstrict, hn]

/-- R354: under STRICT a stream that stops before its end fails the command. -/
theorem ingestStream_short (he : e = .short) (hstrict : c.strict = true) : s.ingestStream u c tab hl opts msgs ch = u.failIngest c g stLengthShort := by
  subst he
  delta State.ingestStream TableChoice.ingest at *
  simp only [hmsgs]
  simp [hstrict]

/-- R354: a stream that stops before its schema fails the command under TOLERANT too (log 33). -/
theorem ingestStream_noSchema (he : e = .short) (htolerant : c.strict = false) (hfields : g.fields = none) :
    s.ingestStream u c tab hl opts msgs ch = u.failIngest c g stSchemaFault := by
  subst he
  delta State.ingestStream TableChoice.ingest at *
  simp only [hmsgs]
  simp [htolerant, hfields]

section Ends

variable (he : e = .eos n) (hclean : c.strict = false ∨ n = 0)
include he hclean

omit hmsgs he in
/-- Without STRICT, or with nothing behind the end, the end of a stream is no fault (R354). -/
theorem no_excess : (c.strict && decide (0 < n)) = false := by
  rcases hclean with h | rfl
  · rw [h]; rfl
  · exact Bool.and_false _

/-- R367: a stream that ends and whose batches commit answers its report and its rows. -/
theorem ingestStream_commits {w : State} {h : Nat} (hcommit : v.commitIngest c.camp (c.w 9) (bits (c.w 10) 0 1 == 1) g ch.list = .ok (w, h)) :
    s.ingestStream u c tab hl opts msgs ch = ((w.countDrops c.camp g).dataOut c (ingestReport h g.out.length g.rows)).completeCmd { c with dropped := g.badRows }
      (if 0 < n then warnSt 0x008 else c.okStatus) (min g.rows (2 ^ 32 - 1)) := by
  subst he
  delta State.ingestStream TableChoice.ingest at *
  simp only [hmsgs, hcommit]
  simp [no_excess hclean, ingestStatus]

/-- R367: a stream that ends and whose batches do not commit fails with the status of their fault. -/
theorem ingestStream_commitFault (hcommit : v.commitIngest c.camp (c.w 9) (bits (c.w 10) 0 1 == 1) g ch.list = .error (.status st)) :
    s.ingestStream u c tab hl opts msgs ch = u.failIngest c g st := by
  subst he
  delta State.ingestStream TableChoice.ingest at *
  simp only [hmsgs, hcommit]
  simp [no_excess hclean]

end Ends

end Stream

/-- Settles O23: a fetch by what the acknowledgement leaves, an INGEST by how its stream ends and whether its batches commit. -/
theorem resultFetchAndIngest : Obligations.ResultFetchAndIngest := by
  refine ⟨fun s r c hruns => ⟨?acknowledge, ?empty, ?descriptor, ?stream⟩, fun s r c d msgs ch hl slot opts t hruns hopts hnamed hhead hlen htable hlist => ?ingest⟩
  case acknowledge => exact resultFetch_acknowledges hruns
  case empty => exact fun hfetch hring hrecs => resultFetch_empty hruns hfetch hring hrecs
  case descriptor => exact fun x l hfetch hring hrecs => resultFetch_descriptor hruns hfetch hring hrecs
  case stream =>
    exact fun g x l hfetch hnamed hring hcamp hrecs hstream => resultFetch_stream hruns hfetch hnamed hring hcamp hrecs hstream
  case ingest =>
    have streams := ingest_streams (msgs := msgs) (ch := ch) hruns rfl hopts hnamed hhead hlen htable hlist
    split
    next v g st hmsgs => exact streams.trans (congrArg _ (ingestStream_fault hmsgs rfl))
    next v g n hmsgs =>
      refine ⟨fun hstrict hn => streams.trans (congrArg _ (ingestStream_long hmsgs rfl hstrict hn)), fun hclean => ?_⟩
      split
      next w h hcommit => exact streams.trans (congrArg _ (ingestStream_commits hmsgs rfl hclean hcommit))
      next st hcommit => exact streams.trans (congrArg _ (ingestStream_commitFault hmsgs rfl hclean hcommit))
      next => exact trivial
    next v g hmsgs =>
      exact ⟨fun hstrict => streams.trans (congrArg _ (ingestStream_short hmsgs rfl hstrict)),
        fun htolerant hfields => streams.trans (congrArg _ (ingestStream_noSchema hmsgs rfl htolerant hfields))⟩
    next => exact trivial

end Sys2Proof.Machine
end

section
/-! PROOFS. Service calls, service timers and their time limit (R249 to R252, R439): one lemma for each outcome of a command. -/

namespace Sys2Proof.Machine

/-! ### EXT_CALL -/

section ExtCall

variable {s u : State} {r : CmdRef} {c : Cmd} {d : Bytes} {v : SvcEnv} {x : ExtRec} {entry : Nat} (hruns : s.runs r 0x48 c) (hwhole : c.avail = c.w 4)
  (hdata : s.dataIn c d = (d, u)) (hargs : c.w 4 ≤ 4096)
include hruns hwhole hdata hargs

/-- R251: without an extension behind the Camp, or without a grant, the call is denied. -/
theorem extCall_denied (hdenied : u.extOf (bits (c.w 9) 0 10) = none ∨ ∃ x, u.extOf (bits (c.w 9) 0 10) = some x ∧ u.granted x (bits (c.w 9) 10 6) c.camp = false) :
    exec (.extCall r d v) s = .next (u.failCmd c stExtDenied) := by
  refine (withCmd_runs hruns _).trans (congrArg _ ?_)
  delta State.doExtCall
  rw [hdata]
  obtain hext | ⟨x, hext, hgrant⟩ := hdenied
  · simp only [Nat.not_lt.mpr hargs, wholeLen_exact hwhole, hext, if_false]
  · simp only [Nat.not_lt.mpr hargs, wholeLen_exact hwhole, hext, hgrant, Bool.false_eq_true, if_false]

section Granted

variable (hext : u.extOf (bits (c.w 9) 0 10) = some x) (hgrant : u.granted x (bits (c.w 9) 10 6) c.camp = true) (hentry : v.entry = some entry)
include hext hgrant hentry

/-- R497: a granted call to a quarantined Camp fails. -/
theorem extCall_quarantined (hstate : u.campState (bits (c.w 9) 0 10) = .quarantined) : exec (.extCall r d v) s = .next (u.failCmd c stExtFault) := by
  refine (withCmd_runs hruns _).trans (congrArg _ ?_)
  delta State.doExtCall
  rw [hdata]
  simp only [Nat.not_lt.mpr hargs, wholeLen_exact hwhole, hext, hgrant, hentry, hstate, beq_self_eq_true, if_false, if_true]

variable (hstate : u.campState (bits (c.w 9) 0 10) ≠ .quarantined)
include hstate

/-- R251, log 80: a granted call without room is turned away. -/
theorem extCall_busy (hroom : u.svcRoom x (bits (c.w 9) 0 10) = false) : exec (.extCall r d v) s = .next (u.failCmd c stBusy) := by
  refine (withCmd_runs hruns _).trans (congrArg _ ?_)
  delta State.doExtCall
  rw [hdata]
  simp only [Nat.not_lt.mpr hargs, wholeLen_exact hwhole, hext, hgrant, hentry, beq_eq_false_iff_ne.mpr hstate, hroom, Bool.not_false, Bool.false_eq_true, if_false, if_true]

/-- R250, R251: a granted call with room starts an invocation and waits for its thread. -/
theorem extCall_starts {t : State} (hroom : u.svcRoom x (bits (c.w 9) 0 10) = true)
    (hstart : u.startCall ⟨bits (c.w 9) 0 10, x, c.camp, some c.uid, 0, bits (c.w 9) 10 6, 0, d⟩ v entry = some t) :
    exec (.extCall r d v) s = .next (t.modCmd c.uid (fun x => { x with wait := .thread v.core v.slot, long := c.long })) := by
  refine (withCmd_runs hruns _).trans (congrArg _ ?_)
  delta State.doExtCall
  rw [hdata]
  simp only [Nat.not_lt.mpr hargs, wholeLen_exact hwhole, hext, hgrant, hentry, beq_eq_false_iff_ne.mpr hstate, hroom, hstart, Bool.not_true, Bool.false_eq_true, if_false, if_true]

end Granted

end ExtCall

/-! ### Service timers -/

/-- SERVICE_TIMER_DUE's meaning (R249). -/
theorem exec_serviceTimerDue (s : State) (dt n : Nat) (v : SvcEnv) : exec (.serviceTimerDue dt n v) s = execServiceTimerDue dt n v s := rfl

/-- Time that passes leaves the Camps' extensions. -/
theorem advance_campOfExt (s : State) (dt ext : Nat) : (s.advance dt).campOfExt ext = s.campOfExt ext := rfl
theorem advance_extOf (s : State) (dt camp : Nat) : (s.advance dt).extOf camp = s.extOf camp := rfl

/-- A timer may invoke its service for the due time `k` (R249): at most 100 us past it, the Camp active, no invocation of the timer in progress, and room. -/
def State.timerMay (w : State) (n camp : Nat) (x : ExtRec) (due : Nat) : Bool :=
  decide (w.devtime.toNat ≤ due + 100000) && w.mayInvoke camp && !w.timerBusy camp n && w.svcRoom x camp

/-- What a step answers from an optional state, and from another where there is none. -/
theorem next_getD (a : Option State) (w : State) : (match a with | some u => Host.Outcome.next u | none => .next w : Res) = .next (a.getD w) := by
  cases a <;> rfl

section Timer

variable {s : State} {dt n camp : Nat} {v : SvcEnv} {t : TimerRec} {x : ExtRec} (halive : s.alive = true) (htimer : s.trust.cfg.timers[n]? = some t)
  (hcamp : s.campOfExt t.ext = some camp) (hext : s.extOf camp = some x) (hruns : t.runs = 0) (hinterval : 0 < t.interval)
include halive htimer hcamp hext hruns hinterval

/-- R249: of a timer's due times that have come the latest invokes its service when it may, and is skipped otherwise; the earlier ones are skipped. -/
theorem serviceTimerDue_takes :
    let w := s.advance dt
    let r := mgetD (⟨0, 0⟩ : TimerRun) n s.ulr.timers
    let start := s.ulr.bootTime.toNat + t.start
    let k := (w.devtime.toNat - start) / t.interval
    start + r.next * t.interval ≤ w.devtime.toNat →
    exec (.serviceTimerDue dt n v) s = .next (if w.timerMay n camp x (start + k * t.interval) = true then
        ((w.setTimer n ⟨k + 1, r.skips + (k - r.next)⟩).startTimer n camp x t v).getD w
      else w.setTimer n ⟨k + 1, r.skips + (k + 1 - r.next)⟩) := by
  intro w r start k hdue
  have latest : ¬k + 1 ≤ r.next := by have : r.next ≤ k := le_latestDue hinterval hdue; omega
  simp only [k, start, r, w] at hdue latest ⊢
  rw [exec_serviceTimerDue]
  delta execServiceTimerDue State.timerMay
  simp only [halive, State.advance_alive, State.advance_trust, State.advance_ulr, htimer, advance_campOfExt, hcamp, advance_extOf, hext,
    hruns, hinterval.ne', Nat.not_lt.mpr hdue, latest, Nat.add_sub_cancel, Bool.not_true, Bool.false_eq_true, if_false, if_true]
  split
  · exact next_getD _ _
  · rfl

end Timer

/-! ### The time limit -/

/-- EXT_TIMEOUT's meaning (R252). -/
theorem exec_extTimeout (s : State) (dt core slot : Nat) : exec (.extTimeout dt core slot) s = execExtTimeout dt core slot s := rfl

/-- R252: an invocation beyond its tile-time limit is cancelled. -/
theorem extTimeout_cancels {s : State} {dt core slot : Nat} {j : Invocation} (halive : s.alive = true) (hcore : core < 128) (hslot : slot < 32) :
    let w := (s.advance dt).chargeThread (ctxKey core slot)
    (w.uctx (ctxKey core slot)).inv = some j → j.limit < j.used → exec (.extTimeout dt core slot) s = .next (w.cancelInvocation (ctxKey core slot) stExtTimeout) := by
  intro w hinv hover
  simp only [w] at hinv ⊢
  rw [exec_extTimeout]
  delta execExtTimeout
  simp only [State.advance_alive, halive, Nat.not_le.mpr hcore, Nat.not_le.mpr hslot, hinv, hover, Bool.not_true, decide_false, Bool.or_self,
    Bool.false_eq_true, if_false, if_true]

/-- Settles O25: each clause is one command's outcome under the checks that its premises name, a timer's by where its latest due time lies. -/
theorem servicesComplete : Obligations.ServicesComplete := by
  refine ⟨fun s r c d v hruns hwhole hlen hargs => ⟨?missing, ?ungranted, ?quarantined, ?busy, ?starts⟩,
    fun s dt n v t camp x u halive htimer hcamp hext hruns hinterval hdue => ⟨?invokes, ?skips⟩, fun s dt core slot j halive hcore hslot => ?timeout⟩
  case' missing | ungranted | quarantined | busy | starts => have hdata := dataIn_whole s (hwhole.trans hlen.symm)
  case missing => exact fun hext => extCall_denied hruns hwhole hdata hargs (.inl hext)
  case ungranted => exact fun x hext hgrant => extCall_denied hruns hwhole hdata hargs (.inr ⟨x, hext, hgrant⟩)
  case quarantined => exact fun x e hext hgrant hentry hstate => extCall_quarantined hruns hwhole hdata hargs hext hgrant hentry hstate
  case busy => exact fun x e hext hgrant hentry hstate hroom => extCall_busy hruns hwhole hdata hargs hext hgrant hentry hstate hroom
  case starts => exact fun x e t hext hgrant hentry hstate hroom hstart => extCall_starts hruns hwhole hdata hargs hext hgrant hentry hstate hroom hstart
  case invokes =>
    intro hmay hstart
    have takes := serviceTimerDue_takes (v := v) halive htimer hcamp hext hruns hinterval hdue
    exact takes.trans (congrArg _ ((if_pos hmay).trans (congrArg (Option.getD · _) hstart)))
  case skips =>
    intro hmay
    have takes := serviceTimerDue_takes (v := v) halive htimer hcamp hext hruns hinterval hdue
    exact takes.trans (congrArg _ (if_neg (ne_true_of_eq_false hmay)))
  case timeout => exact extTimeout_cancels halive hcore hslot

end Sys2Proof.Machine
end

section
/-! PROOFS. Tasks (R232, R260, R262, R267, R268, R437) and the ends of executions (R172, R226, R231, R234, R244): one lemma for each outcome of a command. -/

namespace Sys2Proof.Machine

/-! ### The end of a task -/

/-- TASK_COMPLETE's meaning (R232). -/
theorem exec_taskComplete (s : State) (die tag m : Nat) : exec (.taskComplete die tag m) s = execTaskComplete die tag m s := rfl

/-- TASK_STOP_AT_BOUNDARY's meaning (R262). -/
theorem exec_taskStopAtBoundary (s : State) (die tag m : Nat) : exec (.taskStopAtBoundary die tag m) s = execTaskStopAtBoundary die tag m s := rfl

section TaskEnd

variable {s : State} {die tag : Nat} {t : Task} (halive : s.alive = true) (ht : s.taskAt (die * 65536 + tag) = some t) (hrunning : (s.entry die tag).state = .running)
include halive ht hrunning

/-- R232: a task that failed ends with reason 4 and its status. -/
theorem taskComplete_failed {st : Nat} (m : Nat) (hfailed : t.w.failed = some st) : exec (.taskComplete die tag m) s = .next (s.endTask die tag m 0x04 st t.w) := by
  rw [exec_taskComplete]
  delta execTaskComplete
  simp only [halive, ht, hrunning, hfailed, Bool.not_true, bne_self_eq_false, Bool.false_eq_true, if_false]

/-- R232: a task that is done sends its outputs and ends with reason 3. -/
theorem taskComplete_done (m : Nat) (hfailed : t.w.failed = none) (hdone : t.w.done = true) (hlive : t.e.cancelled = false) (hroute : t.w.route = none) :
    exec (.taskComplete die tag m) s = .next ((s.sendOutputs t.p t.w.exec t.w.frag t.w.tile t.w.out).endTask die tag m 0x03 m t.w) := by
  rw [exec_taskComplete]
  delta execTaskComplete
  simp only [halive, ht, hrunning, hfailed, hdone, hlive, hroute, Bool.not_true, bne_self_eq_false, Bool.or_self, Bool.false_eq_true, if_false]

/-- R262: a task of a cancelled execution ends with reason 5 at a boundary. -/
theorem taskStopAtBoundary_cancelled (m : Nat) (hcancelled : t.e.cancelled = true) (hfailed : t.w.failed = none) :
    exec (.taskStopAtBoundary die tag m) s = .next (s.endTask die tag m 0x05 0 t.w) := by
  rw [exec_taskStopAtBoundary]
  delta execTaskStopAtBoundary
  simp only [halive, ht, hrunning, hcancelled, hfailed, Bool.not_true, bne_self_eq_false, Option.isSome_none, Bool.or_self, Bool.false_eq_true, if_false]

end TaskEnd

/-! ### Entries and threads in time -/

/-- Time that passes leaves the entries, the threads and the registers. -/
theorem advance_entry (s : State) (dt die tag : Nat) : (s.advance dt).entry die tag = s.entry die tag := rfl
theorem advance_rg (s : State) (dt : Nat) (f : Fld) (i : Nat) : (s.advance dt).rg f i = s.rg f i := rfl
theorem advance_uctx (s : State) (dt key : Nat) : (s.advance dt).uctx key = s.uctx key := rfl
theorem advance_runningEntry (s : State) (dt key : Nat) : (s.advance dt).runningEntry key = s.runningEntry key := rfl

/-- ENTRY_FREE's meaning (R260). -/
theorem exec_entryFree (s : State) (dt die tag : Nat) : exec (.entryFree dt die tag) s = execEntryFree dt die tag s := rfl

/-- XDIE_WAIT_EXPIRY's meaning (R267). -/
theorem exec_xdieWaitExpiry (s : State) (dt die tag : Nat) : exec (.xdieWaitExpiry dt die tag) s = execXdieWaitExpiry dt die tag s := rfl

/-- QUANTUM_EXPIRY's meaning (R268, R437). -/
theorem exec_quantumExpiry (s : State) (dt core slot : Nat) : exec (.quantumExpiry dt core slot) s = execQuantumExpiry dt core slot s := rfl

/-- CANCEL_NET's meaning (R262). -/
theorem exec_cancelNet (s : State) (k : Nat) : exec (.cancelNet k) s = execCancelNet k s := rfl

section Timed

variable {s : State} {dt : Nat} (halive : s.alive = true)
include halive

/-- R260: 2 us of DRAINING (50 ticks) free an entry and advance its epoch. -/
theorem entryFree_frees {die tag : Nat} (hdraining : (s.entry die tag).state = .draining) (hdue : (s.entry die tag).since + 50 ≤ (s.advance dt).ticks) :
    exec (.entryFree dt die tag) s =
      .next ((s.advance dt).setEntry die tag { Entry.fresh with epoch := ((s.entry die tag).epoch + 1) % 16, since := (s.advance dt).ticks }) := by
  rw [exec_entryFree]
  delta execEntryFree
  simp only [State.advance_alive, advance_entry, halive, hdraining, Nat.not_lt.mpr hdue, Bool.not_true, bne_self_eq_false, decide_false, Bool.or_self,
    Bool.false_eq_true, if_false]

/-- R267: a READY entry that has waited for `xdie_wait` is selected again. -/
theorem xdieWaitExpiry_selects {die tag : Nat} (hready : (s.entry die tag).state = .ready)
    (hdue : (s.entry die tag).since + s.rg .DPT_CTL_xdie_wait die ≤ (s.advance dt).ticks) : exec (.xdieWaitExpiry dt die tag) s = .next (s.advance dt).dispatch := by
  rw [exec_xdieWaitExpiry]
  delta execXdieWaitExpiry
  simp only [State.advance_alive, advance_entry, advance_rg, halive, hready, Nat.not_lt.mpr hdue, Bool.not_true, bne_self_eq_false, decide_false, Bool.or_self,
    Bool.false_eq_true, if_false]

/-- R268, R437: a thread past its quantum yields, but not before a delay slot (R420). -/
theorem quantumExpiry_yields {core slot d t : Nat} (hcore : core < 128) (hslot : slot < 32) (hrunning : s.runningEntry (ctxKey core slot) = some (d, t))
    (hxfer : (s.uctx (ctxKey core slot)).xfer = none) (hdue : s.rg .DPT_CTL_quantum d ≤ (s.advance dt).ticks - (s.entry d t).since) :
    exec (.quantumExpiry dt core slot) s = .next (((s.advance dt).yieldThread (ctxKey core slot) (some 0)).reap (ctxKey core slot)) := by
  rw [exec_quantumExpiry]
  delta execQuantumExpiry
  simp only [State.advance_alive, advance_runningEntry, advance_uctx, advance_rg, advance_entry, halive, Nat.not_le.mpr hcore, Nat.not_le.mpr hslot, hrunning,
    hxfer, Nat.not_lt.mpr hdue, Option.isSome_none, Bool.not_true, decide_false, Bool.or_self, Bool.false_eq_true, if_false]

omit dt in
/-- R262: the cancel's walk, and what it has stopped is reaped (log 102). -/
theorem cancelNet_reaps (k : Nat) : exec (.cancelNet k) s = .next (s.cancelNet k).reapAll := by
  rw [exec_cancelNet]
  delta execCancelNet
  simp only [halive, Bool.not_true, Bool.false_eq_true, if_false]

end Timed

/-! ### Fences -/

/-- An execution marks the COMPLETE fence of a fragment as fired. -/
def State.markFired (s : State) (id f : Nat) : State := s.modExec id (fun e => e.modFrag f (fun g => { g with fired := true }))

/-- An execution marks the end of an exchange as signalled to a destination. -/
def State.markEnded (s : State) (id op dest : Nat) : State := s.modExec id (fun e => { e with ended := e.ended ++ [destKey op dest] })

/-- The edges on which the COMPLETE fence of a fragment goes out (R226). -/
def Plan.fenceEdges (p : Plan) (f : Nat) : List Edge := p.edges.filter (fun x => x.src == f && x.kind == 1 && x.fence == 0)

/-- FENCE_FIRE's meaning (R226). -/
theorem exec_fenceFire (s : State) (id f : Nat) : exec (.fenceFire id f) s = execFenceFire id f s := rfl

/-- EXCH_END_FIRE's meaning (R172). -/
theorem exec_exchEndFire (s : State) (id op dest : Nat) : exec (.exchEndFire id op dest) s = execExchEndFire id op dest s := rfl

/-- EXECUTION_COMPLETE's meaning (R231, R232). -/
theorem exec_executionComplete (s : State) (id : Nat) (chs : List (Nat × TableChoice)) : exec (.executionComplete id chs) s = execExecutionComplete id chs s := rfl

section Ends

variable {s : State} {id : Nat} {e g : Exec} {p : Plan} (halive : s.alive = true) (he : mget id s.execs = some e) (hp : s.planOf e = some p)
include halive he hp

/-- R226: the COMPLETE fence of a completed fragment whose batches are all delivered fires its slots. -/
theorem fenceFire_fires {f : Nat} (hlive : e.cancelled = false) (hsound : e.failed = none) (hcomplete : (e.frag f).complete = true) (hnew : (e.frag f).fired = false)
    (hg : mget id (s.flushFrag id f p).execs = some g) (hglive : g.cancelled = false) (hidle : g.fragIdle p f = true) :
    exec (.fenceFire id f) s = .next (((p.fenceEdges f).foldl (fun (u : State) x => u.fireSlot id p x.dst x.slot) ((s.flushFrag id f p).markFired id f)).afterFence id p) := by
  rw [exec_fenceFire]
  delta execFenceFire
  simp only [halive, he, hp, hlive, hsound, hcomplete, hnew, hg, hglive, hidle, Option.isSome_none, Bool.not_true, Bool.or_self, Bool.false_eq_true, if_false]
  rfl

/-- R226: a fence fires once. -/
theorem fenceFire_fired {f : Nat} (hfired : (e.frag f).fired = true) : exec (.fenceFire id f) s = .next s := by
  rw [exec_fenceFire]
  delta execFenceFire
  simp only [halive, he, hp, hfired, Bool.not_true, Bool.or_true, Bool.false_eq_true, if_false, if_true]

/-- R172: the end fence of an exchange reaches a destination whose batches are delivered. -/
theorem exchEndFire_reaches {op dest f : Nat} {ds : List Where} (hlive : e.cancelled = false) (hsound : e.failed = none) (hop : p.fragOf op = some f)
    (hexch : p.exchAt f = some (op, ds)) (hdest : dest < ds.length) (hcomplete : (e.frag f).complete = true) (hnew : e.ended.contains (destKey op dest) = false)
    (hg : mget id (s.flushFrag id f p).execs = some g) (hglive : g.cancelled = false) (hidle : g.destIdle op dest = true) :
    exec (.exchEndFire id op dest) s = .next (((s.flushFrag id f p).markEnded id op dest).afterFence id p) := by
  rw [exec_exchEndFire]
  delta execExchEndFire
  simp only [halive, he, hp, hlive, hsound, hop, hexch, hdest, hcomplete, hnew, hg, hglive, hidle, beq_self_eq_true, decide_true, Option.isSome_none,
    Bool.not_true, Bool.and_self, Bool.or_self, Bool.false_eq_true, if_false]
  rfl

/-! ### The end of an execution -/

/-- R232: a failed or cancelled execution whose tasks have stopped ends failed. -/
theorem executionComplete_failed (chs : List (Nat × TableChoice)) (hover : e.failed ≠ none ∨ e.cancelled = true) (hstopped : s.execStopped id = true) :
    exec (.executionComplete id chs) s = .next (s.finishFailed id e (e.failed.getD stAborted)).dispatch := by
  have ended : (e.failed.isSome || e.cancelled) = true := by
    rcases hover with h | h
    · rw [Option.isSome_iff_ne_none.mpr h]; rfl
    · rw [h]; exact Bool.or_true _
  rw [exec_executionComplete]
  delta execExecutionComplete
  simp only [halive, he, hp, ended, hstopped, Bool.not_true, Bool.false_eq_true, if_false, if_true]

/-- The end that an execution's starter asks for (R231, R244): a command's completion, a standing query's record, a call's result. -/
def State.finishRun (s : State) (id : Nat) (g : Exec) (p : Plan) (chs : List (Nat × TableChoice)) : State :=
  match g.by_ with
  | .command uid => s.finishCommand id uid g p chs
  | .standing q run => s.finishStanding id q run g p chs
  | .service core slot addr cap => s.finishService id core slot addr cap g p chs

/-- R231, R244: an execution that is neither failed nor cancelled drains its results and, once finished, ends as its starter asks. -/
theorem executionComplete_finished (chs : List (Nat × TableChoice)) (hsound : e.failed = none) (hlive : e.cancelled = false)
    (hg : mget id (s.drainResult id p).execs = some g) (hgsound : g.failed = none) (hfinished : (s.drainResult id p).execFinished id g p = true) :
    exec (.executionComplete id chs) s = .next ((s.drainResult id p).finishRun id g p chs).dispatch := by
  rw [exec_executionComplete]
  delta execExecutionComplete
  simp only [halive, he, hp, hsound, hlive, hg, hgsound, hfinished, Option.isSome_none, Bool.not_true, Bool.or_self, Bool.false_eq_true, if_false]
  delta State.finishRun
  cases g.by_ <;> rfl

end Ends

/-- Settles O27: each clause is one command's outcome under the checks that its premises name. -/
theorem tasksAndExecutionEnds : Obligations.TasksAndExecutionEnds := by
  refine ⟨⟨fun s die tag m t halive ht hrunning => ⟨?failed, ?done, ?stopped⟩, ?free, ?cancel, ?expiry, ?quantum⟩,
    fun s id e p halive he hp => ⟨?fires, ?fired, ?reaches, ?endsFailed, ?finishes⟩⟩
  case failed => exact fun st hfailed => taskComplete_failed halive ht hrunning m hfailed
  case done => exact fun hfailed hdone hlive hroute => taskComplete_done halive ht hrunning m hfailed hdone hlive hroute
  case stopped => exact fun hcancelled hfailed => taskStopAtBoundary_cancelled halive ht hrunning m hcancelled hfailed
  case free => exact fun s dt die tag halive hdraining hdue => entryFree_frees halive hdraining hdue
  case cancel => exact fun s k halive => cancelNet_reaps halive k
  case expiry => exact fun s dt die tag halive hready hdue => xdieWaitExpiry_selects halive hready hdue
  case quantum => exact fun s dt core slot d t halive hcore hslot hrunning hxfer hdue => quantumExpiry_yields halive hcore hslot hrunning hxfer hdue
  case fires => exact fun f g hlive hsound hcomplete hnew hg hglive hidle => fenceFire_fires halive he hp hlive hsound hcomplete hnew hg hglive hidle
  case fired => exact fun f hfired => fenceFire_fired halive he hp hfired
  case reaches =>
    exact fun op dest f ds g hlive hsound hop hexch hdest hcomplete hnew hg hglive hidle =>
      exchEndFire_reaches halive he hp hlive hsound hop hexch hdest hcomplete hnew hg hglive hidle
  case endsFailed => exact fun chs hover hstopped => executionComplete_failed halive he hp chs hover hstopped
  case finishes =>
    intro chs g hsound hlive hg hgsound hfinished
    refine (executionComplete_finished halive he hp chs hsound hlive hg hgsound hfinished).trans ?_
    delta State.finishRun
    cases g.by_ <;> rfl

end Sys2Proof.Machine
end

section
/-! PROOFS. Uliar firmware calls (R250, R441, R442, R480, Table 14-7): how a call returns, and one lemma for each outcome of a call. -/

namespace Sys2Proof.Machine

/-! ### The registers of a return -/

theorem UCtx.greg_setG (u : UCtx) (i n : Nat) (x : UWord) : (u.setG i x).greg n = if n = i then x else u.greg n := by
  unfold UCtx.greg UCtx.setG
  split
  next h => subst h; exact mgetD_mputD_self 0 x n u.g
  next h => exact mgetD_mputD_ne 0 x h u.g

/-- What a run of values from G2 on leaves in a register. -/
theorem UCtx.greg_foldl_setG (x : Nat → UWord) (u : UCtx) (n : Nat) : ∀ m : Nat,
    ((List.range m).foldl (fun (u : UCtx) i => u.setG (i + 2) (x i)) u).greg n = if 2 ≤ n ∧ n < m + 2 then x (n - 2) else u.greg n
  | 0 => by
    rw [if_neg (by omega)]
    rfl
  | m + 1 => by
    rw [List.range_succ, List.foldl_append, List.foldl_cons, List.foldl_nil, UCtx.greg_setG, UCtx.greg_foldl_setG x u n m]
    by_cases last : n = m + 2
    · subst last
      rw [if_pos rfl, if_pos (by omega), Nat.add_sub_cancel]
    · have range : (2 ≤ n ∧ n < m + 1 + 2) ↔ 2 ≤ n ∧ n < m + 2 := by omega
      simp only [last, range, if_false]

/-- The value that a call returns in its `i`th result register (R441): its result, or a free value behind the last one. -/
def State.retVal (s : State) (r : List Nat) (i : Nat) : UWord :=
  match r[i]? with
  | some v => BitVec.ofNat 36 v
  | none => BitVec.ofNat 36 ((Config.freeWord s.draws).toNat / 2 ^ (5 * i))

theorem retVal_of_lt (s : State) {r : List Nat} {i : Nat} (h : i < r.length) : s.retVal r i = BitVec.ofNat 36 r[i] := by
  simp only [State.retVal, List.getElem?_eq_getElem h]

/-- R441: a call returns its status in G1 and its results from G2 to G6, and leaves the other registers. -/
theorem ecallRet_greg (s : State) (u : UCtx) (st : Nat) (r : List Nat) (n : Nat) :
    (s.ecallRet u st r).2.greg n = if n = 1 then BitVec.ofNat 36 st else if 2 ≤ n ∧ n < 7 then s.retVal r (n - 2) else u.greg n :=
  (UCtx.greg_setG _ 1 n _).trans (congrArg (ite (n = 1) _) (UCtx.greg_foldl_setG (s.retVal r) u n 5))

/-! ### How a call ends -/

/-- What a call that returns comes to: its status and its results are there, and control goes on behind it. -/
def State.ecallAnswers (core slot : Nat) (v : State) (w : UCtx) (st : Nat) (r : List Nat) : Res :=
  let x := v.ecallRet w st r
  .next (x.1.stepped core slot { x.2 with pos := x.2.pos.next })

section Issued

variable {s t : State} {core slot n : Nat} {i : Instr} {u : UCtx} {bare : State → UCtx → UAns UFlow} {f : State → UCtx → Invocation → UAns UFlow}
  (h : s.issues core slot i t u) (hc : uCode i = some (core, slot, .half (encI 0x2D 0 (BitVec.ofNat 8 n)))) (hn : n ≠ 0) (h9 : n ≤ 9)
include h hc hn h9

/-- R250: a call without an invocation that asks for one is not permitted. -/
theorem ecall_notPermitted (hinv : u.inv = none) : s.uEcall core slot n noInvocation f = State.ecallAnswers core slot t u stNotPermitted [] := by
  rw [State.issues_ecall h hc hn h9, hinv]
  rfl

/-- A call that returns in its invocation. -/
theorem ecall_answers {v : Invocation} {x : State} {w : UCtx} {st : Nat} {r : List Nat} (hinv : u.inv = some v) (hf : f t u v = ecallDone x w st r) :
    s.uEcall core slot n bare f = State.ecallAnswers core slot x w st r := by
  rw [State.issues_ecall h hc hn h9, hinv]
  simp only [hf]
  rfl

/-- A call that does everything itself in its invocation. -/
theorem ecall_leaves {v : Invocation} {x : State} {w : UCtx} (hinv : u.inv = some v) (hf : f t u v = .ok x w .done) :
    s.uEcall core slot n bare f = .next ((x.retire core).reap (ctxKey core slot)) := by
  rw [State.issues_ecall h hc hn h9, hinv]
  simp only [hf]
  rfl

end Issued

/-! ### The calls -/

/-- A call's argument is its register's number. -/
theorem UCtx.arg_eq (u : UCtx) (i : Nat) : u.arg i = (u.greg i).toNat := rfl

/-- The low bits of a value. -/
theorem bits_low (v w : Nat) : bits v 0 w = v % 2 ^ w := by rw [bits, Nat.pow_zero, Nat.div_one]

section Calls

variable {s t : State} {core slot : Nat} {u : UCtx}

/-- DEVTIME answers DEVTIME's low 36 and high 28 bits, with an invocation or without. -/
theorem ecallDevtime_answers (h : s.issues core slot (.ecallDevtime core slot) t u) :
    exec (.ecallDevtime core slot) s = State.ecallAnswers core slot t u 0 [t.devtime.toNat % 2 ^ 36, t.devtime.toNat / 2 ^ 36 % 2 ^ 28] := by
  refine (State.issues_ecall (n := 8) h rfl (by decide) (by decide)).trans ?_
  rw [← bits_low]
  cases u.inv <;> rfl

variable {v : Invocation} (hinv : u.inv = some v)
include hinv

section Exit

variable (h : s.issues core slot (.ecallExit core slot) t u)
include h

/-- R441: EXIT with a result longer than 65,536 bytes ends the invocation with a fault. -/
theorem ecallExit_long (hlong : 65536 < (u.greg 2).toNat) :
    exec (.ecallExit core slot) s = .next ((((t.setU (ctxKey core slot) u).endInvocation (ctxKey core slot) stExtFault []).retire core).reap (ctxKey core slot)) :=
  ecall_leaves (n := 1) h rfl (by decide) (by decide) hinv (w := u) (by simp only [UCtx.arg_eq, hlong, if_true])

/-- R441: EXIT ends the invocation with its status (log 81) and its result. -/
theorem ecallExit_ends {b : Bytes} (hlen : (u.greg 2).toNat ≤ 65536) (hread : (t.setU (ctxKey core slot) u).ecallRead core u (5 * 2 ^ 32) (u.greg 2).toNat = .ok b) :
    exec (.ecallExit core slot) s =
      .next ((((t.setU (ctxKey core slot) u).endInvocation (ctxKey core slot) ((u.greg 1).toNat % 2 ^ 14) b).retire core).reap (ctxKey core slot)) :=
  ecall_leaves (n := 1) h rfl (by decide) (by decide) hinv (w := u) (by simp only [UCtx.arg_eq, Nat.not_lt.mpr hlen, hread, if_false])

end Exit

/-- R441, R221: PLAN_LOAD of an image that is stored answers the plan's handle. -/
theorem ecallPlanLoad_loads {da n w p : Nat} {hd b : Bytes} {x : State} (h : s.issues core slot (.ecallPlanLoad core slot da) t u) (hlen : 8 ≤ (u.greg 2).toNat)
    (hhead : t.ecallRead core u (u.greg 1).toNat 8 = .ok hd) (himage : imageLen hd = some n) (hdecl : ecallLen (u.greg 2).toNat n = .ok w)
    (hread : t.ecallRead core u (u.greg 1).toNat n = .ok b) (hload : t.loadPlan v.camp b da = .ok (x, p)) :
    exec (.ecallPlanLoad core slot da) s = State.ecallAnswers core slot x u w [p] :=
  ecall_answers (n := 2) h rfl (by decide) (by decide) hinv
    (by simp only [UCtx.arg_eq, Nat.not_lt.mpr hlen, hhead, himage, hdecl, hread, hload, if_false])

/-- R441, R239: PLAN_DROP answers the status of a drop. -/
theorem ecallPlanDrop_answers (h : s.issues core slot (.ecallPlanDrop core slot) t u) :
    let r := t.doPlanDrop v.camp (u.greg 1).toNat
    exec (.ecallPlanDrop core slot) s = State.ecallAnswers core slot r.2 u r.1 [] :=
  ecall_answers (n := 3) h rfl (by decide) (by decide) hinv rfl

/-- R441, R224: EXECUTE of a block that passes every step answers the execution's number, which the invocation keeps. -/
theorem ecallExecute_starts {w id : Nat} {homes : List Nat} {hd b : Bytes} {ps : Nat} {q : PlanSlot} {p : Plan} {m : Map Bound} {x : State}
    (h : s.issues core slot (.ecallExecute core slot homes) t u) (hlen : 8 ≤ (u.greg 3).toNat) (hhead : t.ecallRead core u (u.greg 2).toNat 8 = .ok hd)
    (hdecl : ecallLen (u.greg 3).toNat (word32 hd 1) = .ok w) (hlegal : blockHeadOk hd = true) (hresult : u.resultOk (u.greg 4).toNat (u.greg 5).toNat = true)
    (hread : t.ecallRead core u (u.greg 2).toNat (word32 hd 1) = .ok b) (hbind : t.bindPlan v.camp (u.greg 1).toNat b = .ok (ps, q, p, m)) (hplan : t.planLost ps q = none)
    (htables : t.tablesLost v.camp p m = none)
    (hstart : t.startRun v.camp ps p m (.service core slot (u.greg 4).toNat (u.greg 5).toNat) 0 0xFFFF false homes = .ok (x, id)) :
    exec (.ecallExecute core slot homes) s = State.ecallAnswers core slot x.dispatch { u with inv := some { v with execs := v.execs ++ [id] } } w [id] :=
  ecall_answers (n := 4) h rfl (by decide) (by decide) hinv
    (by simp only [UCtx.arg_eq, Nat.not_lt.mpr hlen, hhead, hdecl, hlegal, hresult, hread, hbind, hplan, htables, hstart, Option.none_or, Bool.not_true, Bool.or_self,
      Bool.false_eq_true, if_false])

section ExecWait

variable (h : s.issues core slot (.ecallExecWait core slot) t u)
include h

/-- EXEC_WAIT for an execution that is not the invocation's is refused. -/
theorem ecallExecWait_foreign (hid : (u.greg 1).toNat ∉ v.execs) : exec (.ecallExecWait core slot) s = State.ecallAnswers core slot t u stInvalidField [] :=
  ecall_answers (n := 5) h rfl (by decide) (by decide) hinv (by
    have foreign : v.execs.contains (u.greg 1).toNat = false := by simpa using hid
    simp only [UCtx.arg_eq, foreign, Bool.not_false, if_true])

variable (hid : (u.greg 1).toNat ∈ v.execs)
include hid

/-- EXEC_WAIT for an execution that has ended answers its result, once. -/
theorem ecallExecWait_ended {r : ExecResult} (hresult : mget (u.greg 1).toNat t.ulr.results = some r) :
    exec (.ecallExecWait core slot) s = State.ecallAnswers core slot { t with ulr := { t.ulr with results := mdel (u.greg 1).toNat t.ulr.results } }
      (u.dropExec (u.greg 1).toNat) r.status [min r.dropped (2 ^ 36 - 1), r.handle, r.bytes] :=
  ecall_answers (n := 5) h rfl (by decide) (by decide) hinv (by
    have own : v.execs.contains (u.greg 1).toNat = true := by simpa using hid
    simp only [UCtx.arg_eq, own, hresult, Bool.not_true, Bool.false_eq_true, if_false])

/-- R441: EXEC_WAIT for an execution in progress leaves the thread's entry WAITING. -/
theorem ecallExecWait_parks (hresult : mget (u.greg 1).toNat t.ulr.results = none) :
    let x := t.ecallRet u 0 []
    exec (.ecallExecWait core slot) s = .next ((((x.1.setU (ctxKey core slot) { x.2 with pos := x.2.pos.next, awaits := some (.exec (u.greg 1).toNat) }).parkThread
      (ctxKey core slot)).retire core).reap (ctxKey core slot)) :=
  ecall_leaves (n := 5) h rfl (by decide) (by decide) hinv (w := (t.ecallRet u 0 []).2) (by
    have own : v.execs.contains (u.greg 1).toNat = true := by simpa using hid
    simp only [UCtx.arg_eq, own, hresult, Bool.not_true, Bool.false_eq_true, if_false])

end ExecWait

/-- R480: DIGEST that goes on with the invocation's own context appends the bytes. -/
theorem ecallDigest_updates {b : Bytes} {k : Nat} (h : s.issues core slot (.ecallDigest core slot) t u) (hform : (u.greg 1).toNat < 2 ^ 11) (halg : (u.greg 1).toNat % 4 ≠ 3)
    (hread : t.ecallRead core u (u.greg 3).toNat (u.greg 4).toNat = .ok b) (hk : k = 16 * engineOf core + (u.greg 2).toNat % 16) (hstep : (u.greg 1).toNat / 512 % 4 = 2)
    (howner : (t.dctx k).owner = .thread core slot) (hcamp : t.rg .DGE_CTL_camp k = v.camp) (hstate : t.rg .DGE_STAT_state k = 2)
    (hgen : (t.dctx k).gen = (u.greg 2).toNat / 16 % 16) (hfinish : (t.dctx k).finish = false) :
    exec (.ecallDigest core slot) s = State.ecallAnswers core slot (t.digestData k b) u 0 [0] :=
  ecall_answers (n := 6) h rfl (by decide) (by decide) hinv (by
    have form : (u.greg 1).toNat / 2 ^ 11 = 0 := Nat.div_eq_of_lt hform
    have step : bits (u.greg 1).toNat 9 2 = 2 := hstep
    have gen : bits (u.greg 2).toNat 4 4 = (t.dctx k).gen := hgen.symm
    have place : 16 * engineOf core + (u.greg 2).toNat % 2 ^ 4 = k := hk.symm
    have alg : ((u.greg 1).toNat % 2 ^ 2 = 3) = False := eq_false halg
    simp only [UCtx.arg_eq, form, bits_low, alg, hread, place, howner, hcamp, hstate, gen, hfinish, step, bne_self_eq_false, beq_self_eq_true, decide_false, decide_true, le_refl, Bool.not_false,
      Bool.not_true, Bool.and_self, Bool.or_self, Bool.false_eq_true, if_false, if_true])

/-- R441, R246: RETAIN leaves a record of the invocation, or is counted lost where it does not fit. -/
theorem ecallRetain_answers {b : Bytes} (h : s.issues core slot (.ecallRetain core slot) t u)
    (hread : t.ecallRead core u (u.greg 2).toNat (min (u.greg 3).toNat (t.storeCapacity v.camp + 1)) = .ok b) :
    let r : Record := ⟨0, v.service, true, v.number, (u.greg 1).toNat % 2 ^ 14, v.start, t.devtime, 0, 0, 0, if b.isEmpty then [] else [⟨b, 0, false⟩]⟩
    exec (.ecallRetain core slot) s = if t.storeFree v.camp < r.size then State.ecallAnswers core slot (t.loseRecord v.camp) u stRetainFull []
      else State.ecallAnswers core slot (t.addRecord v.camp r) u 0 [(mgetD Store.empty v.camp t.records).next] := by
  intro r
  split
  next hfull => exact ecall_answers (n := 7) h rfl (by decide) (by decide) hinv (by simp only [UCtx.arg_eq, hread]; exact if_pos hfull)
  next hroom => exact ecall_answers (n := 7) h rfl (by decide) (by decide) hinv (by simp only [UCtx.arg_eq, hread]; exact if_neg hroom)

section Handler

variable (h : s.issues core slot (.ecallHandler core slot) t u)
include h

/-- R442: HANDLER sets the invocation's handler: none, or an address that its code aperture grants. -/
theorem ecallHandler_sets (hok : (u.greg 1).toNat = 0 ∨ (u.greg 1).toNat < 2 ^ 32 ∧ ∃ p, u.aperture (u.greg 1).toNat 9 .fetch false = .ok p) :
    exec (.ecallHandler core slot) s = State.ecallAnswers core slot t { u with inv := some { v with handler := (u.greg 1).toNat } } 0 [] :=
  ecall_answers (n := 9) h rfl (by decide) (by decide) hinv (by
    obtain hnone | ⟨hlow, p, hgranted⟩ := hok
    · simp only [UCtx.arg_eq, hnone, beq_self_eq_true, Bool.true_or, if_true]
    · simp only [UCtx.arg_eq, hgranted, Nat.div_eq_of_lt hlow, beq_self_eq_true, Bool.and_self, Bool.or_true, if_true])

/-- R442: an address beyond the code aperture is no handler. -/
theorem ecallHandler_high (hhigh : 2 ^ 32 ≤ (u.greg 1).toNat) : exec (.ecallHandler core slot) s = State.ecallAnswers core slot t u stInvalidField [] :=
  ecall_answers (n := 9) h rfl (by decide) (by decide) hinv (by
    have nonzero : (u.greg 1).toNat ≠ 0 := by omega
    have beyond : (u.greg 1).toNat / 2 ^ 32 ≠ 0 := by omega
    simp only [UCtx.arg_eq, beq_eq_false_iff_ne.mpr nonzero, beq_eq_false_iff_ne.mpr beyond, Bool.false_and, Bool.or_self, Bool.false_eq_true, if_false])

end Handler

end Calls

/-- Settles O56: the registers of a return, and each call's outcome under the checks that its premises name. -/
theorem uliarCalls : Obligations.UliarCalls := by
  refine ⟨fun s u st r hr => ⟨?status, ?results, ?others, rfl, rfl, rfl, rfl⟩, fun s core slot t u => ⟨fun da homes hinv i hi h => ?bare, ecallDevtime_answers, fun v hinv =>
    ⟨fun h => ⟨ecallExit_long hinv h, fun b hlen hread => ecallExit_ends hinv h hlen hread⟩, ?load, ecallPlanDrop_answers hinv, ?execute, fun h => ⟨?foreign, ?ended, ?parks⟩,
      ?digest, ?retain, fun h => ⟨?none, ?granted, ecallHandler_high hinv h⟩⟩⟩⟩
  case status => exact ecallRet_greg s u st r 1
  case results =>
    intro i hi
    rw [ecallRet_greg, if_neg (by omega), if_pos (by omega), Nat.add_sub_cancel, retVal_of_lt s hi]
  case others =>
    intro n hn
    rw [ecallRet_greg, if_neg (by omega), if_neg (by omega)]
  case bare =>
    simp only [List.mem_cons, List.not_mem_nil, or_false] at hi
    obtain rfl | rfl | rfl | rfl | rfl | rfl | rfl := hi
    · exact ecall_notPermitted (n := 2) h rfl (by decide) (by decide) hinv
    · exact ecall_notPermitted (n := 3) h rfl (by decide) (by decide) hinv
    · exact ecall_notPermitted (n := 4) h rfl (by decide) (by decide) hinv
    · exact ecall_notPermitted (n := 5) h rfl (by decide) (by decide) hinv
    · exact ecall_notPermitted (n := 6) h rfl (by decide) (by decide) hinv
    · exact ecall_notPermitted (n := 7) h rfl (by decide) (by decide) hinv
    · exact ecall_notPermitted (n := 9) h rfl (by decide) (by decide) hinv
  case load => exact fun da h hd n w b x p hlen hhead himage hdecl hread hload => ecallPlanLoad_loads hinv h hlen hhead himage hdecl hread hload
  case execute =>
    exact fun homes h hd w b ps q p m x id hlen hhead hdecl hlegal hresult hread hbind hplan htables hstart =>
      ecallExecute_starts hinv h hlen hhead hdecl hlegal hresult hread hbind hplan htables hstart
  case foreign => exact ecallExecWait_foreign hinv h
  case ended => exact fun r hid hresult => ecallExecWait_ended hinv h hid hresult
  case parks => exact fun hid hresult => ecallExecWait_parks hinv h hid hresult
  case digest =>
    exact fun h b k hform halg hread hk hstep howner hcamp hstate hgen hfinish => ecallDigest_updates hinv h hform halg hread hk hstep howner hcamp hstate hgen hfinish
  case retain => exact fun h b hread => ecallRetain_answers hinv h hread
  case none =>
    intro ha
    have sets := ecallHandler_sets hinv h (.inl ha)
    rwa [ha] at sets
  case granted => exact fun p hnonzero hlow hgranted => ecallHandler_sets hinv h (.inr ⟨hlow, p, hgranted⟩)

end Sys2Proof.Machine
end

section
/-! PROOFS. The Camp commands (R269, R313, R363, R364): one lemma for each outcome of a command. -/

namespace Sys2Proof.Machine

section CampCommands

variable {s : State} {r : CmdRef} {c : Cmd}

/-- The Camp IDs that CAMP_CREATE may take (R363). -/
def State.freeCampIds (s : State) : List Nat := ((List.range 1023).map (· + 1)).filter (fun k => s.campState k == .free)

/-- A free tenant ID is one of the candidates. -/
theorem mem_freeCampIds {id : Nat} (hlow : 1 ≤ id) (hhigh : id < 1024) (hfree : s.campState id = .free) : id ∈ s.freeCampIds :=
  List.mem_filter.mpr ⟨List.mem_map.mpr ⟨id - 1, List.mem_range.mpr (by omega), Nat.sub_add_cancel hlow⟩, beq_iff_eq.mpr hfree⟩

/-- R363: with a descriptor in range, a free ID and room for the reservation, the key's unwrapping decides. -/
theorem campCreate_unwraps {d : Bytes} {id root units : Nat} (es : List (Nat × BitVec 64)) (hruns : s.runs r 0x10 c) (hadmin : c.ref.sq = 0) (havail : c.avail = 224)
    (hlen : d.length = 224) (hfields : descFieldsOk d = true) (hmoraine : descMoraineOk (s.farBytes != 0) d = true) (hblob : blobOk (bslice d 128 96) = true)
    (hlow : 1 ≤ id) (hhigh : id < 1024) (hfree : s.campState id = .free) (hfits : s.fits d = true) (hunits : units ≤ word32 d 3) :
    exec (.campCreate r d id root units es) s = .next (match s.unwrap (bslice d 128 96) c.ref.fn none [] 1 with
      | some key => ((s.putEntries es).createCamp id 1 d key none root units).completeCmd c c.okStatus id
      | none => s.failCmd c stAuthFailed) := by
  have hid := mem_freeCampIds hlow hhigh hfree
  have hsome : s.freeCampIds.isEmpty = false := List.isEmpty_eq_false_iff.mpr (List.ne_nil_of_mem hid)
  have hcontains : s.freeCampIds.contains id = true := List.contains_iff_mem.mpr hid
  unfold State.freeCampIds at hsome hcontains
  refine (withCmd_runs hruns _).trans (congrArg _ ?_)
  delta State.doCampCreate
  simp only [dataIn_admin s c d hadmin (hlen.trans havail.symm).le, wholeLen_exact havail, hfields, hmoraine, hblob, hsome, hcontains, hfits, Nat.not_lt.mpr hunits,
    Bool.not_true, decide_false, Bool.or_self, Bool.false_eq_true, if_false]
  cases s.unwrap (bslice d 128 96) c.ref.fn none [] 1 <;> rfl

/-- R363: a tenant Camp goes into TEARDOWN, and CAMP_DESTROY waits for it. -/
theorem campDestroy_waits (hruns : s.runs r 0x11 c) (hcamp : bits (c.w 9) 0 10 ≠ 0) (htenant : s.campKind (bits (c.w 9) 0 10) = 1)
    (hstate : s.campState (bits (c.w 9) 0 10) ≠ .teardown) :
    exec (.campDestroy r) s = .next ((s.startTeardown (bits (c.w 9) 0 10)).modCmd c.uid (fun x => { x with wait := .teardown (bits (c.w 9) 0 10) })) := by
  refine (withCmd_runs hruns _).trans (congrArg _ ?_)
  delta State.doCampDestroy
  simp only [hcamp, htenant, beq_eq_false_iff_ne.mpr hstate, bne_self_eq_false, decide_false, Bool.or_self, Bool.false_eq_true, if_false]

/-- TEARDOWN_COMPLETE's meaning (R363). -/
theorem exec_teardownComplete (s : State) (camp : Nat) : exec (.teardownComplete camp) s = execTeardownComplete camp s := rfl

/-- R363: an idle Camp in TEARDOWN is freed, and what waited for that completes. -/
theorem teardownComplete_frees {camp : Nat} (halive : s.alive = true) (hstate : s.campState camp = .teardown) (hidle : s.campIdle camp = true) :
    exec (.teardownComplete camp) s = .next (((s.freeCamp camp).host.cmds.filter (fun x => x.wait == .teardown camp)).foldl
      (fun t x => t.completeCmd x x.okStatus 0) (s.freeCamp camp)) := by
  rw [exec_teardownComplete]
  delta execTeardownComplete
  simp only [halive, hstate, hidle, Bool.not_true, bne_self_eq_false, Bool.or_self, Bool.false_eq_true, if_false]

/-- The components that CAMP_RATION selects (R363). -/
def Cmd.rationKs (c : Cmd) : List Nat := (List.range 6).filter (fun k => bits (c.w 10) k 1 == 1)

/-- The amounts of the components `ks` wait for the next period boundary (R363). -/
def State.keepRations (s : State) (camp : Nat) (d : Bytes) (ks : List Nat) : State :=
  { s with rationNext := ks.foldl (fun m k => mput (8 * camp + k) (word64 d (2 * k)) m) s.rationNext }

/-- R363: amounts in range are kept for the next boundary, those of the selected components alone. -/
theorem campRation_keeps {d : Bytes} (hruns : s.runs r 0x12 c) (hadmin : c.ref.sq = 0) (havail : c.avail = 48) (hlen : d.length = 48) (hcamp : bits (c.w 9) 0 10 ≠ 0)
    (hamounts : ∀ k < 6, 0 < word64 d (2 * k) ∧ word64 d (2 * k) < 2 ^ 40) :
    exec (.campRation r d) s = .next ((s.keepRations (bits (c.w 9) 0 10) d c.rationKs).completeCmd c c.okStatus 0) := by
  have hpositive : c.rationKs.any (fun k => word64 d (2 * k) == 0) = false :=
    List.any_eq_false.mpr fun k hk => by
      have := (hamounts k (List.mem_range.mp (List.mem_of_mem_filter hk))).1
      simp only [beq_iff_eq]
      omega
  have hbelow : (List.range 6).any (fun k => decide (2 ^ 40 ≤ word64 d (2 * k))) = false :=
    List.any_eq_false.mpr fun k hk => by simpa only [decide_eq_true_eq, Nat.not_le] using (hamounts k (List.mem_range.mp hk)).2
  unfold Cmd.rationKs at hpositive
  refine (withCmd_runs hruns _).trans (congrArg _ ?_)
  delta State.doCampRation
  simp only [dataIn_admin s c d hadmin (hlen.trans havail.symm).le, wholeLen_exact havail, hcamp, hpositive, hbelow, decide_false, Bool.or_self, Bool.false_eq_true, if_false]
  rfl

/-- R364: KEY_LOAD with the free bit zeroes a slot that its Camp owns. -/
theorem keyLoad_frees (d : Bytes) (hruns : s.runs r 0x15 c) (hfree : bits (c.w 10) 5 1 = 1) (howns : s.ownsSlot (bits (c.w 9) 0 10) (bits (c.w 10) 0 5) = true) :
    exec (.keyLoad r d) s = .next ((s.zeroSlot (bits (c.w 10) 0 5)).completeCmd c c.okStatus (bits (c.w 10) 0 5)) := by
  refine (withCmd_runs hruns _).trans (congrArg _ ?_)
  delta State.doKeyLoad
  simp only [hfree, howns, if_true]

end CampCommands

/-- Settles O12: each clause is one command's outcome under the checks that its premises name. -/
theorem campCommandsComplete : Obligations.CampCommandsComplete := by
  refine fun s r c d => ⟨?create, campDestroy_waits, ?freed, ?ration, keyLoad_frees d⟩
  case create =>
    exact fun id root units es hruns hadmin havail hlen hfields hmoraine hblob hlow hhigh hfree hfits hunits =>
      campCreate_unwraps es hruns hadmin havail hlen hfields hmoraine hblob hlow hhigh hfree hfits hunits
  case freed => exact fun camp halive hstate hidle => teardownComplete_frees halive hstate hidle
  case ration => exact fun hruns hadmin havail hlen hcamp hamounts => campRation_keeps hruns hadmin havail hlen hcamp hamounts

end Sys2Proof.Machine
end

section
/-! PROOFS. Rations (R270 to R272, R290, R363): a period's boundary, a component's renewal, and the end of a Camp's tile-time. -/

namespace Sys2Proof.Machine

/-! ### The period's boundary -/

/-- What the dies hold back for a Ration or for energy counts anew (R290). -/
def State.forgetHeld (s : State) : State := [0, 1].foldl (fun (s : State) d => s.setDie d { s.die d with heldRation := [], heldEnergy := [] }) s

/-- Every component of the Camps `cs` is renewed, and no amount waits any longer (R270, R363). -/
def State.renewRations (s : State) (cs : List Nat) : State :=
  { cs.foldl (fun (s : State) c => (List.range 6).foldl (fun (s : State) k => s.renewRation c k) s) s with rationNext := [] }

/-- Both dies record the period of the Camps `cs` (R290). -/
def State.recordPeriod (s : State) (cs : List Nat) : State :=
  cs.foldl (fun (s : State) c => [0, 1].foldl (fun (s : State) d => s.trace d ⟨0, 0, c, 0, 0, 0, 0x0B, 0, s.debt c, 0⟩) s) s

/-- RATION_PERIOD's meaning (R270). -/
theorem exec_rationPeriod (s : State) (dt : Nat) : exec (.rationPeriod dt) s = execRationPeriod dt s := rfl

/-- Time that passes leaves the period's length. -/
theorem advance_periodTicks (s : State) (dt : Nat) : (s.advance dt).periodTicks = s.periodTicks := rfl

/-- R270, R271, R290: at a whole multiple of the period every component is renewed and recorded, and the dies dispatch. -/
theorem rationPeriod_renews {s : State} {dt : Nat} (halive : s.alive = true) (hmode : s.mode ≠ .boot)
    (hboundary : ((s.advance dt).ticks - s.power.bootEnd) % s.periodTicks = 0) :
    exec (.rationPeriod dt) s =
      .next ((((s.advance dt).forgetHeld.renewRations (s.camps.map (·.1))).recordPeriod (s.camps.map (·.1))).dispatch) := by
  rw [exec_rationPeriod]
  delta execRationPeriod
  simp only [State.advance_alive, State.advance_mode, State.advance_power, advance_periodTicks, halive, beq_eq_false_iff_ne.mpr hmode, hboundary, Bool.not_true,
    bne_self_eq_false, Bool.or_self, Bool.false_eq_true, if_false]
  rfl

/-! ### Renewal of a component -/

/-- A component's new amount and the remainder that it starts the period with (R271). -/
def State.refillRation (s : State) (c k a : Nat) : State :=
  (s.rs .CPM_RATION_amount (8 * c + k) a).rs .CPM_REMAIN_remain (8 * c + k) (ofInt 42 ((a : Int) + min (s.remain c k) 0))

section Renewal

variable {s : State} {c k a : Nat}

theorem refillRation_remain :
    (s.refillRation c k a).rg .CPM_REMAIN_remain (8 * c + k) = ofInt 42 ((a : Int) + min (s.remain c k) 0) % 2 ^ 42 :=
  State.rg_rs _ _ _ _ (by decide)

/-- An amount below the unlimited one is read back whole. -/
theorem rs_amount_rg (ha : a < unlimited) : (s.rs .CPM_RATION_amount (8 * c + k) a).rg .CPM_RATION_amount (8 * c + k) = a :=
  (State.rg_rs _ _ _ _ (by decide)).trans (Nat.mod_eq_of_lt (ha.trans (by decide)))

variable (hc : c < 1024) (hk : k < 6)
include hc hk

/-- A write of the amount leaves the remainder. -/
theorem rs_amount_remain : (s.rs .CPM_RATION_amount (8 * c + k) a).remain c k = s.remain c k :=
  congrArg (sInt 42) (State.rg_rs_ne _ _ _ _ (by omega) (by omega) (.inl (by decide)))

variable (ha : a < unlimited)
include ha

theorem refillRation_amount : (s.refillRation c k a).rg .CPM_RATION_amount (8 * c + k) = a :=
  (State.rg_rs_ne _ _ _ _ (by omega) (by omega) (.inl (by decide))).trans (rs_amount_rg ha)

/-- R271, R363: a component with an amount that waits is refilled with it, and is exhausted where its debt is not covered. -/
theorem renewRation_refills (hwaits : mget (8 * c + k) s.rationNext = some a) :
    s.renewRation c k = (s.refillRation c k a).setExhausted c k (decide ((a : Int) + min (s.remain c k) 0 ≤ 0)) := by
  delta State.renewRation
  simp only [hwaits, rs_amount_rg ha, rs_amount_remain hc hk, ha.ne, if_false]
  rfl

end Renewal

/-! ### Exhaustion -/

/-- RATION_EXHAUSTED's meaning (R272). -/
theorem exec_rationExhausted (s : State) (dt camp k : Nat) : exec (.rationExhausted dt camp k) s = execRationExhausted dt camp k s := rfl

/-- A Camp's running threads are charged for the tile-time they have used (R272). -/
def State.chargeThreads (s : State) (camp : Nat) : State := (s.campThreads camp).foldl State.chargeThread s

/-- R272: the Camp's threads are charged, and where that leaves no tile-time they yield. -/
theorem rationExhausted_stops {s : State} {dt camp : Nat} (halive : s.alive = true) (hcamp : camp < 1024) :
    exec (.rationExhausted dt camp 0) s = .next (if ((s.advance dt).chargeThreads camp).isExhausted camp 0 then
      ((s.advance dt).campThreads camp).foldl (fun (s : State) key => s.yieldThread key (some 1)) ((s.advance dt).chargeThreads camp)
      else (s.advance dt).chargeThreads camp) := by
  rw [exec_rationExhausted]
  delta execRationExhausted State.chargeThreads
  simp only [State.advance_alive, halive, Nat.not_le.mpr hcamp, Nat.not_le.mpr (Nat.succ_pos 5), Bool.not_true, bne_self_eq_false, Bool.false_or, decide_false,
    Bool.false_eq_true, if_false]
  cases (((s.advance dt).campThreads camp).foldl State.chargeThread (s.advance dt)).isExhausted camp 0 <;> rfl

/-- Settles O28: the boundary and the exhaustion are one command each, the renewal is read off the registers that it writes. -/
theorem rationRows : Obligations.RationRows := by
  refine ⟨fun s dt halive hmode hboundary => rationPeriod_renews halive hmode hboundary, fun s c k a hc hk hwaits ha => ?renewal,
    fun s dt camp halive hcamp => rationExhausted_stops halive hcamp⟩
  case renewal =>
    exact ⟨s.refillRation c k a, renewRation_refills hc hk ha hwaits, refillRation_amount hc hk ha, refillRation_remain, rfl, rfl, rfl⟩

end Sys2Proof.Machine
end

section
/-! PROOFS. Tokens (R256 to R260, R262): what a trace record leaves of the tokens on their way, and one lemma for each outcome of a command. -/

namespace Sys2Proof.Machine

/-! ### Completions, faults and trace records leave the run's state

A trace record goes through its Camp's tables, and a fault there may halt the device or quarantine the Camp. -/

section RunFrame

variable (s : State)

@[simp] theorem State.retain_run (c : Nat) (e : Cqe) : (s.retain c e).run = s.run := by
  unfold State.retain
  dsimp only
  split
  · rfl
  · exact State.ra_run ..

@[simp] theorem State.handOver_run (c : Cmd) (status result : Nat) : (s.handOver c status result).run = s.run := by
  unfold State.handOver
  dsimp only
  split
  · rfl
  · split
    · split
      · rfl
      · rw [State.retain_run]
    · rfl

@[simp] theorem settle_run (n : Nat) (s : State) : (settle n s).run = s.run := by
  induction n generalizing s with
  | zero => rfl
  | succ n ih =>
    unfold settle
    split
    · rw [ih, State.handOver_run]
    · rfl

@[simp] theorem State.completeCmd_run (c : Cmd) (status result : Nat) : (s.completeCmd c status result).run = s.run := by
  simp only [State.completeCmd, settle_run, State.handOver_run]

@[simp] theorem State.dgeRelease_run (k : Nat) : (s.dgeRelease k).run = s.run := by
  unfold State.dgeRelease
  split
  · rfl
  · rw [State.rs_run, State.rs_run]

@[simp] theorem State.failExec_run (id status : Nat) : (s.failExec id status).run = s.run := rfl

@[simp] theorem State.cancelCmd_run (c : Cmd) (status : Nat) (force : Bool) : (s.cancelCmd c status force).run = s.run := by
  unfold State.cancelCmd
  cases c.wait
  case exec => rfl
  case teardown => rfl
  case drain => rfl
  case digest => exact (State.completeCmd_run ..).trans (State.dgeRelease_run ..)
  all_goals exact State.completeCmd_run ..

@[simp] theorem State.cancelAll_run (cs : List Cmd) (status : Nat) : (s.cancelAll cs status).run = s.run := by
  unfold State.cancelAll
  induction cs generalizing s with
  | nil => rfl
  | cons c cs ih =>
    rw [List.foldl_cons, ih]
    split
    · rw [State.cancelCmd_run]
    · rfl

@[simp] theorem State.quarantine_run (c cause : Nat) : (s.quarantine c cause).run = s.run := by
  unfold State.quarantine
  dsimp only
  split
  · rfl
  · rw [State.cancelAll_run, State.rs_run]
    split
    · rw [State.rs_run, State.logErr_run, State.countErr_run, State.rs_run]
    · rw [State.logErr_run, State.countErr_run, State.rs_run]

@[simp] theorem State.violation_run (c : Nat) : (s.violation c).run = s.run := by
  unfold State.violation
  dsimp only
  split
  · rw [State.quarantine_run, State.ra_run]
  · rfl

@[simp] theorem State.halt_run (cause unit inst camp addr : Nat) : (s.halt cause unit inst camp addr).run = s.run := by
  by_cases halive : s.alive = true
  · obtain ⟨r, l, o, h⟩ := halt_eq s cause unit inst camp addr halive
    rw [h]
  · unfold State.halt
    simp only [halive, Bool.not_false, if_true]

@[simp] theorem State.latchXlt_run (inst camp v kind : Nat) : (s.latchXlt inst camp v kind).run = s.run := by
  unfold State.latchXlt
  dsimp only
  split
  · rw [State.event_run]
  · rw [State.rs_run, State.rs_run, State.rs_run, State.rs_run, State.event_run]

/-- What a translation fault does to its Camp, by the fault's kind. -/
theorem blame_run (camp kind : Nat) :
    (if kind = xCampMismatch then s.violation camp else if kind = xPoisoned then s.quarantine camp 3 else s).run = s.run := by
  split
  · exact State.violation_run ..
  · split
    · exact State.quarantine_run ..
    · rfl

@[simp] theorem State.xltFault_run (inst camp v kind : Nat) (e : Option Nat) : (s.xltFault inst camp v kind e).run = s.run := by
  unfold State.xltFault
  dsimp only
  split
  · rw [State.halt_run, State.latchXlt_run]
  · rw [blame_run]
    cases e <;> simp only [State.failExec_run, State.logErr_run, State.countErr_run, State.latchXlt_run]

@[simp] theorem dmaDevWrite_run (camp fuel v : Nat) (b : Bytes) (s : State) : (dmaDevWrite camp fuel v b s).1.run = s.run := by
  induction fuel generalizing v b s with
  | zero => rfl
  | succ fuel ih =>
    unfold dmaDevWrite
    split
    · rfl
    · split
      · simp only [State.xltFault_run]
      · dsimp only
        rw [ih, State.chargeDev_run, State.memPut_run]

@[simp] theorem State.viewPut_run (inst camp v : Nat) (b : Bytes) : (s.viewPut inst camp v b).1.run = s.run := by
  rw [← dmaDevWrite_run camp (b.length + 1) v b s, State.viewPut]

@[simp] theorem State.traceRoot_run (die : Nat) (t : Trace) : (s.traceRoot die t).run = s.run := by
  obtain ⟨m, q, h⟩ := traceRoot_eq s die t
  rw [h]

@[simp] theorem State.traceCamp_run (die : Nat) (t : Trace) : (s.traceCamp die t).run = s.run := by
  unfold State.traceCamp
  dsimp only
  split
  · rfl
  · exact State.viewPut_run ..

@[simp] theorem State.trace_run (die : Nat) (t : Trace) : (s.trace die t).run = s.run := by
  rw [State.trace, State.traceCamp_run, State.traceRoot_run]

end RunFrame

/-! ### Headers -/

/-- TOKEN_HEADER's meaning (R256, R259). -/
theorem exec_tokenHeader (s : State) (n tag da : Nat) : exec (.tokenHeader n tag da) s = execTokenHeader n tag da s := rfl

/-- A header joins the end of a lane. -/
def State.enqueue (s : State) (n key : Nat) (k : NetTok) : State :=
  { s with run := { s.run with net := mput n { k with queued := true } s.run.net, overflow := mput key (mgetD [] key s.run.overflow ++ [n]) s.run.overflow } }

section Header

variable {s : State} {n tag : Nat} {k : NetTok} {e : Exec} (da : Nat) (halive : s.alive = true) (htag : tag < 65536) (hk : mget n s.run.net = some k)
  (hheader : k.entry = none) (hnew : k.queued = false) (he : mget k.exec s.execs = some e)
include halive htag hk hheader hnew he

/-- R262: a cancelled execution's header is refused, and its task is lost. -/
theorem tokenHeader_cancelled (hcancelled : e.cancelled = true) :
    exec (.tokenHeader n tag da) s = .next (((s.takeTok n k).freeToken k.exec k.die k.body k.route k.units).loseTask k.exec k.frag) := by
  rw [exec_tokenHeader]
  delta execTokenHeader
  simp only [halive, Nat.not_le.mpr htag, hk, hheader, hnew, he, hcancelled, Option.isSome_none, Bool.not_true, decide_false, Bool.or_self, Bool.false_eq_true,
    if_false, if_true]

/-- R256: a header of a Camp that takes no tokens is stale. -/
theorem tokenHeader_stale (hlive : e.cancelled = false) (hcamp : s.accepts e.camp = false) :
    exec (.tokenHeader n tag da) s = .next (s.staleTok n k e.camp 0 0) := by
  rw [exec_tokenHeader]
  delta execTokenHeader
  simp only [halive, Nat.not_le.mpr htag, hk, hheader, hnew, he, hlive, hcamp, Option.isSome_none, Bool.not_true, Bool.not_false, decide_false, Bool.or_self,
    Bool.false_eq_true, if_false, if_true]

variable {p : Plan} {f : Frag} (hlive : e.cancelled = false) (hcamp : s.accepts e.camp = true) (hp : s.planOf e = some p) (hf : p.frags[k.frag]? = some f)
include hlive hcamp hp hf

/-- R256: below every limit the free entry that firmware names is allocated. -/
theorem tokenHeader_allocates (hroom : s.limited k.die e.camp (e.bound p k.frag) = false) (hfree : (s.entry k.die tag).state = .free) :
    exec (.tokenHeader n tag da) s = .next (s.allocEntry n k e f (e.bound p k.frag) tag da) := by
  rw [exec_tokenHeader]
  delta execTokenHeader
  simp only [halive, Nat.not_le.mpr htag, hk, hheader, hnew, he, hlive, hcamp, hp, hf, hroom, hfree, Option.isSome_none, Bool.not_true, bne_self_eq_false,
    decide_false, Bool.or_self, Bool.false_eq_true, if_false]

/-- R259: under a limit the header joins its lane, which is recorded. -/
theorem tokenHeader_queues {u : State} (hlimit : s.limited k.die e.camp (e.bound p k.frag) = true)
    (hnear : s.takeNear e.camp (queueUnits (s.queued e.camp k.die + 1) - queueUnits (s.queued e.camp k.die)) = some u) :
    ∃ r, exec (.tokenHeader n tag da) s = .next ((u.enqueue n (laneKey e.camp k.die (e.bound p k.frag)) k).trace k.die r) := by
  have hfresh : (k.entry.isSome || k.queued) = false := by rw [hheader, hnew, Option.isSome_none, Bool.or_self]
  rw [exec_tokenHeader]
  delta execTokenHeader
  simp only [halive, Nat.not_le.mpr htag, hk, hfresh, he, hlive, hcamp, hp, hf, hlimit, hnear, Bool.not_true, decide_false, Bool.or_self,
    Bool.false_eq_true, if_false, if_true]
  exact ⟨_, rfl⟩

end Header

/-! ### Releases -/

/-- TOKEN_RELEASE's meaning (R257, R258). -/
theorem exec_tokenRelease (s : State) (n : Nat) : exec (.tokenRelease n) s = execTokenRelease n s := rfl

/-- The operand slot `slot` of an entry has arrived. -/
def Entry.arrive (x : Entry) (slot : Nat) : Entry := { x with arrived := if bits x.arrived slot 1 = 1 then x.arrived else x.arrived + 2 ^ slot }

section Release

variable {s : State} {n tag epoch : Nat} {k : NetTok} (halive : s.alive = true) (hk : mget n s.run.net = some k) (hentry : k.entry = some (tag, epoch))
include halive hk hentry

/-- R257: a release of a waiting entry's epoch arrives, and may make the entry READY. -/
theorem tokenRelease_arrives {e : Exec} {p : Plan} {f : Frag} (hepoch : (s.entry k.die tag).epoch = epoch) (hwaiting : (s.entry k.die tag).state = .waiting)
    (hcamp : s.accepts (s.entry k.die tag).camp = true) (he : mget k.exec s.execs = some e) (hp : s.planOf e = some p) (hf : p.frags[k.frag]? = some f) :
    exec (.tokenRelease n) s =
      .next (((((s.takeTok n k).setEntry k.die tag ((s.entry k.die tag).arrive (f.kinds.idxOf 0))).readyIf k.die tag).settleExec k.exec).dispatch) := by
  have haccepted : ((s.entry k.die tag).epoch != epoch || (s.entry k.die tag).state != .waiting || !s.accepts (s.entry k.die tag).camp) = false := by
    rw [hepoch, hwaiting, hcamp, bne_self_eq_false, bne_self_eq_false, Bool.not_true, Bool.or_self, Bool.or_self]
  rw [exec_tokenRelease]
  delta execTokenRelease
  simp only [halive, hk, hentry, haccepted, he, hp, hf, Option.bind_some, Bool.not_true, Bool.false_eq_true, if_false]
  rfl

/-- R258: any other release is stale, and counted. -/
theorem tokenRelease_stale
    (hstale : (s.entry k.die tag).epoch ≠ epoch ∨ (s.entry k.die tag).state ≠ .waiting ∨ s.accepts (s.entry k.die tag).camp = false) :
    exec (.tokenRelease n) s = .next (((s.staleTok n k (s.entry k.die tag).camp tag epoch).settleExec k.exec).dispatch) := by
  have hrefused : ((s.entry k.die tag).epoch != epoch || (s.entry k.die tag).state != .waiting || !s.accepts (s.entry k.die tag).camp) = true := by
    simpa only [Bool.or_eq_true, bne_iff_ne, Bool.not_eq_true', or_assoc] using hstale
  rw [exec_tokenRelease]
  delta execTokenRelease
  simp only [halive, hk, hentry, hrefused, Bool.not_true, Bool.false_eq_true, if_false, if_true]

end Release

/-! ### Readmission -/

/-- OVERFLOW_READMIT's meaning (R259). -/
theorem exec_overflowReadmit (s : State) (camp die : Nat) (lane : Bool) (tag da : Nat) :
    exec (.overflowReadmit camp die lane tag da) s = execOverflowReadmit camp die lane tag da s := rfl

/-- R259: a lane's first header leaves it for a free entry once no limit binds. -/
theorem overflowReadmit_allocates {s : State} {camp die n tag : Nat} (da : Nat) {lane : Bool} {l : List Nat} {k : NetTok} {e : Exec} {p : Plan} {f : Frag}
    (halive : s.alive = true) (htag : tag < 65536) (hlane : mgetD [] (laneKey camp die lane) s.run.overflow = n :: l) (hk : mget n s.run.net = some k)
    (he : mget k.exec s.execs = some e) (hp : s.planOf e = some p) (hf : p.frags[k.frag]? = some f) (hlive : e.cancelled = false)
    (hroom : s.limited die camp (e.bound p k.frag) = false) (hfree : (s.entry die tag).state = .free) :
    exec (.overflowReadmit camp die lane tag da) s = .next ((s.unqueue camp die n).allocEntry n k e f (e.bound p k.frag) tag da) := by
  rw [exec_overflowReadmit]
  delta execOverflowReadmit
  simp only [halive, Nat.not_le.mpr htag, hlane, hk, he, hp, hf, hlive, hroom, hfree, Bool.not_true, bne_self_eq_false, decide_false, Bool.or_self, Bool.false_eq_true,
    if_false]

/-! ### Event tokens -/

/-- THREAD_EVENT_TOKEN's meaning (R260, R398, R436). -/
theorem exec_threadEventToken (s : State) (n : Nat) : exec (.threadEventToken n) s = execThreadEventToken n s := rfl

/-- The token of an event source has left for its store. -/
def State.takeEventToken (s : State) (n : Nat) : State :=
  State.rs { s with io := { s.io with tokens := s.io.tokens.filter (fun t => t.source != n) } } .EVR_SRC_in_service n 0

/-- A thread learns the source of the event it waited for, and the request is counted (R398). -/
def State.tellSource (s : State) (n key : Nat) : State := (s.setU key ((s.uctx key).setCreg crEvsrc (n + 512))).ra .ULR_STAT_requests (key / 32) 1

/-- R398, R436: an accepted event token makes the waiting thread's entry READY. -/
theorem threadEventToken_wakes {s : State} {n key : Nat} {k : EventToken} (halive : s.alive = true) (hk : s.io.tokens.find? (fun t => t.source == n) = some k)
    (htakes : (s.takeEventToken n).takesEvent k.die k.tag k.epoch k.camp = true) (hthread : (s.takeEventToken n).threadOf k.die k.tag = some key) :
    exec (.threadEventToken n) s = .next (((((s.takeEventToken n).tellSource n key).setEntry k.die k.tag
      { ((s.takeEventToken n).tellSource n key).entry k.die k.tag with arrived := 1 }).makeReady k.die k.tag).dispatch) := by
  unfold State.takeEventToken at htakes hthread
  rw [exec_threadEventToken]
  delta execThreadEventToken
  simp only [halive, hk, htakes, hthread, Bool.not_true, Bool.false_eq_true, if_false, if_true]
  rfl

/-- Settles O26: each clause is one command's outcome under the checks that its premises name; a queued header is read off its lane. -/
theorem tokenRows : Obligations.TokenRows := by
  refine ⟨fun s n tag da k e p f halive htag hk hheader hnew he => ⟨?cancelled, ?stale, ?allocates, ?queues⟩,
    fun s n tag epoch k halive hk hentry => ⟨?arrives, tokenRelease_stale halive hk hentry⟩, ?readmits, ?wakes⟩
  case cancelled => exact tokenHeader_cancelled da halive htag hk hheader hnew he
  case stale => exact tokenHeader_stale da halive htag hk hheader hnew he
  case allocates => exact fun hlive hcamp hp hf hroom hfree => tokenHeader_allocates da halive htag hk hheader hnew he hlive hcamp hp hf hroom hfree
  case queues =>
    intro u hlive hcamp hp hf hlimit hnear
    obtain ⟨r, hqueues⟩ := tokenHeader_queues da halive htag hk hheader hnew he hlive hcamp hp hf hlimit hnear
    refine ⟨_, hqueues, ?_, ?_⟩
    · rw [State.trace_run]
      rfl
    · rw [State.trace_run, State.enqueue, mgetD, mget_mput_self, Option.getD_some]
  case arrives => exact fun e p f hepoch hwaiting hcamp he hp hf => tokenRelease_arrives halive hk hentry hepoch hwaiting hcamp he hp hf
  case readmits =>
    exact fun s camp die n tag da lane l k e p f halive htag hlane hk he hp hf hlive hroom hfree =>
      overflowReadmit_allocates da halive htag hlane hk he hp hf hlive hroom hfree
  case wakes => exact fun s n key k halive hk htakes hthread => threadEventToken_wakes halive hk htakes hthread

end Sys2Proof.Machine
end

section
/-! PROOFS. Translation walks and the invalidation of what they leave in the caches (R297 to R302): one lemma for each outcome of a command. -/

namespace Sys2Proof.Machine

section Walk

/-- The index in XLT_STAT and XLT_FAULT that a requester counts and latches at (R302). -/
def XReq.inst : XReq → Nat
  | .tile t => t / 8
  | .cluster c => c
  | .dma => 16

/-- The translation cache that a requester looks in first (R300). -/
def State.ownXlt (s : State) : XReq → List Xlt
  | .tile t => mgetD [] t s.m.tileXlt
  | .cluster c => mgetD [] c s.m.clusterXlt
  | .dma => s.m.dmaXlt

/-- The cache of its cluster that a tile looks in next; no other requester has a second one (R300). -/
def State.sharedXlt (s : State) : XReq → List Xlt
  | .tile t => mgetD [] (t / 8) s.m.clusterXlt
  | .cluster _ | .dma => []

/-- XLT_STAT counts the hits in a cluster's cache alone. -/
def State.countOwnHit (s : State) : XReq → State
  | .cluster c => s.ra .XLT_STAT_hits c 1
  | .tile _ | .dma => s

/-- A walk is counted in its cluster, and the entries that it read are charged to its Camp. -/
def State.chargeWalk (s : State) (q : XReq) (camp v : Nat) : State :=
  (if q = .dma then s else s.ra .XLT_STAT_walks q.inst 1).charge camp 1 (8 * (s.walk q.cluster? camp v).2)

/-- TRANSLATION_WALK's meaning (R297 to R302). -/
theorem exec_translationWalk (s : State) (q : XReq) (camp v : Nat) (a : Acc) (ex : Option Nat) :
    exec (.translationWalk q camp v a ex) s = execTranslationWalk q camp v a ex s := rfl

variable {s : State} {q : XReq} {camp v : Nat} {a : Acc} {ex : Option Nat} {x : Xlt} (halive : s.alive = true) (hv : v < 2 ^ 46)
include halive hv

/-- R299, R300: a hit in the requester's own cache serves it where the page permits the access, and latches a fault where it does not. -/
theorem translationWalk_own (hown : xhit (s.ownXlt q) camp v = some x) :
    exec (.translationWalk q camp v a ex) s =
      .next (if x.allows a then s.countOwnHit q else (s.countOwnHit q).xltFault q.inst camp v xPermission ex) := by
  rw [exec_translationWalk]
  delta execTranslationWalk
  cases q <;> (
    simp only [State.ownXlt] at hown
    simp only [halive, Nat.mod_eq_of_lt hv, hown, Bool.not_true, Bool.false_eq_true, if_false, ← apply_ite Host.Outcome.next]
    rfl)

variable (hown : xhit (s.ownXlt q) camp v = none)
include hown

/-- R300: what misses a tile's own cache and hits its cluster's is remembered in both. -/
theorem translationWalk_shared (hshared : xhit (s.sharedXlt q) camp v = some x) (hallows : x.allows a = true) :
    exec (.translationWalk q camp v a ex) s = .next ((s.ra .XLT_STAT_hits q.inst 1).xremember q x) := by
  cases q with
  | cluster | dma => exact absurd hshared (by simp [State.sharedXlt, xhit])
  | tile t =>
    simp only [State.ownXlt, State.sharedXlt] at hown hshared
    rw [exec_translationWalk]
    delta execTranslationWalk
    simp only [halive, Nat.mod_eq_of_lt hv, hown, hshared, hallows, Bool.not_true, Bool.false_eq_true, if_false, if_true]
    rfl

variable (hshared : xhit (s.sharedXlt q) camp v = none)
include hshared

/-- R299, R300, R302: what misses every cache is walked. A page that is found is remembered, whether or not it permits the access; a fault is latched. -/
theorem translationWalk_walks :
    exec (.translationWalk q camp v a ex) s = .next (match (s.walk q.cluster? camp v).1 with
      | .ok x => if x.allows a then (s.chargeWalk q camp v).xremember q x
        else ((s.chargeWalk q camp v).xremember q x).xltFault q.inst camp v xPermission ex
      | .error k => (s.chargeWalk q camp v).xltFault q.inst camp v k ex) := by
  rw [exec_translationWalk]
  delta execTranslationWalk State.chargeWalk
  simp only [halive, Nat.mod_eq_of_lt hv, Bool.not_true, Bool.false_eq_true, if_false, ← apply_ite Host.Outcome.next]
  rcases s.walk q.cluster? camp v with ⟨r, n⟩
  cases q <;> (
    simp only [State.ownXlt, State.sharedXlt] at hown hshared
    simp only [hown, hshared]
    cases r <;> rfl)

end Walk

/-- R300: a hit is on a translation of the Camp itself, for a page that holds the view DA. -/
theorem xhit_own {l : List Xlt} {camp v : Nat} {x : Xlt} (h : xhit l camp v = some x) : x.camp = camp ∧ x.view ≤ v ∧ v < x.view + x.size := by
  simpa [and_assoc] using List.find?_some h

/-! ### Invalidation -/

/-- The fields of XLT_INVAL that a write of it sets (Table 10-12). -/
def State.xltInvalFields (s : State) (n : Nat) : State :=
  (((s.rs .XLT_INVAL_camp 0 (bits n 0 10)).rs .XLT_INVAL_all_camps 0 (bits n 10 1)).rs .XLT_INVAL_start 0 (bits n 13 29)).rs .XLT_INVAL_units 0 (bits n 42 20)

/-- The state in which an invalidation is in progress. -/
def State.xltInvalStarted (s : State) (n : Nat) : State :=
  ((s.xltInvalFields n).xdrop (xmatch (bits n 0 10) (bits n 10 1 == 1) (bits n 13 29) (bits n 42 20))).rs .XLT_INVAL_busy 0 1

/-- XLT_INVAL's meaning (R301). -/
theorem exec_xltInval (s : State) (v : BitVec 64) : exec (.xltInval v) s = execXltInval v s := rfl

/-- R301: go starts an invalidation unless one is in progress. -/
theorem xltInval_starts {s : State} {v : BitVec 64} (halive : s.alive = true) (hidle : s.rg .XLT_INVAL_busy 0 = 0) (hgo : bits v.toNat 11 1 = 1) :
    exec (.xltInval v) s = .next (s.xltInvalStarted v.toNat) := by
  rw [exec_xltInval]
  delta execXltInval State.xltInval
  simp only [halive, hidle, hgo, Nat.zero_ne_one, Nat.one_ne_zero, decide_false, Bool.or_self, Bool.false_eq_true, if_true, if_false]
  rfl

section

variable (s : State) (n : Nat)

theorem xltInvalStarted_busy : (s.xltInvalStarted n).rg .XLT_INVAL_busy 0 = 1 := State.rg_rs _ _ _ _ (by decide)

/-- What the caches drop leaves memory and the registers. -/
theorem xdrop_mem (t : State) (p : Xlt → Bool) : (t.xdrop p).m.mem = t.m.mem := rfl

theorem xdrop_rg (t : State) (p : Xlt → Bool) (f : Fld) (i : Nat) : (t.xdrop p).rg f i = t.rg f i := rfl

/-- Neither what the caches drop nor busy touches the other fields of XLT_INVAL. -/
theorem xltInvalStarted_rg {f : Fld} (hreg : f.reg = Fld.XLT_INVAL_busy.reg)
    (hapart : f.lo + f.w ≤ Fld.XLT_INVAL_busy.lo ∨ Fld.XLT_INVAL_busy.lo + Fld.XLT_INVAL_busy.w ≤ f.lo) :
    (s.xltInvalStarted n).rg f 0 = (s.xltInvalFields n).rg f 0 := 
  (State.rg_rs_field _ _ _ _ _ (by decide) hreg hapart).trans (xdrop_rg ..)

theorem xltInvalStarted_camp : (s.xltInvalStarted n).rg .XLT_INVAL_camp 0 = bits n 0 10 := by
  rw [xltInvalStarted_rg s n (f := .XLT_INVAL_camp) rfl (by decide), State.xltInvalFields, State.rg_rs_field, State.rg_rs_field, State.rg_rs_field, State.rg_rs]
  · exact Nat.mod_mod _ _
  all_goals decide

theorem xltInvalStarted_start : (s.xltInvalStarted n).rg .XLT_INVAL_start 0 = bits n 13 29 := by
  rw [xltInvalStarted_rg s n (f := .XLT_INVAL_start) rfl (by decide), State.xltInvalFields, State.rg_rs_field, State.rg_rs]
  · exact Nat.mod_mod _ _
  all_goals decide

theorem xltInvalStarted_units : (s.xltInvalStarted n).rg .XLT_INVAL_units 0 = bits n 42 20 := by
  rw [xltInvalStarted_rg s n (f := .XLT_INVAL_units) rfl (by decide), State.xltInvalFields, State.rg_rs]
  · exact Nat.mod_mod _ _
  · decide

theorem xltInvalStarted_mem : (s.xltInvalStarted n).m.mem = s.m.mem := by
  rw [State.xltInvalStarted, State.rs_m, xdrop_mem, State.xltInvalFields, State.rs_m, State.rs_m, State.rs_m, State.rs_m]

end

end Sys2Proof.Machine
end

section
/-! PROOFS. The cluster caches and the patrol scrub (R303 to R312): one lemma for each outcome of a command. -/

namespace Sys2Proof.Machine

section Rows

variable {s : State}

/-- CACHE_ACCESS's meaning (R303 to R306). -/
theorem exec_cacheAccess (s : State) (cl camp ex da cls : Nat) (wr : Option Bytes) (p : Parity) :
    exec (.cacheAccess cl camp ex da cls wr p) s = execCacheAccess cl camp ex da cls wr p s := rfl

/-- R303: an access inside one line of populated memory runs in a cluster that is not frozen. -/
theorem cacheAccess_runs {cl camp ex da cls : Nat} {wr : Option Bytes} {p : Parity} (halive : s.alive = true) (hcl : cl < 16) (hcls : cls < 3)
    (hda : s.populated da = true) (hwarm : s.rg .PWR_CLUSTER_pstate cl < 2) (hfits : ∀ b, wr = some b → 0 < b.length ∧ da % 256 / 2 + b.length ≤ 128) :
    exec (.cacheAccess cl camp ex da cls wr p) s = .next (s.cacheAccess cl camp ex da cls wr p) := by
  rw [exec_cacheAccess]
  delta execCacheAccess
  cases wr with
  | none => simp [halive, hcl, hcls, hda, hwarm]
  | some b => simp [halive, hcl, hcls, hda, hwarm, hfits b rfl]

/-! ### Maintenance -/

section Maintenance

variable {cl : Nat} (halive : s.alive = true) (hcl : cl < 16)
include halive hcl

/-- R307: an operation starts where none is in progress. -/
theorem maintRow_starts (op : Nat) {da : Nat} (lines : Nat) (all : Bool) (hda : da < 2 ^ 46) (hidle : s.rg .CCH_MAINT_busy cl = 0) :
    s.maintRow op cl da lines all = .next ((s.rs .CCH_MAINT_LEN_lines cl lines).cchMaint cl (da + (if all then 2 ^ 48 else 0) + op * 2 ^ 46)) := by
  delta State.maintRow
  simp only [halive, Nat.not_le.mpr hcl, hidle, Nat.mod_eq_of_lt hda, Nat.zero_ne_one, Bool.not_true, decide_false, Bool.or_self, Bool.false_eq_true, if_false,
    Nat.add_right_comm da]

/-- Table 10-17: an operation beside one in progress is flagged and has no other effect. -/
theorem maintRow_rejected (op da lines : Nat) (all : Bool) (hbusy : s.rg .CCH_MAINT_busy cl = 1) :
    s.maintRow op cl da lines all = .next (s.rs .CCH_MAINT_LEN_rejected cl 1) := by
  delta State.maintRow State.cchMaint
  simp only [halive, Nat.not_le.mpr hcl, hbusy, Bool.not_true, decide_false, Bool.or_self, Bool.false_eq_true, if_false, if_true]

end Maintenance

/-- CACHE_FLUSH's meaning (R307). -/
theorem exec_cacheFlush (s : State) (cl da lines : Nat) (all : Bool) : exec (.cacheFlush cl da lines all) s = s.maintRow 0 cl da lines all := rfl

/-- CACHE_INVALIDATE's meaning (R307). -/
theorem exec_cacheInvalidate (s : State) (cl da lines : Nat) (all : Bool) :
    exec (.cacheInvalidate cl da lines all) s = s.maintRow 1 cl da lines all := rfl

/-- CACHE_FLUSH_INVAL's meaning (R307). -/
theorem exec_cacheFlushInval (s : State) (cl da lines : Nat) (all : Bool) :
    exec (.cacheFlushInval cl da lines all) s = s.maintRow 2 cl da lines all := rfl

/-- CACHE_MAINT_DONE's meaning (R307). -/
theorem exec_cacheMaintDone (s : State) (cl : Nat) : exec (.cacheMaintDone cl) s = execCacheMaintDone cl s := rfl

/-- R307: an operation is done when it waits in none of the clusters that it names. -/
theorem cacheMaintDone_ends {cl : Nat} (hbusy : s.rg .CCH_MAINT_busy cl ≠ 0)
    (hnone : (maintClusters cl (s.rg .CCH_MAINT_all_clusters cl == 1)).all (fun k => (s.cache k).maint.isEmpty) = true) :
    exec (.cacheMaintDone cl) s = .next (s.rs .CCH_MAINT_busy cl 0) := by
  rw [exec_cacheMaintDone]
  delta execCacheMaintDone
  simp only [hbusy, hnone, if_false, if_true]

/-! ### Fills, evictions and the scrub -/

/-- The operations that wait in a cluster are applied as far as none is held back. -/
def State.drainCache (s : State) (cl : Nat) : State := drainMaint cl (s.cache cl).maint.length s

/-- A fill's line joins the cache, clean and with what memory holds. -/
def State.fillLine (s : State) (cl l : Nat) (f : Fill) : State :=
  (s.setCache cl { s.cache cl with fills := (s.cache cl).fills.erase f }).insertLine cl f.way ⟨l, false, f.cls, f.exec, s.memGet (256 * l) 128, false⟩

/-- FILL_COMPLETE's meaning (R310, R311). -/
theorem exec_fillComplete (s : State) (cl l : Nat) (ecc : Ecc) : exec (.fillComplete cl l ecc) s = execFillComplete cl l ecc s := rfl

/-- R304, R310: sound data of a fill that waits for nothing and merges nothing joins the cache. -/
theorem fillComplete_joins {cl l : Nat} {f : Fill} (halive : s.alive = true) (hf : (s.cache cl).fills.find? (fun f => f.num == l) = some f)
    (hfree : f.waitCtl = none) (hmerge : f.merge = []) (hsound : s.memPoisoned (256 * l) 128 = false) :
    exec (.fillComplete cl l .ok) s = .next ((s.fillLine cl l f).drainCache cl) := by
  rw [exec_fillComplete]
  delta execFillComplete State.memEcc
  have sound : (Ecc.ok == Ecc.uncorrectable) = false := rfl
  simp only [halive, hf, hfree, hmerge, hsound, sound, Bool.not_true, Bool.false_eq_true, if_false, List.isEmpty_nil, List.foldl_nil, Bool.false_and]
  rfl

/-- EVICTION_WRITEBACK_DONE's meaning (Table 10-7). -/
theorem exec_evictionWritebackDone (s : State) (cl l : Nat) (parityFail : Bool) :
    exec (.evictionWritebackDone cl l parityFail) s = execEvictionWritebackDone cl l parityFail s := rfl

/-- R305: an eviction's data reaches memory, and what waited for it goes on. -/
theorem evictionWritebackDone_writes {cl l : Nat} {e : EvbEntry} (halive : s.alive = true) (he : (s.cache cl).evb.find? (fun e => e.num == l) = some e) :
    exec (.evictionWritebackDone cl l false) s = .next (drainMaint cl (s.cache cl).maint.length
      ((s.setCache cl { s.cache cl with evb := (s.cache cl).evb.erase e }).writeBack l e.data e.poison)) := by
  rw [exec_evictionWritebackDone]
  delta execEvictionWritebackDone
  simp only [halive, he, Bool.not_true, Bool.false_eq_true, if_false]

/-- PATROL_SCRUB's meaning (R312). -/
theorem exec_patrolScrub (s : State) (da : Nat) (ecc : Ecc) : exec (.patrolScrub da ecc) s = execPatrolScrub da ecc s := rfl

/-- R312: the scrub of a populated unit poisons it where its data cannot be corrected. -/
theorem patrolScrub_corrects_or_poisons {da : Nat} {ecc : Ecc} (halive : s.alive = true)
    (hhours : (if da < 2 ^ 40 then s.rg .NMC_CTL_scrub_hours 0 else s.rg .FMC_CTL_scrub_hours 0) ≠ 0) (hda : s.populated da = true) :
    exec (.patrolScrub da ecc) s =
      .next (if ecc = .uncorrectable then (s.memEcc da ecc true).poison (da - da % 64) 32 else s.memEcc da ecc true) := by
  rw [exec_patrolScrub]
  delta execPatrolScrub
  simp only [halive, hhours, hda, Bool.not_true, decide_false, Bool.or_self, Bool.false_eq_true, if_false, beq_iff_eq, apply_ite Host.Outcome.next]

end Rows

/-- Settles O39: each clause is one command's outcome under the checks that its premises name, a walk's by the first cache that holds the page. -/
theorem translationAndCacheRows : Obligations.TranslationAndCacheRows := by
  refine ⟨⟨fun s q camp v a ex halive hv => ?walks, fun l camp v x => xhit_own, fun s v halive hidle hgo => ?inval, fun s => rfl⟩,
    fun s halive => ⟨fun cl camp ex da cls wr p hcl hcls hda hwarm hfits => cacheAccess_runs halive hcl hcls hda hwarm hfits,
      fun cl da lines all hcl hda hidle => ?starts, fun cl da lines all hcl hbusy => ?rejected, fun cl => cacheMaintDone_ends,
      fun cl l f hf hfree hmerge hsound => fillComplete_joins halive hf hfree hmerge hsound, fun cl l e he => evictionWritebackDone_writes halive he,
      fun da ecc hhours hda => patrolScrub_corrects_or_poisons halive hhours hda⟩⟩
  case walks =>
    cases q <;> exact ⟨fun x hown => translationWalk_own halive hv hown,
      fun x hown hshared hallows => translationWalk_shared halive hv hown hshared hallows,
      fun hown hshared => translationWalk_walks halive hv hown hshared⟩
  case inval =>
    exact ⟨_, xltInval_starts halive hidle hgo, xltInvalStarted_busy s _, xltInvalStarted_camp s _,
      xltInvalStarted_start s _, xltInvalStarted_units s _, xltInvalStarted_mem s _⟩
  case starts =>
    have starts := fun op => maintRow_starts halive hcl op lines all hda hidle
    rw [exec_cacheFlush, exec_cacheInvalidate, exec_cacheFlushInval, starts, starts, starts, Nat.zero_mul, Nat.add_zero, Nat.one_mul]
    exact ⟨rfl, rfl, rfl⟩
  case rejected => exact (exec_cacheFlush ..).trans (maintRow_rejected halive hcl 0 da lines all hbusy)

end Sys2Proof.Machine
end
